-- ==== Sys2Proof/Word.lean ====
section
/-! DEFINITION. The word types of the Kalbex KX416 (00_scope.md 5, 12_fabric_link_management_port_and_alerts.md 12.1). -/

namespace Sys2Proof

/-- A byte of a line or of an SPI frame. -/
abbrev Byte := BitVec 8

/-- A 32-bit management register word (R165). -/
abbrev Word := BitVec 32

/-- A 40-bit byte address; a line address is one whose low six bits are zero (00_scope.md 5). -/
abbrev Addr := BitVec 40

/-- A byte mask: bit `p` is byte position `p` of a line (00_scope.md 5). -/
abbrev Mask := BitVec 64

/-- A line: 64 bytes, element `p` is byte position `p`. -/
abbrev Line := Vector Byte 64

/-- A stream number 0..15. -/
abbrev Stream := Fin 16

/-- A fabric tag 0..255, echoed and never checked (12.1). -/
abbrev FabricTag := BitVec 8

/-- A media tag 0..31 (R151). -/
abbrev MediaTag := Fin 32

/-- A take serial, compared modulo 2^32 (R65). -/
abbrev Serial := BitVec 32

/-- A 48-bit journal sequence number (00_scope.md 5). -/
abbrev Seq := BitVec 48

/-- A thing the part holds once for each of the sixteen streams. -/
abbrev PerStream (α : Type) := Vector α 16

/-- What stream `i` has. -/
def PerStream.read {α : Type} (v : PerStream α) (i : Stream) : α := v[i.val]

/-- Stream `i` now has `x`, the others what they had. -/
def PerStream.write {α : Type} (v : PerStream α) (i : Stream) (x : α) : PerStream α := v.set i.val x

/-- The streams in rising order. -/
def allStreams : List Stream := List.finRange 16

/-- The line of 64 zero bytes. -/
def zeroLine : Line := Vector.replicate 64 0#8

end Sys2Proof
end

