-- ==== Sys2Proof/Syntax.lean ====
section
/-! DEFINITION. The commands of the part: one constructor for each row of spec/opcode_table.json, with the operands the
spec gives the event. -/

namespace Sys2Proof

/-- The kind field of a fabric request (12.1). -/
inductive RequestKind where
  | read | write | commit | discard
  deriving DecidableEq, Repr

/-- A fabric request record (12.1). `data` holds the bytes of a WRITE, the first for the offset position. -/
structure Request where
  kind : RequestKind
  stream : Stream
  tag : FabricTag
  addr : Addr
  length : BitVec 7
  data : List Byte
  deriving DecidableEq, Repr

/-- The status of a media response (11.2). -/
inductive MediaStatus where
  | ok | retry | error
  deriving DecidableEq, Repr

/-- The three 48-bit readouts of the register table (12.4). -/
inductive Readout48 where
  | applied | durable | nextSeq
  deriving DecidableEq, Repr

/-- A command: one indivisible event of the part. A media tag operand is the tag the response record carries. -/
inductive Instr where
  /-- HARD_RESET (R117); the operand is whether PFW_N is found asserted when it ends (R142). -/
  | hardReset (pfwAsserted : Bool)
  /-- REQUEST_ARRIVAL (R159). -/
  | requestArrival (r : Request)
  /-- TAKE_READ (R71): the stream is the one the take arbiter grants (R161). -/
  | takeRead
  /-- TAKE_WRITE (R56). -/
  | takeWrite
  /-- COMMIT (R11). -/
  | commit
  /-- DISCARD (R13). -/
  | discard
  /-- RESPONSE_SEND (R163). -/
  | responseSend
  /-- IDLE_EXPIRY (R9). -/
  | idleExpiry (st : Stream)
  /-- CONFLICT_EXPIRY (R46). -/
  | conflictExpiry (st : Stream)
  /-- MEDIA_ISSUE (R153): the request is the one the media arbiter grants. -/
  | mediaIssue
  /-- MEDIA_RETRY (R154). -/
  | mediaRetry (t : MediaTag)
  /-- STALE_RESPONSE (R151). -/
  | staleResponse (t : MediaTag) (status : MediaStatus)
  /-- MEDIA_TIMEOUT (R155). -/
  | mediaTimeout (t : MediaTag)
  /-- HOME_READ_RETURN (R78). -/
  | homeReadReturn (t : MediaTag) (data : Line)
  /-- HOME_READ_FAIL (R74): the response ERROR; exhausted retries come through MEDIA_RETRY, here and below. -/
  | homeReadFail (t : MediaTag)
  /-- POSTED_WRITE_OK (R64). -/
  | postedWriteOk (t : MediaTag)
  /-- POSTED_WRITE_FAIL (R67). -/
  | postedWriteFail (t : MediaTag)
  /-- JOURNAL_LINE_OK (R97). -/
  | journalLineOk (t : MediaTag)
  /-- JOURNAL_LINE_FAIL (R99). -/
  | journalLineFail (t : MediaTag)
  /-- COMMIT_LINE_OK (R98). -/
  | commitLineOk (t : MediaTag)
  /-- COMMIT_LINE_FAIL (R100). -/
  | commitLineFail (t : MediaTag)
  /-- HOME_WRITE_OK (R106). -/
  | homeWriteOk (t : MediaTag)
  /-- HOME_WRITE_FAIL (R107). -/
  | homeWriteFail (t : MediaTag)
  /-- CHECKPOINT_OK (R112). -/
  | checkpointOk (t : MediaTag)
  /-- CHECKPOINT_FAIL (R113). -/
  | checkpointFail (t : MediaTag)
  /-- FORMAT_LINE_OK (R120). -/
  | formatLineOk (t : MediaTag)
  /-- FORMAT_LINE_FAIL (R120). -/
  | formatLineFail (t : MediaTag)
  /-- RELOC_LINE_OK (R136). -/
  | relocLineOk (t : MediaTag)
  /-- RELOC_LINE_FAIL (R136). -/
  | relocLineFail (t : MediaTag)
  /-- RETIRING_SB_OK (R138). -/
  | retiringSbOk (t : MediaTag)
  /-- RETIRING_SB_FAIL (R139). -/
  | retiringSbFail (t : MediaTag)
  /-- RESTORING_SB_OK (R139). -/
  | restoringSbOk (t : MediaTag)
  /-- RESTORING_SB_FAIL (R139). -/
  | restoringSbFail (t : MediaTag)
  /-- SUPERBLOCK_READ_OK (R126): one of the two reads returns. -/
  | superblockReadOk (t : MediaTag) (data : Line)
  /-- HEADER_READ_OK (R127). -/
  | headerReadOk (t : MediaTag) (data : Line)
  /-- RECORD_READ_OK (R128): one of the reads of the record returns. -/
  | recordReadOk (t : MediaTag) (data : Line)
  /-- REPLAY_WRITE_OK (R129). -/
  | replayWriteOk (t : MediaTag)
  /-- RECOVERY_MEDIA_FAIL (R131). -/
  | recoveryMediaFail (t : MediaTag)
  /-- LINK_RESET_ACK (R157). -/
  | linkResetAck
  /-- LINK_RESET_TIMEOUT (R125). -/
  | linkResetTimeout
  /-- PFW_ASSERT (R142). -/
  | pfwAssert
  /-- DRAIN_BUDGET_EXPIRY (R146). -/
  | drainBudgetExpiry
  /-- START (R119). -/
  | start
  /-- FORMAT (R120). -/
  | format
  /-- RESTART (R122). -/
  | restart
  /-- RESUME (R123); the operand is the level of PFW_N at the command. -/
  | resume (pfwAsserted : Bool)
  /-- RELOC_GO (R137). -/
  | relocGo
  /-- RELOC_CANCEL (R137). -/
  | relocCancel
  /-- CLEAR_COUNTERS (R167). -/
  | clearCounters
  /-- UNKNOWN_COMMAND (R118): the value written to COMMAND. -/
  | unknownCommand (value : Word)
  /-- RELOC_REQUEST (R134): a write of RELOC_CTRL with REQUEST one; its k and HOLD fields. -/
  | relocRequest (k : BitVec 5) (hold : Bool)
  /-- EVENT_FLAGS_CLEAR (R166). -/
  | eventFlagsClear (value : Word)
  /-- EVENT_ENABLE_WRITE (R166). -/
  | eventEnableWrite (value : Word)
  /-- IDLE_TIMEOUT_WRITE (R8). -/
  | idleTimeoutWrite (value : Word)
  /-- READ_48_LOW (R165). -/
  | read48Low (r : Readout48)
  /-- REGISTER_WRITE (R165): any other register. -/
  | registerWrite (index : BitVec 8) (value : Word)
  deriving DecidableEq, Repr

end Sys2Proof
end

