-- ==== Sys2Proof/Decode.lean ====
section
/-! DEFINITION. The words of the table. No row of spec/opcode_table.json gives bits ("fields": [] in every row), so no word
spells a command. -/

namespace Sys2Proof

/-- The command that the word `w` of `nbits` bits spells by the table's bits: none, for the table gives no row bits. -/
def decodeTableWord (_nbits _w : Nat) : Option Instr := none

end Sys2Proof
end

