-- ==== Sys2Proof/Config.lean ====
section
/-! DEFINITION. What the part fixes: the sizes of its queues and buffers. The spec leaves no value of the part open, so
there is no free value here. -/

namespace Sys2Proof.Config

/-- Entries of one ingress queue (R159). -/
def ingressDepth : Nat := 8
/-- Responses the egress queue holds (R163). -/
def egressDepth : Nat := 128
/-- Slots of the staging buffer (R23). -/
def slotCount : Nat := 1024
/-- The OPEN quota, which has no register (R32). -/
def openQuota : Nat := 768
/-- Slots lent to the recovery sequencer: 0..321 (R37). -/
def scratchCount : Nat := 322
/-- Entries of the commit queue (R10). -/
def commitDepth : Nat := 32
/-- Records of the posted write queue (R61). -/
def postedDepth : Nat := 32
/-- Entries of the read tracker (R70). -/
def trackerDepth : Nat := 48
/-- Consecutive failed checkpoints that end in FAULTED (R113). -/
def checkpointErrorLimit : Nat := 3
/-- The ceiling of LOST_COUNT (R67). -/
def lostCeiling : Nat := 65535
/-- Register ID (12.4). -/
def partId : BitVec 32 := 0x4B580416#32

end Sys2Proof.Config
end

