-- ==== Sys2Proof/Machine/State.lean ====
section
/-! DEFINITION. The state of the part, block by block (00_scope.md 3.2), and its value after hard reset. -/

namespace Sys2Proof.Machine

/-! ## Names the spec gives -/

/-- Device modes (R116). -/
inductive Mode where
  | idle | formatting | recovering | ready | draining | halted | faulted
  deriving DecidableEq, Repr

/-- Start status (R116). -/
inductive StartStatus where
  | none | ok | unformatted | mismatch | relocated | badConfig | mediaFault | interrupted
  deriving DecidableEq, Repr

/-- Last-command status (R116). -/
inductive CommandStatus where
  | none | accepted | rejected
  deriving DecidableEq, Repr

/-- Response statuses (12.1). -/
inductive Status where
  | ok | posted | staged | committed | aborted | indoubt | denied | notReady | mediaError | powerfail | portDown
  deriving DecidableEq, Repr

/-- The reason field of an ABORTED response (12.1). -/
inductive Reason where
  | conflict | groupFull | quota | idle | journalError | powerfail | restart | fault
  deriving DecidableEq, Repr

/-- Doom reasons of a group record (R1). -/
inductive DoomReason where
  | conflict | groupFull | quota | idle
  deriving DecidableEq, Repr

/-- Reasons of a mass abort (R21). -/
inductive AbortCause where
  | powerfail | restart | fault
  deriving DecidableEq, Repr

/-- The event flags (12.4). -/
inductive EventFlag where
  | abort | postedLost | journalError | checkpointError | fault | recoveryDone | tornGroup | relocReady | relocDone
  | drainDone | journalLow | indoubt
  deriving DecidableEq, Repr

/-- The two superblock slots (R84). -/
inductive SbSlot where
  | a | b
  deriving DecidableEq, Repr

/-! ## Fabric port -/

/-- A response record (12.1); `loss` is the plain-loss flag of a COMMITTED. -/
structure Response where
  stream : Stream
  tag : FabricTag
  status : Status
  reason : Option Reason
  loss : Bool
  data : List Byte
  deriving DecidableEq, Repr

/-- An ingress queue entry: a request, or an answered entry that waits for egress room with its status (R162).
`arrival` orders held answers by arrival. -/
structure IngressEntry where
  req : Request
  arrival : Nat
  answer : Option Status
  deriving DecidableEq, Repr

/-- The fabric port (R159 to R163, R65). -/
structure Fabric where
  ingress : PerStream (List IngressEntry)
  credits : PerStream Nat
  egress : List Response
  takenUnanswered : Nat
  pointer : Stream
  takeSerial : Serial
  arrivals : Nat
  deriving DecidableEq, Repr

/-! ## Window decoder -/

/-- The kind a window confers (R54). -/
inductive WindowKind where
  | plain | guarded | readOnly
  deriving DecidableEq, Repr

/-- A window table entry (R54): granules of 4 KiB; bit `i` of the mask admits stream `i`. -/
structure Window where
  enabled : Bool
  base : BitVec 28
  limit : BitVec 28
  kind : WindowKind
  mask : BitVec 16
  deriving DecidableEq, Repr

/-- The default kind (R55). -/
inductive DefaultKind where
  | deny | plain
  deriving DecidableEq, Repr

/-- A journal region: its base and its size of 2^k lines (R84). -/
structure Region where
  base : Addr
  k : BitVec 5
  deriving DecidableEq, Repr

/-- The window decoder with the journal guard (R54, R55, R57). -/
structure Decoder where
  table : Vector Window 8
  defaultKind : DefaultKind
  guardActive : Option Region
  guardTarget : Option Region
  deriving DecidableEq, Repr

/-! ## Group controller -/

/-- A group record (R1): the fields present in each state. The slot list is in the order of the first write to each line;
the idle deadline is in milliseconds. -/
inductive GroupRecord where
  | absent
  | opened (slots : List Nat) (deadline : Option Nat)
  | doomed (reason : DoomReason)
  deriving DecidableEq, Repr

/-- The queue state of a commit-queue entry (R10). -/
inductive QueueState where
  | sealed | journaling | durable | applying
  deriving DecidableEq, Repr

/-- A journal extent (R10). -/
structure Extent where
  start : Nat
  length : Nat
  deriving DecidableEq, Repr

/-- A commit-queue entry (R10) with its COMMIT's take serial (R65), which also names the entry. `homeDone`: every home
write of the group has been acknowledged OK (R106). -/
structure Entry where
  stream : Stream
  state : QueueState
  slots : List Nat
  seq : Option Seq
  extent : Option Extent
  tag : FabricTag
  serial : Serial
  barrier : Nat
  lossMark : Bool
  answered : Bool
  homeDone : Bool
  deriving DecidableEq, Repr

/-- The group table and the commit queue, oldest entry first (R1, R10). -/
structure Groups where
  table : PerStream GroupRecord
  queue : List Entry
  deriving DecidableEq, Repr

/-! ## Staging buffer and claim unit -/

/-- Slot states (R23). FREE is the absence of a slot from the list of slots. -/
inductive SlotState where
  | opened | sealed | journaling | durable | applying | spent | aborted
  deriving DecidableEq, Repr

/-- The owning group of a version (R23): a stream and its group record, or its commit-queue entry. -/
inductive Owner where
  | record (st : Stream)
  | entry (st : Stream) (serial : Serial)
  deriving DecidableEq, Repr

/-- A slot that is not FREE (R23). -/
structure Slot where
  num : Nat
  state : SlotState
  line : Addr
  mask : Mask
  data : Line
  owner : Option Owner
  pins : Nat
  deriving DecidableEq, Repr

/-- A place in the line index: a slot and the line whose list it stands in. -/
structure IndexEntry where
  line : Addr
  slot : Nat
  deriving DecidableEq, Repr

/-- A guarded write held by the part (R33, R43). -/
structure HeldWrite where
  stream : Stream
  line : Addr
  offset : Nat
  length : Nat
  data : List Byte
  tag : FabricTag
  deriving DecidableEq, Repr

/-- The staging buffer (R23, R26, R33, R37). `slots`: the slots that are not FREE, by rising number. `index`: every line's
ordered list as one list, in the order in which the versions entered. `scratch`: the lines read into the scratch area, by
their number in the record, while it is held. -/
structure Staging where
  slots : List Slot
  index : List IndexEntry
  slotWait : List HeldWrite
  scratch : Option (List (Nat × Line))
  deriving DecidableEq, Repr

/-- A wait list record (R43); the deadline is in microseconds. -/
structure WaitRecord where
  write : HeldWrite
  arrival : Nat
  deadline : Nat
  deriving DecidableEq, Repr

/-- The claim unit (R43): the wait list in arrival order, and the arrival count. -/
structure Claims where
  waitList : List WaitRecord
  arrivalCount : Nat
  deriving DecidableEq, Repr

/-! ## Posted write queue and read unit -/

/-- A posted write record (R61). -/
structure PostedRecord where
  stream : Stream
  line : Addr
  mask : Mask
  data : Line
  serial : Serial
  issued : Bool
  deriving DecidableEq, Repr

/-- The posted write queue (R61, R66). -/
structure Posted where
  records : List PostedRecord
  lossMarks : PerStream Bool
  deriving DecidableEq, Repr

/-- The kind of a tracker entry (R70). -/
inductive ReadKind where
  | plain | guarded
  deriving DecidableEq, Repr

/-- Home read states (R70). NOT_NEEDED and RETURNED last no longer than the event that reaches them. -/
inductive HomeRead where
  | notNeeded | waiting | issued | returned
  deriving DecidableEq, Repr

/-- A read tracker entry (R70). -/
structure TrackerEntry where
  stream : Stream
  tag : FabricTag
  serial : Serial
  line : Addr
  offset : Nat
  length : Nat
  kind : ReadKind
  pinned : List Nat
  hold : Nat
  home : HomeRead
  deriving DecidableEq, Repr

/-! ## Journal controller, apply engine, checkpoint writer -/

/-- The journal writer (R94); `failed` in WRITING: a line of the record has been reported failed (R99). -/
inductive Writer where
  | idle
  | waitingSpace
  | writing (failed : Bool)
  deriving DecidableEq, Repr

/-- The journal controller (R84, R91, R94, R106). `region`: the active base and k. -/
structure Journal where
  region : Region
  head : Nat
  used : Nat
  retiredTail : Nat
  releasedTail : Nat
  retiredSpan : Nat
  nextSeq : Seq
  durableThrough : Seq
  appliedThrough : Seq
  writer : Writer
  deriving DecidableEq, Repr

/-- The apply engine (R103): ACTIVE exactly when there is a current entry, named by its COMMIT's serial. `withdrawn`: a home
write of the current group was withdrawn at entry to DRAINING (R108). -/
structure Apply where
  current : Option Serial
  outstanding : List Nat
  withdrawn : Bool
  deriving DecidableEq, Repr

/-- The fields of a superblock (R90). -/
structure Superblock where
  base : Addr
  counter : BitVec 64
  applied : Seq
  nextSeq : Seq
  relocBase : Addr
  tail : Nat
  k : BitVec 8
  relocK : BitVec 8
  retired : Bool
  deriving DecidableEq, Repr

/-- A checkpoint in flight with the retired span it records (R109). -/
structure InFlight where
  sb : Superblock
  span : Nat
  deriving DecidableEq, Repr

/-- The checkpoint writer (R109). -/
structure Checkpoint where
  counter : BitVec 64
  nextSlot : SbSlot
  applied : Seq
  errors : Nat
  inFlight : Option InFlight
  trigger : Bool
  deriving DecidableEq, Repr

/-! ## Mode controller, recovery, format, relocation, drain -/

/-- The mode controller (R116). -/
structure ModeCtl where
  mode : Mode
  startStatus : StartStatus
  lastCommand : CommandStatus
  deriving DecidableEq, Repr

/-- Recovery phases (R124); SUPERBLOCKS holds the copies that have returned. -/
inductive Phase where
  | linkReset
  | superblocks (a b : Option Line)
  | header
  | record
  | replay
  | final
  deriving DecidableEq, Repr

/-- Entry causes of a recovery (R124). -/
inductive Cause where
  | start | restart | resume
  deriving DecidableEq, Repr

/-- The recovery sequencer's items (R124), present in RECOVERING. `lines` and `length`: the current record's n and length. -/
structure Recovery where
  phase : Phase
  cause : Cause
  selected : Option (SbSlot × Superblock)
  scanOffset : Nat
  expected : Seq
  scanned : Nat
  lines : Nat
  length : Nat
  deriving DecidableEq, Repr

/-- The two stages of a format and of the preparation of a target region (R120, R136). -/
inductive ClearStage where
  | clearing | superblocks
  deriving DecidableEq, Repr

/-- A format in progress (R120); `failed`: a format line has been reported failed. -/
structure Format where
  stage : ClearStage
  failed : Bool
  deriving DecidableEq, Repr

/-- Which superblock of the old region RETIRING_OLD is writing (R138, R139). -/
inductive RetireStep where
  | first | second | restoring
  deriving DecidableEq, Repr

/-- Relocation states (R133). -/
inductive RelocState where
  | none
  | pending
  | formattingNew (stage : ClearStage) (failed : Bool)
  | held
  | retiringOld (step : RetireStep)
  deriving DecidableEq, Repr

/-- Relocation results (R133). -/
inductive RelocResult where
  | none | done | failed | cancelled
  deriving DecidableEq, Repr

/-- The relocation unit (R133). -/
structure Reloc where
  state : RelocState
  result : RelocResult
  target : Region
  hold : Bool
  deriving DecidableEq, Repr

/-- Drain statuses (R141). -/
inductive DrainStatus where
  | none | active | complete | incomplete
  deriving DecidableEq, Repr

/-- Drain origins (R141). -/
inductive DrainOrigin where
  | ready | recovering | formatting
  deriving DecidableEq, Repr

/-- The drain controller (R141) with the PFW_N pin as last sampled. `finalRaised`: the final trigger has been raised (R145).
The deadline is in microseconds. -/
structure Drain where
  status : DrainStatus
  origin : Option DrainOrigin
  deadline : Option Nat
  faultLoss : Bool
  doneOut : Bool
  finalRaised : Bool
  pfwAsserted : Bool
  deriving DecidableEq, Repr

/-! ## Media port -/

/-- Who handed a media request over, and what for (R152). Journal line `i` and record line `i` count the lines of a record
from its header, 0. -/
inductive Requester where
  | homeRead (serial : Serial)
  | posted (serial : Serial)
  | journalLine (i : Nat)
  | commitLine
  | homeWrite (slot : Nat)
  | checkpoint
  | formatLine
  | relocLine
  | retiringSb (slot : SbSlot)
  | restoringSb (slot : SbSlot)
  | superblockRead (slot : SbSlot)
  | headerRead
  | recordRead (i : Nat)
  | replayWrite (i : Nat)
  deriving DecidableEq, Repr

/-- Where a media request stands (R151): ready and not issued, or under its tag. The deadline is in microseconds. -/
inductive IssueState where
  | ready
  | issued (tag : MediaTag) (retries : Nat) (deadline : Nat)
  | retryWait (tag : MediaTag) (retries : Nat)
  deriving DecidableEq, Repr

/-- A media request: READ_LINE when `write` is absent, else WRITE_LINE with its mask and data (11.2). -/
structure MediaReq where
  requester : Requester
  line : Addr
  write : Option (Mask × Line)
  state : IssueState
  deriving DecidableEq, Repr

/-- The media port (R151 to R157): every request ready or outstanding, in order of readiness; whether a read is next in the
foreground alternation; the consecutive foreground count; the link-reset flag (OWED when set) and its deadline. -/
structure Media where
  requests : List MediaReq
  readTurn : Bool
  foreground : Nat
  linkOwed : Bool
  linkDeadline : Option Nat
  deriving DecidableEq, Repr

/-! ## Management port and output channels -/

/-- The management port's registers (12.4), the event flags and enables, the counters, and the readout latches. -/
structure Regs where
  jnlBase : BitVec 28
  jnlK : BitVec 5
  relocBase : BitVec 28
  relocK : BitVec 5
  relocHold : Bool
  relocatedBase : BitVec 28
  relocatedK : BitVec 5
  groupLimit : Nat
  conflictTimeout : Nat
  idleTimeout : Nat
  mediaTimeout : Nat
  retryLimit : Nat
  drainBudget : Nat
  arbQuota : Nat
  ckptInterval : Nat
  flags : BitVec 12
  enables : BitVec 12
  committedCount : BitVec 32
  abortedCount : BitVec 32
  lostCount : BitVec 16
  latchApplied : BitVec 48
  latchDurable : BitVec 48
  latchNextSeq : BitVec 48
  deriving DecidableEq, Repr

/-- What the fabric's response channel carries (12.1, R159). -/
inductive FabricSignal where
  | response (r : Response)
  | credit (st : Stream)
  deriving DecidableEq, Repr

/-- What the media link's request channel carries (11.2). -/
inductive MediaSignal where
  | readLine (tag : MediaTag) (line : Addr)
  | writeLine (tag : MediaTag) (line : Addr) (mask : Mask) (data : Line)
  | linkReset
  deriving DecidableEq, Repr

/-- What the part has put on its output channels since hard reset, oldest first. -/
structure Wires where
  fabricOut : List FabricSignal
  mediaOut : List MediaSignal
  misoOut : List Word
  deriving DecidableEq, Repr

/-! ## The whole part -/

/-- The state of the part, the commands that wait for it (`pending`, first in first out) and the microseconds that have
passed since hard reset (`now`). -/
structure State where
  pending : List Instr
  now : Nat
  fabric : Fabric
  decoder : Decoder
  groups : Groups
  staging : Staging
  claims : Claims
  posted : Posted
  reads : List TrackerEntry
  journal : Journal
  apply : Apply
  ckpt : Checkpoint
  modes : ModeCtl
  recovery : Option Recovery
  format : Option Format
  reloc : Reloc
  drain : Drain
  media : Media
  regs : Regs
  wires : Wires
  deriving DecidableEq, Repr

/-- The faults of a step: none. No event of the spec stops the part: FAULTED is a device mode (R158). -/
inductive Fault where
  deriving DecidableEq, Repr

/-- The refusals of a step. -/
inductive Refusal where
  /-- Raised by `exec` alone, for a row that has no meaning yet: safe. No arm raises it now. -/
  | notModelled (mnemonic : String)
  deriving DecidableEq, Repr

/-! ## Reset -/

/-- The fabric port after hard reset (R65, R159 to R163). -/
def Fabric.reset : Fabric where
  ingress := Vector.replicate 16 []
  credits := Vector.replicate 16 Config.ingressDepth
  egress := []
  takenUnanswered := 0
  pointer := 0
  takeSerial := 0
  arrivals := 0

/-- A window table entry after hard reset (R54). -/
def Window.reset : Window where
  enabled := false
  base := 0
  limit := 0
  kind := .plain
  mask := 0

/-- The decoder after hard reset (R54, R55, R57). -/
def Decoder.reset : Decoder where
  table := Vector.replicate 8 Window.reset
  defaultKind := .deny
  guardActive := none
  guardTarget := none

/-- The group controller after hard reset (R1, R10). -/
def Groups.reset : Groups where
  table := Vector.replicate 16 .absent
  queue := []

/-- The staging buffer after hard reset and after every reinitialisation (R38). -/
def Staging.reset : Staging where
  slots := []
  index := []
  slotWait := []
  scratch := none

/-- The claim unit after hard reset (R43). -/
def Claims.reset : Claims where
  waitList := []
  arrivalCount := 0

/-- The posted write queue after hard reset (R61). -/
def Posted.reset : Posted where
  records := []
  lossMarks := Vector.replicate 16 false

/-- The journal controller after hard reset (R84, R91, R94, R106). -/
def Journal.reset : Journal where
  region := { base := 0, k := 0 }
  head := 0
  used := 0
  retiredTail := 0
  releasedTail := 0
  retiredSpan := 0
  nextSeq := 1
  durableThrough := 0
  appliedThrough := 0
  writer := .idle

/-- The apply engine after hard reset (R103). -/
def Apply.reset : Apply where
  current := none
  outstanding := []
  withdrawn := false

/-- The checkpoint writer after hard reset (R109). -/
def Checkpoint.reset : Checkpoint where
  counter := 0
  nextSlot := .a
  applied := 0
  errors := 0
  inFlight := none
  trigger := false

/-- The mode controller after hard reset (R116). -/
def ModeCtl.reset : ModeCtl where
  mode := .idle
  startStatus := .none
  lastCommand := .none

/-- The relocation unit after hard reset (R133). -/
def Reloc.reset : Reloc where
  state := .none
  result := .none
  target := { base := 0, k := 0 }
  hold := false

/-- The drain controller after hard reset (R141), PFW_N deasserted. -/
def Drain.reset : Drain where
  status := .none
  origin := none
  deadline := none
  faultLoss := false
  doneOut := false
  finalRaised := false
  pfwAsserted := false

/-- The media port after hard reset (R151, R153, R157). -/
def Media.reset : Media where
  requests := []
  readTurn := true
  foreground := 0
  linkOwed := false
  linkDeadline := none

/-- The registers after hard reset (12.4, R166, R167). -/
def Regs.reset : Regs where
  jnlBase := 0
  jnlK := 0
  relocBase := 0
  relocK := 0
  relocHold := false
  relocatedBase := 0
  relocatedK := 0
  groupLimit := 64
  conflictTimeout := 1000
  idleTimeout := 0
  mediaTimeout := 200
  retryLimit := 4
  drainBudget := 2000
  arbQuota := 4
  ckptInterval := 8
  flags := 0
  enables := 0
  committedCount := 0
  abortedCount := 0
  lostCount := 0
  latchApplied := 0
  latchDurable := 0
  latchNextSeq := 0

/-- The output channels after hard reset: eight credits for each stream are signalled (R159). -/
def Wires.reset : Wires where
  fabricOut := allStreams.flatMap fun st => List.replicate Config.ingressDepth (.credit st)
  mediaOut := []
  misoOut := []

/-- The part right after hard reset (R117), with no command waiting. -/
def State.reset : State where
  pending := []
  now := 0
  fabric := Fabric.reset
  decoder := Decoder.reset
  groups := Groups.reset
  staging := Staging.reset
  claims := Claims.reset
  posted := Posted.reset
  reads := []
  journal := Journal.reset
  apply := Apply.reset
  ckpt := Checkpoint.reset
  modes := ModeCtl.reset
  recovery := none
  format := none
  reloc := Reloc.reset
  drain := Drain.reset
  media := Media.reset
  regs := Regs.reset
  wires := Wires.reset

end Sys2Proof.Machine
end

