-- ==== Sys2Proof/Machine/Operands.lean ====
section
/-! DEFINITION. The operand forms of the part: lines, offsets and byte masks of requests, little-endian fields, the codes of
the record layouts, register fields, and the bytes of an SPI frame. -/

namespace Sys2Proof.Machine

/-! ## Lines and bytes (00_scope.md 5) -/

/-- The line of a byte address: its low six bits made zero (R56). -/
def lineOf (a : Addr) : Addr := (a >>> 6) <<< 6

/-- The position of a byte address within its line (R56). -/
def offsetOf (a : Addr) : Nat := a.toNat % 64

/-- The mask of the positions offset .. offset + length - 1 (R30, R61). -/
def byteMask (offset length : Nat) : Mask := BitVec.ofNat 64 ((2 ^ length - 1) <<< offset)

/-- The mask of all 64 positions. -/
def fullMask : Mask := BitVec.allOnes 64

/-- A line holding `data` from position `offset` on, zero elsewhere (R30, R62). -/
def placeBytes (offset : Nat) (data : List Byte) : Line :=
  Vector.ofFn fun p => if offset ≤ p.val then data.getD (p.val - offset) 0#8 else 0#8

/-- `new` at the positions of `mask`, `old` at the others (R31, R78). -/
def overlay (mask : Mask) (new old : Line) : Line :=
  Vector.ofFn fun p => if mask.getLsbD p.val then new[p.val] else old[p.val]

/-- The bytes offset .. offset + length - 1 of a line, in position order (R80). -/
def bytesOf (l : Line) (offset length : Nat) : List Byte := (l.toList.drop offset).take length

/-- A line made of a list of bytes, zero beyond its end. -/
def lineOfBytes (bs : List Byte) : Line := Vector.ofFn fun p => bs.getD p.val 0#8

/-- The `n` bytes of a number, least significant first (R87). -/
def leBytes (n value : Nat) : List Byte := (List.range n).map fun i => BitVec.ofNat 8 (value >>> (8 * i))

/-- The number that bytes spell, least significant first (R87). -/
def leValue : List Byte → Nat
  | [] => 0
  | b :: bs => b.toNat + 256 * leValue bs

/-- The number in bytes first .. first + count - 1 of a line. -/
def field (l : Line) (first count : Nat) : Nat := leValue (bytesOf l first count)

/-! ## Requests (12.1, R56) -/

/-- A request's offset within its line. -/
def requestOffset (r : Request) : Nat := offsetOf r.addr

/-- A READ or WRITE whose length is 0 or whose bytes leave its line (R56 step 1). -/
def requestMalformed (r : Request) : Bool := r.length.toNat == 0 || 64 < requestOffset r + r.length.toNat

/-- A take serial was given before another: modulo 2^32, within half the range (R65). -/
def serialBefore (x y : Serial) : Bool := x != y && (y - x).toNat < 2 ^ 31

/-! ## Regions and the ring (R84, R85) -/

/-- Bytes of a region of 2^k lines. -/
def Region.bytes (r : Region) : Nat := 2 ^ r.k.toNat * 64

/-- Lines of the ring, R = 2^k - 2. -/
def Region.ringLength (r : Region) : Nat := 2 ^ r.k.toNat - 2

/-- An address lies in a region (R57). -/
def Region.contains (r : Region) (a : Addr) : Bool := r.base.toNat ≤ a.toNat && a.toNat < r.base.toNat + r.bytes

/-- A valid journal configuration: k is 12..20 and the base is a multiple of the region's size (R119). -/
def Region.valid (r : Region) : Bool := 12 ≤ r.k.toNat && r.k.toNat ≤ 20 && r.base.toNat % r.bytes == 0

/-- Two regions have a line in common (R134). -/
def Region.overlaps (r q : Region) : Bool :=
  r.base.toNat < q.base.toNat + q.bytes && q.base.toNat < r.base.toNat + r.bytes

/-- The address of ring offset `o`: line 2 + o of the region (R85). -/
def Region.ringAddr (r : Region) (o : Nat) : Addr := r.base + BitVec.ofNat 40 ((2 + o) * 64)

/-- The address of a superblock slot (R84). -/
def Region.slotAddr (r : Region) : SbSlot → Addr
  | .a => r.base
  | .b => r.base + 0x40#40

/-- The other superblock slot. -/
def SbSlot.other : SbSlot → SbSlot
  | .a => .b
  | .b => .a

/-- A base in granules of 4 KiB as a byte address (12.4). -/
def granuleAddr (g : BitVec 28) : Addr := g ++ 0#12

/-- The granule of an address (R54). -/
def granuleOf (a : Addr) : BitVec 28 := a.extractLsb' 12 28

/-! ## Codes (12.1, 12.4) -/

/-- The kind field of a request record. -/
def kindCode : RequestKind → BitVec 2
  | .read => 0 | .write => 1 | .commit => 2 | .discard => 3

/-- The status field of a response record. -/
def Status.code : Status → BitVec 4
  | .ok => 0 | .posted => 1 | .staged => 2 | .committed => 3 | .aborted => 4 | .indoubt => 5 | .denied => 6
  | .notReady => 7 | .mediaError => 8 | .powerfail => 9 | .portDown => 10

/-- The reason field of a response record. -/
def Reason.code : Reason → BitVec 3
  | .conflict => 0 | .groupFull => 1 | .quota => 2 | .idle => 3 | .journalError => 4 | .powerfail => 5 | .restart => 6
  | .fault => 7

/-- The reason with which a doomed group is answered (R4). -/
def DoomReason.reason : DoomReason → Reason
  | .conflict => .conflict | .groupFull => .groupFull | .quota => .quota | .idle => .idle

/-- The reason with which a mass abort answers (R21). -/
def AbortCause.reason : AbortCause → Reason
  | .powerfail => .powerfail | .restart => .restart | .fault => .fault

/-- The mode field of MODE. -/
def Mode.code : Mode → Nat
  | .idle => 0 | .formatting => 1 | .recovering => 2 | .ready => 3 | .draining => 4 | .halted => 5 | .faulted => 6

/-- The start status field of MODE. -/
def StartStatus.code : StartStatus → Nat
  | .none => 0 | .ok => 1 | .unformatted => 2 | .mismatch => 3 | .relocated => 4 | .badConfig => 5 | .mediaFault => 6
  | .interrupted => 7

/-- The last-command status field of MODE. -/
def CommandStatus.code : CommandStatus → Nat
  | .none => 0 | .accepted => 1 | .rejected => 2

/-- The relocation state field of MODE. -/
def RelocState.code : RelocState → Nat
  | .none => 0 | .pending => 1 | .formattingNew _ _ => 2 | .held => 3 | .retiringOld _ => 4

/-- The relocation result field of MODE. -/
def RelocResult.code : RelocResult → Nat
  | .none => 0 | .done => 1 | .failed => 2 | .cancelled => 3

/-- The drain status field of MODE. -/
def DrainStatus.code : DrainStatus → Nat
  | .none => 0 | .active => 1 | .complete => 2 | .incomplete => 3

/-- The kind field of a WINw_ATTR register; the encoding 3 names no kind. -/
def windowKind? : BitVec 2 → Option WindowKind
  | 0 => some .plain
  | 1 => some .guarded
  | 2 => some .readOnly
  | _ => none

/-- The encoding of a window's kind. -/
def WindowKind.code : WindowKind → BitVec 2
  | .plain => 0 | .guarded => 1 | .readOnly => 2

/-! ## Responses (12.1) -/

/-- A response with no reason, flag or data. -/
def plainAnswer (st : Stream) (tag : FabricTag) (status : Status) : Response :=
  { stream := st, tag, status, reason := none, loss := false, data := [] }

/-- ABORTED with its reason. -/
def abortedAnswer (st : Stream) (tag : FabricTag) (reason : Reason) : Response :=
  { stream := st, tag, status := .aborted, reason := some reason, loss := false, data := [] }

/-- COMMITTED with its plain-loss flag. -/
def committedAnswer (st : Stream) (tag : FabricTag) (loss : Bool) : Response :=
  { stream := st, tag, status := .committed, reason := none, loss, data := [] }

/-- OK to a READ, with the requested bytes. -/
def readAnswer (st : Stream) (tag : FabricTag) (data : List Byte) : Response :=
  { stream := st, tag, status := .ok, reason := none, loss := false, data }

end Sys2Proof.Machine
end

