-- ==== Sys2Proof/Machine/Flags.lean ====
section
/-! DEFINITION. Event flags, their enables and ALERT_N, and the three counters (R166, R167). -/

namespace Sys2Proof.Machine

/-- The bit of EVENT_FLAGS and EVENT_ENABLE that a flag stands at (12.4). -/
def EventFlag.index : EventFlag → Nat
  | .abort => 0 | .postedLost => 1 | .journalError => 2 | .checkpointError => 3 | .fault => 4 | .recoveryDone => 5
  | .tornGroup => 6 | .relocReady => 7 | .relocDone => 8 | .drainDone => 9 | .journalLow => 10 | .indoubt => 11

/-- A flag's bit as a register value. -/
def EventFlag.bit (f : EventFlag) : BitVec 12 := 1#12 <<< f.index

/-- An event flag is set, enabled or not (R166). -/
def setFlag (s : State) (f : EventFlag) : State :=
  { s with regs := { s.regs with flags := s.regs.flags ||| f.bit } }

/-- Whether a flag is set. -/
def flagSet (s : State) (f : EventFlag) : Bool := s.regs.flags.getLsbD f.index

/-- A write of EVENT_FLAGS: each flag written as one is cleared (R166). -/
def clearFlags (s : State) (value : BitVec 12) : State :=
  { s with regs := { s.regs with flags := s.regs.flags &&& ~~~ value } }

/-- A write of EVENT_ENABLE (R166). -/
def writeEnables (s : State) (value : BitVec 12) : State :=
  { s with regs := { s.regs with enables := value } }

/-- ALERT_N is asserted: some flag and its enable are both set (R166). -/
def alertAsserted (s : State) : Bool := (s.regs.flags &&& s.regs.enables) != 0

/-- One group is counted as aborted, which sets ABORT (R4, R9, R15, R19). ABORTED_COUNT wraps (R167). -/
def countAborted (s : State) : State :=
  setFlag { s with regs := { s.regs with abortedCount := s.regs.abortedCount + 1 } } .abort

/-- One group is counted as committed; COMMITTED_COUNT wraps (R98, R167). -/
def countCommitted (s : State) : State :=
  { s with regs := { s.regs with committedCount := s.regs.committedCount + 1 } }

/-- LOST_COUNT after one more loss: it holds at 65535 (R67, R167). -/
def lostAfter (c : BitVec 16) : BitVec 16 := if c.toNat = Config.lostCeiling then c else c + 1

/-- A posted write of a stream is lost: POSTED_LOST, the counter, the stream's plain-loss mark, in that order (R67 steps
1 to 3, R68). -/
def countLost (s : State) (st : Stream) : State :=
  let s1 := setFlag s .postedLost
  { s1 with
    regs := { s1.regs with lostCount := lostAfter s1.regs.lostCount }
    posted := { s1.posted with lossMarks := s1.posted.lossMarks.write st true } }

/-- The three counters become 0 (R118, R167). -/
def zeroCounters (s : State) : State :=
  { s with regs := { s.regs with committedCount := 0, abortedCount := 0, lostCount := 0 } }

end Sys2Proof.Machine
end

