-- ==== Sys2Proof/Machine/Layout.lean ====
section
/-! DEFINITION. The journal's line layouts and its CRC (06_the_journal.md R86 to R90). -/

namespace Sys2Proof.Machine

/-! ## The CRC (R89) -/

/-- One shift of the CRC register. -/
def crcShift (c : BitVec 32) : BitVec 32 :=
  if c.getLsbD 0 then (c >>> 1) ^^^ 0xEDB88320#32 else c >>> 1

/-- One byte into the CRC register: combined into the low eight bits, then eight shifts. -/
def crcByte (c : BitVec 32) (b : Byte) : BitVec 32 :=
  Nat.repeat crcShift 8 (c ^^^ b.setWidth 32)

/-- The CRC of a list of bytes. -/
def crc (bs : List Byte) : BitVec 32 := ~~~ (bs.foldl crcByte 0xFFFFFFFF#32)

/-- The CRC of whole lines in order (R88). -/
def crcLines (ls : List Line) : BitVec 32 := crc (ls.flatMap fun l => l.toList)

/-! ## Group records (R86 to R88) -/

/-- Descriptor lines of a group of `n` lines: ceil(n / 4). -/
def descriptorCount (n : Nat) : Nat := (n + 3) / 4

/-- The length of the record of a group of `n` lines. -/
def recordLength (n : Nat) : Nat := n + descriptorCount n + 2

/-- The header line's record type (R87). -/
def groupType : Nat := 0x47520001

/-- The commit line's record type (R88). -/
def commitType : Nat := 0x47520002

/-- The header line (R87). -/
def headerLine (st : Stream) (n : Nat) (seq : Seq) : Line :=
  lineOfBytes (leBytes 4 groupType ++ leBytes 1 st.val ++ leBytes 1 0 ++ leBytes 2 n ++ leBytes 8 seq.toNat
    ++ leBytes 2 (recordLength n))

/-- A descriptor entry: a line address and a byte mask (R87). -/
def descriptorEntry (line : Addr) (mask : Mask) : List Byte := leBytes 8 line.toNat ++ leBytes 8 mask.toNat

/-- Descriptor line `j`: entries 4j .. 4j + 3, those beyond the group all zero (R86, R87). -/
def descriptorLine (vs : List (Addr × Mask)) (j : Nat) : Line :=
  lineOfBytes (((vs.drop (4 * j)).take 4).flatMap fun v => descriptorEntry v.1 v.2)

/-- The commit line (R88). -/
def commitLine (n : Nat) (seq : Seq) (crc : BitVec 32) : Line :=
  lineOfBytes (leBytes 4 commitType ++ leBytes 2 0 ++ leBytes 2 n ++ leBytes 8 seq.toNat ++ leBytes 4 crc.toNat)

/-- The lines of a record before its commit line: header, descriptors, data (R86). -/
def recordBody (st : Stream) (seq : Seq) (vs : List (Addr × Mask × Line)) : List Line :=
  headerLine st vs.length seq
    :: (List.range (descriptorCount vs.length)).map (descriptorLine (vs.map fun v => (v.1, v.2.1)))
    ++ vs.map fun v => v.2.2

/-- A header line that recovery accepts (R127, the tests on the line alone): its n, when the record type is GROUP, the
sequence is the expected one, n is 1..256 and the record length is that of n. -/
def acceptedHeader? (l : Line) (expected : Seq) : Option Nat :=
  let n := field l 6 2
  if field l 0 4 = groupType ∧ field l 8 8 = expected.toNat ∧ 1 ≤ n ∧ n ≤ 256 ∧ field l 16 2 = recordLength n then some n
  else none

/-- A commit line is whole for a record of `n` lines with the body as read (R128). -/
def commitWhole (l : Line) (expected : Seq) (n : Nat) (body : List Line) : Bool :=
  field l 0 4 == commitType && field l 8 8 == expected.toNat && field l 6 2 == n
    && field l 16 4 == (crcLines body).toNat

/-- Descriptor entry `i` of a record, read back from its descriptor lines: the line address and the mask (R87, R129). The
model's reading (log 23): the address is the low 40 bits of its field, the bytes above them and its low six bits untested. -/
def readDescriptor (descriptors : List Line) (i : Nat) : Addr × Mask :=
  let l := descriptors.getD (i / 4) zeroLine
  (BitVec.ofNat 40 (field l (16 * (i % 4)) 8), BitVec.ofNat 64 (field l (16 * (i % 4) + 8) 8))

/-! ## Superblocks (R90) -/

/-- The signature KXJRNLSB. -/
def signature : List Byte := [0x4B#8, 0x58#8, 0x4A#8, 0x52#8, 0x4E#8, 0x4C#8, 0x53#8, 0x42#8]

/-- Bytes 0..59 of a superblock line. -/
def superblockBody (sb : Superblock) : List Byte :=
  signature ++ leBytes 8 sb.base.toNat ++ leBytes 8 sb.counter.toNat ++ leBytes 8 sb.applied.toNat
    ++ leBytes 8 sb.nextSeq.toNat ++ leBytes 8 sb.relocBase.toNat ++ leBytes 4 sb.tail ++ leBytes 2 1
    ++ leBytes 1 sb.k.toNat ++ leBytes 1 sb.relocK.toNat ++ leBytes 1 (if sb.retired then 1 else 0) ++ leBytes 3 0

/-- A superblock line. -/
def superblockLine (sb : Superblock) : Line :=
  lineOfBytes (superblockBody sb ++ leBytes 4 (crc (superblockBody sb)).toNat)

/-- A copy is valid: its signature and its CRC (R126). -/
def superblockValid (l : Line) : Bool :=
  bytesOf l 0 8 == signature && field l 60 4 == (crc (bytesOf l 0 60)).toNat

/-- The fields of a superblock line. -/
def readSuperblock (l : Line) : Superblock where
  base := BitVec.ofNat 40 (field l 8 8)
  counter := BitVec.ofNat 64 (field l 16 8)
  applied := BitVec.ofNat 48 (field l 24 8)
  nextSeq := BitVec.ofNat 48 (field l 32 8)
  relocBase := BitVec.ofNat 40 (field l 40 8)
  tail := field l 48 4
  k := BitVec.ofNat 8 (field l 54 1)
  relocK := BitVec.ofNat 8 (field l 55 1)
  retired := field l 56 1 != 0

end Sys2Proof.Machine
end

