-- ==== Sys2Proof/Machine/Ops.lean ====
section
/-! DEFINITION. The named operations over the part's registers, queues and buffers that the meanings share. -/

namespace Sys2Proof.Machine

/-! ## Time (00_scope.md 5) -/

/-- One microsecond passes. -/
def tick (s : State) : State := { s with now := s.now + 1 }

/-- The present moment in whole milliseconds. -/
def nowMs (s : State) : Nat := s.now / 1000

/-! ## Commands and modes (R116, R118) -/

/-- The device mode becomes `m`. -/
def setMode (s : State) (m : Mode) : State := { s with modes := { s.modes with mode := m } }

/-- The start status becomes `v`. -/
def setStart (s : State) (v : StartStatus) : State := { s with modes := { s.modes with startStatus := v } }

/-- The last-command status becomes `v`. -/
def setCommand (s : State) (v : CommandStatus) : State := { s with modes := { s.modes with lastCommand := v } }

/-! ## Fabric port (R159 to R163) -/

/-- A stream's ingress queue. -/
def ingressOf (s : State) (st : Stream) : List IngressEntry := s.fabric.ingress.read st

/-- The egress queue's free room exceeds the taken-unanswered count (R160). -/
def hasRoom (s : State) : Bool := s.fabric.takenUnanswered < Config.egressDepth - s.fabric.egress.length

/-- A response enters the egress queue (R163). -/
def enterEgress (s : State) (r : Response) : State :=
  { s with fabric := { s.fabric with egress := s.fabric.egress ++ [r] } }

/-- The response to a taken request enters the egress queue (R160). -/
def answerTaken (s : State) (r : Response) : State :=
  { s with fabric :=
    { s.fabric with egress := s.fabric.egress ++ [r], takenUnanswered := s.fabric.takenUnanswered - 1 } }

/-- The entry at a stream's head is freed: its credit is returned and signalled (R159). -/
def freeHead (s : State) (st : Stream) : State :=
  { s with
    fabric :=
      { s.fabric with
        ingress := s.fabric.ingress.write st (ingressOf s st).tail
        credits := s.fabric.credits.write st (s.fabric.credits.read st + 1) }
    wires := { s.wires with fabricOut := s.wires.fabricOut ++ [.credit st] } }

/-- A held answer at a stream's head (R162). -/
structure HeldAnswer where
  stream : Stream
  entry : IngressEntry
  status : Status
  deriving DecidableEq, Repr

/-- The held answer at a stream's head, if its head is an answered entry. -/
def heldAnswer? (s : State) (st : Stream) : Option HeldAnswer :=
  match ingressOf s st with
  | e :: _ => e.answer.map fun status => { stream := st, entry := e, status }
  | [] => none

/-- The one of two held answers that arrived first. -/
def earlierHeld (best : Option HeldAnswer) (h : HeldAnswer) : Option HeldAnswer :=
  match best with
  | none => some h
  | some b => if h.entry.arrival < b.entry.arrival then some h else some b

/-- The oldest held answer by arrival (R162). -/
def oldestHeld (s : State) : Option HeldAnswer := (allStreams.filterMap (heldAnswer? s)).foldl earlierHeld none

/-- Held answers enter the egress queue one at a time, oldest first, while the room condition holds (R162); at most `fuel`. -/
def enterHeldAnswers : Nat → State → State
  | 0, s => s
  | fuel + 1, s =>
    match oldestHeld s with
    | none => s
    | some h =>
      if hasRoom s then
        enterHeldAnswers fuel
          (freeHead (enterEgress s (plainAnswer h.stream h.entry.req.tag h.status)) h.stream)
      else s

/-- Entries in all ingress queues. -/
def ingressCount (s : State) : Nat := (allStreams.map fun st => (ingressOf s st).length).sum

/-- Every held answer that has room enters the egress queue. -/
def settleHeldAnswers (s : State) : State := enterHeldAnswers (ingressCount s) s

/-- A request in an ingress queue is given its answer, unless it has one (R162). -/
def answerEntry (status : Status) (e : IngressEntry) : IngressEntry :=
  { e with answer := some (e.answer.getD status) }

/-- Every request still in an ingress queue is answered with `status` from the queue (R162). -/
def answerQueues (s : State) (status : Status) : State :=
  settleHeldAnswers
    { s with fabric := { s.fabric with ingress := s.fabric.ingress.map (List.map (answerEntry status)) } }

/-! ## Slots and the line index (R23 to R30) -/

/-- The slot with a number, if it is not FREE. -/
def slotAt (s : State) (n : Nat) : Option Slot := s.staging.slots.find? fun v => v.num == n

/-- Slots in use: those not FREE, and the scratch area when held (R25, R37). -/
def slotsInUse (s : State) : Nat :=
  s.staging.slots.length + (if s.staging.scratch.isSome then Config.scratchCount else 0)

/-- Slots in state OPEN (R25). -/
def openSlots (s : State) : Nat := s.staging.slots.countP fun v => v.state == .opened

/-- A slot number is FREE (R23, R37). -/
def isFree (s : State) (n : Nat) : Bool :=
  (slotAt s n).isNone && !(s.staging.scratch.isSome && n < Config.scratchCount)

/-- The lowest-numbered FREE slot (R30). -/
def freeSlot? (s : State) : Option Nat := (List.range Config.slotCount).find? (isFree s)

/-- A slot put into the list of slots at its place by number. -/
def insertSlot (v : Slot) : List Slot → List Slot
  | [] => [v]
  | u :: us => if v.num < u.num then v :: u :: us else u :: insertSlot v us

/-- Each slot numbered in `nums` is changed by `f`. -/
def mapSlots (s : State) (nums : List Nat) (f : Slot → Slot) : State :=
  { s with staging := { s.staging with slots := s.staging.slots.map fun v => if v.num ∈ nums then f v else v } }

/-- The versions of a line in group order (R26). -/
def versions (s : State) (l : Addr) : List Slot :=
  (s.staging.index.filter fun e => e.line == l).filterMap fun e => slotAt s e.slot

/-- The stream of an owner. -/
def Owner.stream : Owner → Stream
  | .record st => st
  | .entry st _ => st

/-- A version in this state gives its stream a claim on its line (R39). -/
def SlotState.claims : SlotState → Bool
  | .opened | .sealed | .journaling => true
  | .durable | .applying | .spent | .aborted => false

/-- The stream that claims by a version. -/
def Slot.claimant? (v : Slot) : Option Stream := if v.state.claims then v.owner.map Owner.stream else none

/-- The stream that claims a line (R29, R39). -/
def claimant (s : State) (l : Addr) : Option Stream := (versions s l).findSome? Slot.claimant?

/-- A stream's OPEN version of a line (R29). -/
def openVersion (s : State) (st : Stream) (l : Addr) : Option Slot :=
  (versions s l).find? fun v => v.state == .opened && v.owner == some (.record st)

/-- A new OPEN version enters the buffer and the end of its line's list (R27, R30). -/
def addVersion (s : State) (v : Slot) : State :=
  { s with staging :=
    { s.staging with
      slots := insertSlot v s.staging.slots
      index := s.staging.index ++ [{ line := v.line, slot := v.num }] } }

/-! ## Ending versions: an event's release list and freed slots (R28, R36, R47) -/

/-- The state inside an event, with the lines whose claims it has released and not yet re-examined, and whether it has made
a slot FREE since the last wake pass. -/
structure Work where
  s : State
  release : List Addr
  freed : Bool
  deriving DecidableEq, Repr

/-- The beginning of an event's work. -/
def Work.start (s : State) : Work := { s, release := [], freed := false }

/-- What becomes of a slot whose version ends as `final`: FREE when unpinned, else kept without an owner (R24, R36). -/
def endSlot (nums : List Nat) (final : SlotState) (v : Slot) : Option Slot :=
  if v.num ∈ nums then
    if v.pins = 0 then none else some { v with state := final, owner := none }
  else some v

/-- The versions in the slots `nums` end as SPENT or ABORTED: they leave the line index, and their unpinned slots become
FREE (R28, R36). -/
def endVersions (w : Work) (nums : List Nat) (final : SlotState) : Work :=
  let slots := w.s.staging.slots.filterMap (endSlot nums final)
  { w with
    s := { w.s with staging :=
      { w.s.staging with slots, index := w.s.staging.index.filter fun e => e.slot ∉ nums } }
    freed := w.freed || slots.length < w.s.staging.slots.length }

/-- The lines of slots, in the order given. -/
def linesOf (s : State) (nums : List Nat) : List Addr := nums.filterMap fun n => (slotAt s n).map Slot.line

/-- Lines, of those given, that nobody claims now. -/
def unclaimed (s : State) (ls : List Addr) : List Addr := ls.filter fun l => (claimant s l).isNone

/-- A group's versions are aborted; the claims that this releases join the event's release list in slot-list order (R5,
R47). -/
def abortVersions (w : Work) (nums : List Nat) : Work :=
  let lines := linesOf w.s nums
  let w1 := endVersions w nums .aborted
  { w1 with release := w1.release ++ unclaimed w1.s lines }

/-- What becomes of a slot that reads unpin once: a SPENT or ABORTED one whose count reaches 0 becomes FREE (R35, R36). -/
def unpinSlot (nums : List Nat) (v : Slot) : Option Slot :=
  if v.num ∈ nums then
    if v.pins - 1 = 0 ∧ (v.state = .spent ∨ v.state = .aborted) then none else some { v with pins := v.pins - 1 }
  else some v

/-- A read unpins every slot of its pinned list (R35). -/
def unpin (w : Work) (nums : List Nat) : Work :=
  let slots := w.s.staging.slots.filterMap (unpinSlot nums)
  { w with
    s := { w.s with staging := { w.s.staging with slots } }
    freed := w.freed || slots.length < w.s.staging.slots.length }

/-- A read pins every slot of its pinned list (R35). -/
def pin (s : State) (nums : List Nat) : State := mapSlots s nums fun v => { v with pins := v.pins + 1 }

/-! ## Group table and commit queue (R1, R10) -/

/-- A stream's group record. -/
def recordOf (s : State) (st : Stream) : GroupRecord := s.groups.table.read st

/-- A stream's group record becomes `r`. -/
def setRecord (s : State) (st : Stream) (r : GroupRecord) : State :=
  { s with groups := { s.groups with table := s.groups.table.write st r } }

/-- The entry that a COMMIT's take serial names is changed by `f`. -/
def mapEntry (s : State) (serial : Serial) (f : Entry → Entry) : State :=
  { s with groups := { s.groups with queue := s.groups.queue.map fun e => if e.serial = serial then f e else e } }

/-- The entry that a serial names. -/
def entryAt (s : State) (serial : Serial) : Option Entry := s.groups.queue.find? fun e => e.serial == serial

/-- An entry leaves the commit queue. -/
def removeEntry (s : State) (serial : Serial) : State :=
  { s with groups := { s.groups with queue := s.groups.queue.filter fun e => e.serial != serial } }

/-- The entry in JOURNALING; there is at most one (R14). -/
def journalingEntry (s : State) : Option Entry := s.groups.queue.find? fun e => e.state == .journaling

/-- A stream's plain-loss mark (R66). -/
def lossMark (s : State) (st : Stream) : Bool := s.posted.lossMarks.read st

/-- A stream's plain-loss mark is cleared (R66). -/
def clearLossMark (s : State) (st : Stream) : State :=
  { s with posted := { s.posted with lossMarks := s.posted.lossMarks.write st false } }

/-- ABORTED in answer to a COMMIT: it clears the stream's plain-loss mark (R19). -/
def answerCommitAborted (s : State) (st : Stream) (tag : FabricTag) (reason : Reason) : State :=
  clearLossMark (answerTaken s (abortedAnswer st tag reason)) st

/-- COMMITTED is sent for an entry; `forced` has its plain-loss mark set first (R18, R22). The stream's mark is cleared. -/
def sendCommitted (s : State) (e : Entry) (forced : Bool) : State :=
  clearLossMark (answerTaken s (committedAnswer e.stream e.tag (forced || e.lossMark || lossMark s e.stream))) e.stream

/-- INDOUBT is sent for an entry: it sets the INDOUBT flag and leaves the stream's mark (R20). -/
def sendIndoubt (s : State) (e : Entry) : State :=
  setFlag (answerTaken s (plainAnswer e.stream e.tag .indoubt)) .indoubt

/-- An entry owed COMMITTED (R18). -/
def Entry.answerable (e : Entry) : Bool :=
  (e.state == .durable || e.state == .applying) && e.barrier == 0 && !e.answered

/-- An entry that leaves the queue once answered: an empty commit (R12), or one whose home writes are all acknowledged
(R16, R18). -/
def Entry.leaves (e : Entry) : Bool := e.slots.isEmpty || e.homeDone

/-- COMMITTED is sent for an entry if it is owed now, and the entry then leaves or has Answered set (R18). -/
def tryAnswer (s : State) (serial : Serial) : State :=
  match entryAt s serial with
  | none => s
  | some e =>
    if e.answerable then
      if e.leaves then removeEntry (sendCommitted s e false) serial
      else mapEntry (sendCommitted s e false) serial fun e => { e with answered := true }
    else s

/-- Every entry owed COMMITTED is answered, in queue order (R18). -/
def answerOwed (s : State) : State := (s.groups.queue.map Entry.serial).foldl tryAnswer s

/-! ## Posted write queue (R61, R65) -/

/-- A stream's unacknowledged count (R61). -/
def unacknowledged (s : State) (st : Stream) : Nat := s.posted.records.countP fun p => p.stream == st

/-- The oldest UNISSUED record, the head for issue (R61). -/
def postedHead (s : State) : Option PostedRecord := s.posted.records.find? fun p => !p.issued

/-! ## Media port (R151 to R157) -/

/-- A READ_LINE that its requester hands over. -/
def readRequest (who : Requester) (line : Addr) : MediaReq := { requester := who, line, write := none, state := .ready }

/-- A WRITE_LINE that its requester hands over. -/
def writeRequest (who : Requester) (line : Addr) (mask : Mask) (data : Line) : MediaReq :=
  { requester := who, line, write := some (mask, data), state := .ready }

/-- A posted record's write. -/
def postedRequest (p : PostedRecord) : MediaReq := writeRequest (.posted p.serial) p.line p.mask p.data

/-- A tracker entry's home read. -/
def homeReadRequest (e : TrackerEntry) : MediaReq := readRequest (.homeRead e.serial) e.line

/-- A request is a READ_LINE. -/
def MediaReq.isRead (r : MediaReq) : Bool := r.write.isNone

/-- The tag that carries a request (R151). -/
def MediaReq.tag? (r : MediaReq) : Option MediaTag :=
  match r.state with
  | .ready => none
  | .issued t _ _ | .retryWait t _ => some t

/-- A request is outstanding: issued and without its final outcome (R151). -/
def MediaReq.outstanding (r : MediaReq) : Bool := r.tag?.isSome

/-- A request is in state ISSUED under tag `t`. -/
def MediaReq.issuedUnder (t : MediaTag) (r : MediaReq) : Bool :=
  match r.state with
  | .issued u _ _ => u == t
  | .ready | .retryWait _ _ => false

/-- The request whose tag is `t` and ISSUED: the one a response with that tag answers (R154). -/
def issuedAt (s : State) (t : MediaTag) : Option MediaReq := s.media.requests.find? (MediaReq.issuedUnder t)

/-- The record of a tag (R151): the request it carries, none when the tag is FREE. -/
def tagRecord (s : State) (t : MediaTag) : Option MediaReq := s.media.requests.find? fun r => r.tag? == some t

/-- The lowest-numbered FREE tag (R153). -/
def freeTag? (s : State) : Option MediaTag := (List.finRange 32).find? fun t => (tagRecord s t).isNone

/-- Requests become ready at the port, in the order given (R152). -/
def handOver (s : State) (rs : List MediaReq) : State :=
  { s with media := { s.media with requests := s.media.requests ++ rs } }

/-- A request has its final outcome: it leaves the hazard table and its tag becomes FREE (R154). -/
def dropTag (s : State) (t : MediaTag) : State :=
  { s with media := { s.media with requests := s.media.requests.filter fun r => r.tag? != some t } }

/-- The requests of certain requesters that are ready and not issued are withdrawn (R152). -/
def withdraw (s : State) (p : Requester → Bool) : State :=
  { s with media :=
    { s.media with requests := s.media.requests.filter fun r => r.outstanding || !p r.requester } }

/-- The port abandons every request (R122, R146, R158). -/
def abandonAll (s : State) : State := { s with media := { s.media with requests := [] } }

/-- Some request of certain requesters is ready or outstanding. -/
def anyRequest (s : State) (p : Requester → Bool) : Bool := s.media.requests.any fun r => p r.requester

/-- A link reset is asked for (R157): LINK_RESET is sent unless one is owed. -/
def askLinkReset (s : State) : State :=
  if s.media.linkOwed then s
  else { s with
    media := { s.media with linkOwed := true }
    wires := { s.wires with mediaOut := s.wires.mediaOut ++ [.linkReset] } }

/-- The recovery sequencer's link reset has a response deadline, sent or owed (R157). -/
def startLinkDeadline (s : State) : State :=
  { s with media := { s.media with linkDeadline := some (s.now + s.regs.mediaTimeout) } }

/-! Which requesters are which. -/

/-- A home read of the read unit. -/
def Requester.isHomeRead : Requester → Bool
  | .homeRead _ => true
  | _ => false

/-- A posted write. -/
def Requester.isPosted : Requester → Bool
  | .posted _ => true
  | _ => false

/-- A header, descriptor or data line of the journal writer. -/
def Requester.isJournalLine : Requester → Bool
  | .journalLine _ => true
  | _ => false

/-- A home write of the apply engine. -/
def Requester.isHomeWrite : Requester → Bool
  | .homeWrite _ => true
  | _ => false

/-- A format line. -/
def Requester.isFormat : Requester → Bool
  | .formatLine => true
  | _ => false

/-- A line of the target region. -/
def Requester.isRelocLine : Requester → Bool
  | .relocLine => true
  | _ => false

/-- A line of the relocation unit, in the target or the old region. -/
def Requester.isReloc : Requester → Bool
  | .relocLine | .retiringSb _ | .restoringSb _ => true
  | _ => false

/-- A read of a record in recovery. -/
def Requester.isRecordRead : Requester → Bool
  | .recordRead _ => true
  | _ => false

/-- A replay home write. -/
def Requester.isReplay : Requester → Bool
  | .replayWrite _ => true
  | _ => false

/-- A request of the recovery sequencer. -/
def Requester.isRecovery : Requester → Bool
  | .superblockRead _ | .headerRead | .recordRead _ | .replayWrite _ => true
  | _ => false

/-- A superblock read of the recovery sequencer. -/
def Requester.isSuperblockRead : Requester → Bool
  | .superblockRead _ => true
  | _ => false

/-- The commit line has been issued and has no outcome yet (R20, R97). -/
def commitLineIssued (s : State) : Bool :=
  s.media.requests.any fun r => r.requester == .commitLine && r.outstanding

end Sys2Proof.Machine
end

