-- ==== Sys2Proof/Machine/Engines.lean ====
section
/-! DEFINITION. The background workers: checkpoint writer, journal writer, apply engine, and what the relocation unit asks of
the checkpoint writer (06_the_journal.md, 07_apply_and_checkpoint.md, 09_journal_relocation.md). -/

namespace Sys2Proof.Machine

/-! ## Checkpoint writer (R109 to R111) -/

/-- The superblock a checkpoint begun now writes (R111). -/
def currentSuperblock (s : State) : Superblock where
  base := s.journal.region.base
  counter := s.ckpt.counter + 1
  applied := s.journal.appliedThrough
  nextSeq := s.journal.nextSeq
  relocBase := 0
  tail := s.journal.retiredTail
  k := s.journal.region.k.setWidth 8
  relocK := 0
  retired := false

/-- A superblock write of the checkpoint writer's class. -/
def superblockRequest (who : Requester) (region : Region) (slot : SbSlot) (sb : Superblock) : MediaReq :=
  writeRequest who (region.slotAddr slot) fullMask (superblockLine sb)

/-- A checkpoint begins: its superblock goes to the next slot, and the retired span is recorded with it (R111). -/
def beginCheckpoint (s : State) : State :=
  handOver
    { s with ckpt :=
      { s.ckpt with inFlight := some { sb := currentSuperblock s, span := s.journal.retiredSpan } } }
    [superblockRequest .checkpoint s.journal.region s.ckpt.nextSlot (currentSuperblock s)]

/-- A trigger is kept as the one pending trigger (R110). -/
def keepTrigger (s : State) : State := { s with ckpt := { s.ckpt with trigger := true } }

/-- A trigger is taken: it begins a checkpoint when nothing is in flight, else it is kept (R110). -/
def raiseTrigger (s : State) : State := if s.ckpt.inFlight.isSome then keepTrigger s else beginCheckpoint s

/-- The end of a checkpoint: nothing is in flight, and a pending trigger is cleared and begins the next one (R110). -/
def endCheckpoint (s : State) : State :=
  let s1 := { s with ckpt := { s.ckpt with inFlight := none, trigger := false } }
  if s.ckpt.trigger then beginCheckpoint s1 else s1

/-- The applied-since-checkpoint count (R115). -/
def appliedSince (s : State) : Nat := (s.journal.appliedThrough - s.ckpt.applied).toNat

/-- The count is at or above the checkpoint interval (R115). -/
def intervalReached (s : State) : Bool := s.regs.ckptInterval ≤ appliedSince s

/-- A checkpoint in flight is abandoned and the pending trigger cleared (R109). -/
def dropCheckpoint (s : State) : State := { s with ckpt := { s.ckpt with inFlight := none, trigger := false } }

/-! ## Journal writer (R94 to R97) -/

/-- The lines of an entry's group: address, mask and data of each slot, in slot-list order (R86). -/
def groupLines (s : State) (e : Entry) : List (Addr × Mask × Line) :=
  e.slots.filterMap fun n => (slotAt s n).map fun v => (v.line, v.mask, v.data)

/-- The lines of an entry's record before its commit line (R86). -/
def entryBody (s : State) (e : Entry) : List Line := recordBody e.stream (e.seq.getD 0) (groupLines s e)

/-- The requests for lines of a record from its start offset on, line `i` at the `i`-th offset, modulo R (R85, R97). -/
def lineRequests (region : Region) (start : Nat) : Nat → List Line → List MediaReq
  | _, [] => []
  | i, l :: ls =>
    writeRequest (.journalLine i) (region.ringAddr ((start + i) % region.ringLength)) fullMask l
      :: lineRequests region start (i + 1) ls

/-- The extent of an entry, its start the head when it has none yet. -/
def extentOf (s : State) (e : Entry) : Extent := e.extent.getD { start := s.journal.head, length := 0 }

/-- The journal writer's state becomes `w`. -/
def setWriter (s : State) (w : Writer) : State := { s with journal := { s.journal with writer := w } }

/-- The writer enters WRITING and hands over every line of the record but the commit line, in record order (R97, log 11). -/
def enterWriting (s : State) (e : Entry) : State :=
  handOver (setWriter s (.writing false)) (lineRequests s.journal.region (extentOf s e).start 0 (entryBody s e))

/-- The commit line of an entry, at the last offset of its record (R88, R97). -/
def commitLineRequest (s : State) (e : Entry) : MediaReq :=
  let body := entryBody s e
  let n := (groupLines s e).length
  writeRequest .commitLine
    (s.journal.region.ringAddr (((extentOf s e).start + body.length) % s.journal.region.ringLength)) fullMask
    (commitLine n (e.seq.getD 0) (crcLines body))

/-- A record of length `l` fits in the free space R - used (R96). -/
def fits (s : State) (l : Nat) : Bool := l ≤ s.journal.region.ringLength - s.journal.used

/-- The tails differ: the retired span is above zero (R106). -/
def tailsDiffer (s : State) : Bool := 0 < s.journal.retiredSpan

/-- The entry after the writer has begun it (R14, R95). -/
def begunEntry (s : State) (e : Entry) : Entry :=
  { e with
    state := .journaling
    seq := some s.journal.nextSeq
    extent := some { start := s.journal.head, length := recordLength e.slots.length } }

/-- The writer begins a group: the entry and its slots become JOURNALING, it gets its sequence and extent, and the space
check is made (R14, R95, R96). -/
def beginJournal (s : State) (e : Entry) : State :=
  let s1 := mapSlots (mapEntry s e.serial (begunEntry s)) e.slots fun v => { v with state := .journaling }
  if fits s1 (recordLength e.slots.length) then enterWriting s1 (begunEntry s e)
  else
    let s2 := setFlag (setWriter s1 .waitingSpace) .journalLow
    if tailsDiffer s2 then raiseTrigger s2 else s2

/-- The oldest SEALED entry. -/
def oldestSealed (s : State) : Option Entry := s.groups.queue.find? fun e => e.state == .sealed

/-- The idle writer looks at the oldest SEALED entry in READY: an empty commit passes the journal stage at once and is
answered if its barrier allows, and the writer looks again; an entry with slots is begun (R12, R95). -/
def writerLooks : Nat → State → State
  | 0, s => s
  | fuel + 1, s =>
    if s.modes.mode = .ready ∧ s.journal.writer = .idle then
      match oldestSealed s with
      | none => s
      | some e =>
        if e.slots.isEmpty then
          writerLooks fuel (tryAnswer (mapEntry s e.serial fun e => { e with state := .durable }) e.serial)
        else beginJournal s e
    else s

/-- The writer looks at every SEALED entry it can. -/
def writerLook (s : State) : State := writerLooks (s.groups.queue.length + 1) s

/-- A writer in WAITING_SPACE makes its space check again (R96). -/
def recheckSpace (s : State) : State :=
  if s.journal.writer = .waitingSpace then
    match journalingEntry s with
    | none => s
    | some e => if fits s (extentOf s e).length then enterWriting s e else s
  else s

/-- The writer still waits for space with the tails apart, so that it requests a checkpoint (R96). -/
def wantsSpace (s : State) : Bool := s.journal.writer == .waitingSpace && tailsDiffer s

/-! ## Apply engine (R103 to R106) -/

/-- The home write of a slot (R105). -/
def homeWriteRequest (v : Slot) : MediaReq := writeRequest (.homeWrite v.num) v.line v.mask v.data

/-- The oldest DURABLE entry with slots (R104). -/
def oldestDurable (s : State) : Option Entry :=
  s.groups.queue.find? fun e => e.state == .durable && !e.slots.isEmpty

/-- The engine begins a group: the entry and its slots become APPLYING, and all its home writes are handed over, in slot-list
order (R104, log 11). -/
def beginApply (s : State) (e : Entry) : State :=
  let s1 := mapSlots (mapEntry s e.serial fun e => { e with state := .applying }) e.slots
    fun v => { v with state := .applying }
  handOver
    { s1 with apply := { current := some e.serial, outstanding := e.slots, withdrawn := false } }
    (e.slots.filterMap fun n => (slotAt s1 n).map homeWriteRequest)

/-- The idle engine looks for a group in READY (R104). -/
def applyLook (s : State) : State :=
  if s.modes.mode = .ready ∧ s.apply.current = none then
    match oldestDurable s with
    | none => s
    | some e => beginApply s e
  else s

/-- The engine returns to IDLE with nothing outstanding (R103). -/
def applyIdle (s : State) : State := { s with apply := Apply.reset }

/-- Applied-through becomes the sequence of a completed group, and the retired tail and span move past its record (R106
steps 1 to 3). -/
def advanceApplied (s : State) (seq : Seq) (x : Extent) : State :=
  { s with journal :=
    { s.journal with
      appliedThrough := seq
      retiredTail := (x.start + x.length) % s.journal.region.ringLength
      retiredSpan := s.journal.retiredSpan + x.length } }

/-- The entry of a completed group leaves the queue if answered; else it stays until R18 answers it (R106 step 6). -/
def retireEntry (s : State) (e : Entry) : State :=
  if e.answered then removeEntry s e.serial else mapEntry s e.serial fun e => { e with homeDone := true }

/-- A group's last home write has been acknowledged: the seven steps of R106. -/
def completeGroup (s : State) (e : Entry) : State :=
  let s1 := advanceApplied s (e.seq.getD 0) (extentOf s e)
  let s2 := if intervalReached s1 then raiseTrigger s1 else s1
  let s3 := if wantsSpace s2 then raiseTrigger s2 else s2
  applyLook (applyIdle (retireEntry s3 e))

/-! ## The relocation unit's trigger (R135) -/

/-- The unit is in PENDING with the commit queue empty. -/
def pendingEmpty (s : State) : Bool := s.reloc.state == .pending && s.groups.queue.isEmpty

/-- The relocation trigger is raised in the event in which the commit queue becomes empty in PENDING (R135); `before` is
the state the event met. -/
def relocTrigger (before s : State) : State :=
  if pendingEmpty s && !before.groups.queue.isEmpty then raiseTrigger s else s

end Sys2Proof.Machine
end

