-- ==== Sys2Proof/Machine/Staging.lean ====
section
/-! DEFINITION. Guarded writes: the ordered checks of R3, doom, the claim unit's decision, merges, and the cascade of
re-examinations and wake passes that an event's releases and freed slots set off (01_write_groups.md,
02_the_staging_buffer.md, 03_line_claims_and_waiting_writes.md). -/

namespace Sys2Proof.Machine

/-! ## Idle deadline and doom -/

/-- The idle deadline of a group that is staged to now: restarted while the idle timeout is non-zero (R8). -/
def idleDeadline (s : State) (old : Option Nat) : Option Nat :=
  if s.regs.idleTimeout = 0 then old else some (nowMs s + s.regs.idleTimeout)

/-- A stream's group is doomed: an open group's versions are aborted, the record becomes DOOMED, and the doom is counted
(R4). A doom reason once set is not replaced (R6). -/
def doom (w : Work) (st : Stream) (reason : DoomReason) : Work :=
  match recordOf w.s st with
  | .doomed _ => w
  | .absent => { w with s := countAborted (setRecord w.s st (.doomed reason)) }
  | .opened slots _ =>
    let w1 := abortVersions w slots
    { w1 with s := countAborted (setRecord w1.s st (.doomed reason)) }

/-! ## The lists of held writes -/

/-- A stream has a write in the wait list. -/
def inWaitList (s : State) (st : Stream) : Bool := s.claims.waitList.any fun r => r.write.stream == st

/-- A stream has a write in the slot-wait list. -/
def inSlotWait (s : State) (st : Stream) : Bool := s.staging.slotWait.any fun h => h.stream == st

/-- A stream's write leaves the slot-wait list, if it is there. -/
def leaveSlotWait (s : State) (st : Stream) : State :=
  { s with staging := { s.staging with slotWait := s.staging.slotWait.filter fun h => h.stream != st } }

/-- A stream's write leaves the wait list, with its conflict deadline, if it is there. -/
def leaveWaitList (s : State) (st : Stream) : State :=
  { s with claims := { s.claims with waitList := s.claims.waitList.filter fun r => r.write.stream != st } }

/-- A write waits for a FREE slot: at the tail of the slot-wait list, or at its place if it is there already (R33, R34). -/
def joinSlotWait (s : State) (h : HeldWrite) : State :=
  if inSlotWait s h.stream then s
  else { s with staging := { s.staging with slotWait := s.staging.slotWait ++ [h] } }

/-- A write enters the wait list with the next arrival number and a conflict deadline (R44). -/
def joinWaitList (s : State) (h : HeldWrite) : State :=
  { s with claims :=
    { waitList := s.claims.waitList
        ++ [{ write := h, arrival := s.claims.arrivalCount + 1, deadline := s.now + s.regs.conflictTimeout }]
      arrivalCount := s.claims.arrivalCount + 1 } }

/-- A write is refused: its stream's group is doomed and the write answered ABORTED with the same reason (R4). -/
def refuseWrite (w : Work) (h : HeldWrite) (reason : DoomReason) : Work :=
  let w1 := doom { w with s := leaveSlotWait w.s h.stream } h.stream reason
  { w1 with s := answerTaken w1.s (abortedAnswer h.stream h.tag reason.reason) }

/-- A write has been staged: answered STAGED, and no longer held (R3). -/
def answerStaged (s : State) (h : HeldWrite) : State :=
  answerTaken (leaveSlotWait s h.stream) (plainAnswer h.stream h.tag .staged)

/-! ## Writing bytes into the buffer (R30, R31) -/

/-- A held write's byte mask. -/
def HeldWrite.mask (h : HeldWrite) : Mask := byteMask h.offset h.length

/-- The slots of an open record, with the idle deadline restarted (R8). -/
def restarted (s : State) (slots : List Nat) : GroupRecord → GroupRecord
  | .opened _ d => .opened slots (idleDeadline s d)
  | .absent | .doomed _ => .opened slots (idleDeadline s none)

/-- The slot list of a record: empty unless OPEN (R1). -/
def GroupRecord.slots : GroupRecord → List Nat
  | .opened slots _ => slots
  | .absent | .doomed _ => []

/-- A version after the bytes of a write have been merged into it (R31). -/
def mergeInto (h : HeldWrite) (v : Slot) : Slot :=
  { v with mask := v.mask ||| h.mask, data := overlay h.mask (placeBytes h.offset h.data) v.data }

/-- The idle deadline of a stream's group is restarted (R3, R8). -/
def restartIdle (s : State) (st : Stream) : State :=
  setRecord s st (restarted s (recordOf s st).slots (recordOf s st))

/-- A merge in place (R31). -/
def mergeInPlace (s : State) (h : HeldWrite) (v : Slot) : State :=
  answerStaged (restartIdle (mapSlots s [v.num] (mergeInto h)) h.stream) h

/-- `c` takes `v`'s place in a list of slot numbers. -/
def swapSlot (v c : Nat) (ns : List Nat) : List Nat := ns.map fun n => if n = v then c else n

/-- The pinned version detached by a merge by copy (R31 step 3). -/
def detach (v : Slot) : Slot := { v with state := .aborted, owner := none }

/-- A merge by copy: the FREE slot `c` takes the place of the pinned version `v`, which is detached and keeps its pins (R31). -/
def mergeByCopy (s : State) (h : HeldWrite) (v : Slot) (c : Nat) : State :=
  let copy := mergeInto h { v with num := c, pins := 0 }
  let s1 := mapSlots s [v.num] detach
  let s2 := { s1 with staging :=
    { s1.staging with
      slots := insertSlot copy s1.staging.slots
      index := s1.staging.index.map fun e => if e.slot = v.num then { e with slot := c } else e } }
  let s3 := setRecord s2 h.stream
    (restarted s2 (swapSlot v.num c (recordOf s2 h.stream).slots) (recordOf s2 h.stream))
  answerStaged s3 h

/-- The version that check 7 of R3 makes in the FREE slot `c` (R30). -/
def newVersion (h : HeldWrite) (c : Nat) : Slot where
  num := c
  state := .opened
  line := h.line
  mask := h.mask
  data := placeBytes h.offset h.data
  owner := some (.record h.stream)
  pins := 0

/-- Check 7 of R3: a new OPEN version, at the end of the line's list and of the stream's slot list; an ABSENT record opens
(R2, R27, R30). -/
def stageNew (s : State) (h : HeldWrite) (c : Nat) : State :=
  let s1 := addVersion s (newVersion h c)
  answerStaged
    (setRecord s1 h.stream (restarted s1 ((recordOf s1 h.stream).slots ++ [c]) (recordOf s1 h.stream))) h

/-! ## The checks of R3 -/

/-- Check 4 fails: the record is OPEN with a line count at or above the group line limit (R3, R7). -/
def groupFull (s : State) (st : Stream) : Bool :=
  match recordOf s st with
  | .opened slots _ => s.regs.groupLimit ≤ slots.length
  | .absent | .doomed _ => false

/-- Checks 4 to 7 of R3. -/
def fromCheck4 (w : Work) (h : HeldWrite) : Work :=
  if groupFull w.s h.stream then refuseWrite w h .groupFull
  else if Config.openQuota ≤ openSlots w.s then refuseWrite w h .quota
  else
    match freeSlot? w.s with
    | none => { w with s := joinSlotWait w.s h }
    | some c => { w with s := stageNew w.s h c }

/-- Checks 3 to 7 of R3. -/
def fromCheck3 (w : Work) (h : HeldWrite) : Work :=
  match openVersion w.s h.stream h.line with
  | none => fromCheck4 w h
  | some v =>
    if v.pins = 0 then { w with s := mergeInPlace w.s h v }
    else
      match freeSlot? w.s with
      | none => { w with s := joinSlotWait w.s h }
      | some c => { w with s := mergeByCopy w.s h v c }

/-- The length-two deadlock check: the claimant `t` has a waiting write for a line that `st` claims (R42). -/
def deadlock (s : State) (st t : Stream) : Bool :=
  s.claims.waitList.any fun r => r.write.stream == t && claimant s r.write.line == some st

/-- The claim unit decides a write whose line another stream claims (R41). -/
def claimDecision (w : Work) (h : HeldWrite) (t : Stream) : Work :=
  if deadlock w.s h.stream t then refuseWrite w h .conflict
  else { w with s := joinWaitList (leaveSlotWait w.s h.stream) h }

/-- Checks 2 to 7 of R3. -/
def fromCheck2 (w : Work) (h : HeldWrite) : Work :=
  match claimant w.s h.line with
  | none => fromCheck3 w h
  | some t => if t = h.stream then fromCheck3 w h else claimDecision w h t

/-- The checks of R3 from the first. -/
def guardedWrite (w : Work) (h : HeldWrite) : Work :=
  match recordOf w.s h.stream with
  | .doomed reason => { w with s := answerTaken w.s (abortedAnswer h.stream h.tag reason.reason) }
  | .absent | .opened _ _ => fromCheck2 w h

/-! ## Release, re-examination and wake passes (R34, R47, R48) -/

/-- One waiting write in its turn of a re-examination: released to check 3 while its line is unclaimed (R48). -/
def reexamineOne (w : Work) (r : WaitRecord) : Work :=
  if (claimant w.s r.write.line).isNone then
    fromCheck3 { w with s := leaveWaitList w.s r.write.stream } r.write
  else w

/-- A line is re-examined: its waiting writes in arrival order (R48). -/
def reexamine (w : Work) (l : Addr) : Work :=
  (w.s.claims.waitList.filter fun r => r.write.line == l).foldl reexamineOne w

/-- The release list is worked through; lines that its dooms release are taken after it (R47). -/
def releaseRounds : Nat → Work → Work
  | 0, w => w
  | fuel + 1, w =>
    if w.release.isEmpty then w
    else releaseRounds fuel (w.release.foldl reexamine { w with release := [] })

/-- Every line of the release list has been taken. A further round needs a doom of a write that left the wait list, so
the wait list's length bounds the rounds. -/
def settleReleases (w : Work) : Work := releaseRounds (w.s.claims.waitList.length + 1) w

/-- One wake pass: every slot waiter once, in list order, from check 2 (R34). -/
def wakePass (w : Work) : Work := w.s.staging.slotWait.foldl fromCheck2 { w with freed := false }

/-- Release lists and wake passes alternate until neither frees a slot (R34, R47). -/
def settlePasses : Nat → Work → Work
  | 0, w => w
  | fuel + 1, w =>
    let w1 := settleReleases w
    if w1.freed then settlePasses fuel (wakePass w1) else w1

/-- Writes held by the part. -/
def heldCount (s : State) : Nat := s.claims.waitList.length + s.staging.slotWait.length

/-- The end of an event that released claims or freed slots. A further pass needs a doom of a held write, so the number of
held writes bounds the passes. -/
def settle (w : Work) : State := (settlePasses (heldCount w.s + 2) w).s

end Sys2Proof.Machine
end

