-- ==== Sys2Proof/Machine/Modes.lean ====
section
/-! DEFINITION. What several events share when the part changes its mode: cancelling a relocation, the mass abort, entry to
FAULTED, DRAINING, HALTED, RECOVERING and READY (01_write_groups.md 1.7, 08_start_up_recovery_and_restart.md,
09_journal_relocation.md R140, 10_power_fail_drain.md, 11_the_media_port.md R158). -/

namespace Sys2Proof.Machine

/-! ## The active region and the journal guard (R57, R84) -/

/-- The region that the journal base and k registers name. -/
def configRegion (s : State) : Region := { base := granuleAddr s.regs.jnlBase, k := s.regs.jnlK }

/-- The active region and the guard are taken from the registers; the guard holds no target region (R57, R84). -/
def takeRegion (s : State) : State :=
  { s with
    journal := { s.journal with region := configRegion s }
    decoder := { s.decoder with guardActive := some (configRegion s), guardTarget := none } }

/-! ## The end of a relocation (R133, R140) -/

/-- A relocation ends with result FAILED or CANCELLED: the target region leaves the guard, RELOC_DONE is set, the state
returns to NONE (R57, R136, R137, R139, R140). -/
def endReloc (s : State) (result : RelocResult) : State :=
  setFlag
    { s with
      reloc := { s.reloc with state := .none, result }
      decoder := { s.decoder with guardTarget := none } }
    .relocDone

/-- A relocation in progress is cancelled by a drain, a RESTART or entry to FAULTED (R140). -/
def cancelReloc (s : State) : State := if s.reloc.state = .none then s else endReloc s .cancelled

/-! ## The mass abort (R21, R22) -/

/-- Versions are aborted with no re-examination and no wake pass (R36, R52). -/
def abortQuietly (s : State) (nums : List Nat) : State := (endVersions (Work.start s) nums .aborted).s

/-- Steps 1 and 2 of R21 for one stream. -/
def massAbortRecord (s : State) (st : Stream) : State :=
  match recordOf s st with
  | .absent => s
  | .doomed _ => setRecord s st .absent
  | .opened slots _ => countAborted (setRecord (abortQuietly s slots) st .absent)

/-- Every held write: the wait list by arrival number, then the slot-wait list in its order (log 8). -/
def heldWrites (s : State) : List HeldWrite := s.claims.waitList.map WaitRecord.write ++ s.staging.slotWait

/-- A held write is answered ABORTED. -/
def answerHeldAborted (reason : Reason) (s : State) (h : HeldWrite) : State :=
  answerTaken s (abortedAnswer h.stream h.tag reason)

/-- Step 3 of R21: every held write is answered ABORTED and removed. -/
def abortHeld (s : State) (reason : Reason) : State :=
  let s1 := (heldWrites s).foldl (answerHeldAborted reason) s
  { s1 with
    claims := { s1.claims with waitList := [] }
    staging := { s1.staging with slotWait := [] } }

/-- An entry's group ends with its COMMIT answered ABORTED: it is counted and removed (R19, R21). -/
def abortEntry (s : State) (e : Entry) (reason : Reason) : State :=
  removeEntry (countAborted (answerCommitAborted (abortQuietly s e.slots) e.stream e.tag reason)) e.serial

/-- An entry's group ends with its COMMIT answered INDOUBT (R20, R21). -/
def indoubtEntry (s : State) (e : Entry) : State :=
  removeEntry (sendIndoubt (abortQuietly s e.slots) e) e.serial

/-- The JOURNALING entry ends without its commit line's OK: INDOUBT if the line was issued, else ABORTED (R21, R146). -/
def endJournaling (s : State) (e : Entry) (reason : Reason) : State :=
  if commitLineIssued s then indoubtEntry s e else abortEntry s e reason

/-- Step 4 of R21 for one entry. A mass abort (POWERFAIL) leaves the JOURNALING entry. -/
def massAbortEntry (cause : AbortCause) (s : State) (e : Entry) : State :=
  match e.state with
  | .sealed => abortEntry s e cause.reason
  | .journaling => if cause = .powerfail then s else endJournaling s e cause.reason
  | .durable | .applying => s

/-- A DURABLE or APPLYING entry is disposed of: an unanswered one is answered COMMITTED with the flag forced set (R22). -/
def disposeEntry (s : State) (e : Entry) : State :=
  match e.state with
  | .sealed | .journaling => s
  | .durable | .applying => removeEntry (if e.answered then s else sendCommitted s e true) e.serial

/-- The mass abort (R21). For POWERFAIL, R22 keeps the DURABLE and APPLYING entries. The model's choice (log 8): the COMMITTED of
step 5 are sent in queue order, across streams too; R21 gives that order for step 4 alone. -/
def massAbort (s : State) (cause : AbortCause) : State :=
  let s1 := abortHeld (allStreams.foldl massAbortRecord s) cause.reason
  let s2 := s1.groups.queue.foldl (massAbortEntry cause) s1
  if cause = .powerfail then s2 else s2.groups.queue.foldl disposeEntry s2

/-! ## Reads and posted writes that the part gives up (R68, R81, R82) -/

/-- A read is answered with a status and no data, its slots are unpinned and its entry freed. -/
def endRead (status : Status) (w : Work) (e : TrackerEntry) : Work :=
  let w1 := unpin w e.pinned
  let s1 := { w1.s with reads := w1.s.reads.filter fun x => x.serial != e.serial }
  { w1 with s := answerTaken s1 (plainAnswer e.stream e.tag status) }

/-- Reads are answered with a status in an event that runs no wake pass (R36, R83), in the order of their takes (the model's
choice, log 8). -/
def endReads (s : State) (es : List TrackerEntry) (status : Status) : State :=
  (es.foldl (endRead status) (Work.start s)).s

/-- The posted write queue is dropped, and each of its records counted lost (R68). -/
def dropPosted (s : State) : State :=
  let s1 := s.posted.records.foldl (fun s p => countLost s p.stream) s
  { s1 with posted := { s1.posted with records := [] } }

/-- The staging buffer is reinitialised (R38). -/
def reinitStaging (s : State) : State := { s with staging := Staging.reset }

/-- The journal writer and the apply engine return to IDLE, and a checkpoint in flight is abandoned (R122, R147, R158). -/
def idleWorkers (s : State) : State := dropCheckpoint (applyIdle (setWriter s .idle))

/-! ## HALTED (R147) -/

/-- COMMITTED with the flag forced set for a kept entry not yet answered (R22). -/
def sendOwed (s : State) (e : Entry) : State :=
  match e.state with
  | .sealed | .journaling => s
  | .durable | .applying => if e.answered then s else sendCommitted s e true

/-- Everything volatile that HALTED entry discards (R147 steps 2 to 5). -/
def discardVolatile (s : State) : State :=
  { idleWorkers s with
    groups := Groups.reset
    reads := []
    staging := Staging.reset
    recovery := none
    format := none
    media := { s.media with linkDeadline := none } }

/-- Entry to HALTED with a drain status (R147). The owed COMMITTED are sent in queue order, across streams too: the model's
choice (log 8). -/
def enterHalted (s : State) (status : DrainStatus) : State :=
  let s1 := discardVolatile (answerQueues (s.groups.queue.foldl sendOwed s) .powerfail)
  setFlag
    (setMode
      { s1 with drain :=
        { s1.drain with status, origin := none, deadline := none, doneOut := true, finalRaised := false } }
      .halted)
    .drainDone

/-! ## FAULTED (R149, R158) -/

/-- The part is ending a drain: in DRAINING, or in FORMATTING after PFW_N (R149). -/
def inDrain (s : State) : Bool :=
  s.modes.mode == .draining || (s.modes.mode == .formatting && s.drain.status == .active)

/-- The start status and RECOVERY_DONE at entry to FAULTED, by the mode it is entered from (R116, R158 step 9). -/
def faultReport (s : State) : State :=
  match s.modes.mode with
  | .recovering => setFlag (setStart s .mediaFault) .recoveryDone
  | .formatting => if s.drain.status = .active then s else setStart s .mediaFault
  | .idle | .ready | .draining | .halted | .faulted => s

/-- The fault-loss mark is set when the drop of the posted queue removes a record (R141). -/
def markFaultLoss (s : State) : State :=
  if s.posted.records.isEmpty then s else { s with drain := { s.drain with faultLoss := true } }

/-- Steps 1 to 4 of R158: relocation, mass abort, reads, posted writes. -/
def faultAnswers (s : State) : State :=
  let s1 := massAbort (cancelReloc s) .fault
  dropPosted (markFaultLoss (endReads s1 s1.reads .portDown))

/-- Steps 5 to 8 of R158: every worker idle, every request abandoned, the buffer reinitialised, a link reset asked for with
no deadline. -/
def faultQuiet (s : State) : State :=
  let s1 := reinitStaging (abandonAll { idleWorkers s with recovery := none, format := none })
  askLinkReset { s1 with media := { s1.media with linkDeadline := none } }

/-- Entry to FAULTED (R158); during a drain it passes on to HALTED with INCOMPLETE (R149). -/
def enterFaulted (s : State) : State :=
  let s1 := setMode (setFlag (faultReport (faultQuiet (faultAnswers s))) .fault) .faulted
  if inDrain s then enterHalted s1 .incomplete else s1

/-! ## DRAINING (R143, R145) -/

/-- No request of any block is outstanding or waiting at the port. -/
def portQuiet (s : State) : Bool := s.media.requests.isEmpty

/-- The drain controller's completion conditions for origin READY (R145). -/
def drainComplete (s : State) : Bool :=
  s.journal.writer == .idle && s.posted.records.isEmpty && s.reads.isEmpty && portQuiet s

/-- The drain controller's test at an event in DRAINING: for origin READY the final trigger, for origin RECOVERING entry to
HALTED (R145). -/
def drainTest (s : State) : State :=
  if s.modes.mode = .draining then
    match s.drain.origin with
    | some .ready =>
      if drainComplete s then raiseTrigger { s with drain := { s.drain with finalRaised := true } } else s
    | some .recovering => if portQuiet s && !s.media.linkOwed then enterHalted s .complete else s
    | some .formatting | none => s
  else s

/-- A drain begins: its status, origin and budget deadline (R143 step 6, R148). -/
def beginDrain (s : State) (origin : DrainOrigin) : State :=
  { s with drain :=
    { s.drain with
      status := .active
      origin := some origin
      deadline := some (s.now + s.regs.drainBudget)
      finalRaised := false } }

/-- A home write of the apply engine for slot `n` has been issued and has no outcome. -/
def homeWriteIssued (s : State) (n : Nat) : Bool :=
  s.media.requests.any fun r => r.requester == .homeWrite n && r.outstanding

/-- The apply engine withdraws its home writes not yet issued; with none left it returns to IDLE (R108). -/
def withdrawHomeWrites (s : State) : State :=
  let issued := s.apply.outstanding.filter (homeWriteIssued s)
  let s1 := withdraw s Requester.isHomeWrite
  if issued.isEmpty then applyIdle s1
  else { s1 with apply :=
    { s1.apply with
      outstanding := issued
      withdrawn := s1.apply.withdrawn || issued.length < s.apply.outstanding.length } }

/-- A read's home read has not been issued (R81). -/
def TrackerEntry.waiting (e : TrackerEntry) : Bool := e.home == .waiting

/-- The read unit answers POWERFAIL for every entry whose home read is WAITING, and the port withdraws it (R81). -/
def powerfailReads (s : State) : State :=
  withdraw (endReads s (s.reads.filter TrackerEntry.waiting) .powerfail) Requester.isHomeRead

/-- The recovery sequencer stops: its unissued requests are withdrawn and its items discarded; the scratch is kept (R37,
R124, R131). -/
def stopRecovery (s : State) : State :=
  setFlag (setStart { withdraw s Requester.isRecovery with recovery := none } .interrupted) .recoveryDone

/-- Entry to DRAINING (R143), from READY or from RECOVERING. -/
def enterDraining (s : State) (origin : DrainOrigin) : State :=
  let s1 := massAbort (withdraw (cancelReloc s) Requester.isReloc) .powerfail
  let s2 := withdrawHomeWrites (answerQueues (powerfailReads s1) .powerfail)
  let s3 := if origin = .recovering then stopRecovery s2 else s2
  drainTest (setMode (beginDrain s3 origin) .draining)

/-! ## RECOVERING (R124 to R130) -/

/-- The two superblock reads of phase SUPERBLOCKS, slot A handed over first (R126, log 11). -/
def superblockReads (s : State) : List MediaReq :=
  [readRequest (.superblockRead .a) (s.journal.region.slotAddr .a),
    readRequest (.superblockRead .b) (s.journal.region.slotAddr .b)]

/-- The recovery sequencer's items at entry to RECOVERING, in a phase (R124). The model's choice (log 33): the scan offset, the
expected sequence, the scanned lines and the current record have no value in the spec before step 5 of R126, and are 0. -/
def Recovery.entry (phase : Phase) (cause : Cause) : Recovery where
  phase := phase
  cause := cause
  selected := none
  scanOffset := 0
  expected := 0
  scanned := 0
  lines := 0
  length := 0

/-- What every entry to RECOVERING does (R124). -/
def beginRecovering (s : State) (phase : Phase) (cause : Cause) : State :=
  let s1 := dropCheckpoint (setMode (setStart (takeRegion s) .none) .recovering)
  { s1 with
    staging := { s1.staging with scratch := some [] }
    ckpt := { s1.ckpt with errors := 0 }
    recovery := some (Recovery.entry phase cause) }

/-- Entry to RECOVERING: START begins with the superblocks, RESTART and RESUME with a link reset that has a deadline (R124,
R125, R157). -/
def enterRecovering (s : State) (cause : Cause) : State :=
  match cause with
  | .start =>
    let s1 := beginRecovering s (.superblocks none none) cause
    handOver s1 (superblockReads s1)
  | .restart | .resume => startLinkDeadline (askLinkReset (beginRecovering s .linkReset cause))

/-- The recovery sequencer's items become `r`. -/
def setRecovery (s : State) (r : Recovery) : State := { s with recovery := some r }

/-- Phase FINAL begins: the journal's values are set and the final recovery trigger is raised (R130). -/
def enterFinal (s : State) (r : Recovery) : State :=
  let last := s.journal.appliedThrough
  raiseTrigger
    (setRecovery
      { s with journal :=
        { s.journal with
          head := r.scanOffset
          retiredTail := r.scanOffset
          releasedTail := r.scanOffset
          used := 0
          retiredSpan := 0
          appliedThrough := last
          durableThrough := last
          nextSeq := last + 1 } }
      { r with phase := .final })

/-- Phase HEADER begins: the next header is read, unless no record can follow (R127). -/
def enterHeader (s : State) (r : Recovery) : State :=
  if s.journal.region.ringLength < r.scanned + 4 then enterFinal s r
  else handOver (setRecovery s { r with phase := .header })
    [readRequest .headerRead (s.journal.region.ringAddr r.scanOffset)]

/-- The mode leaves RECOVERING: the sequencer's items are discarded, the scratch returns to FREE and RECOVERY_DONE is set
(R37, R124, R126, R130). -/
def leaveRecovering (s : State) : State :=
  setFlag { s with recovery := none, staging := { s.staging with scratch := none } } .recoveryDone

/-- The part enters READY with start status OK: the fault-loss mark is cleared and the apply engine looks for a group (R104,
R116, R141). -/
def becomeReady (s : State) : State :=
  applyLook { setMode (setStart s .ok) .ready with drain := { s.drain with faultLoss := false } }

/-! ## Outcomes (R154) -/

/-- The final outcome of the request that an ISSUED tag carries: its tag becomes FREE, and its requester acts by `act`. A tag
that carries no request this outcome is for leaves everything as it is. -/
def onOutcome (s : State) (t : MediaTag) (act : Requester → Option (State → State)) : State :=
  match issuedAt s t with
  | none => s
  | some r =>
    match act r.requester with
    | none => s
    | some f => f (dropTag s t)

end Sys2Proof.Machine
end

