-- ==== Sys2Proof/Machine/Relocation.lean ====
section
/-! DEFINITION. The relocation unit's procedure and the outcomes of its lines (09_journal_relocation.md R135 to R139). -/

namespace Sys2Proof.Machine

/-- The relocation state becomes `st`. -/
def setReloc (s : State) (st : RelocState) : State := { s with reloc := { s.reloc with state := st } }

/-- One zero line for each ring offset of a region, handed over in offset order (R120, R136, log 11). -/
def clearingLines (who : Requester) (r : Region) : List MediaReq :=
  (List.range r.ringLength).map fun o => writeRequest who (r.ringAddr o) fullMask zeroLine

/-! ## Preparing the target (R136) -/

/-- A plain write to the target region, which can only have been posted before the acceptance (R57), is still UNISSUED (R134). -/
def targetUnissued (s : State) : Bool := s.posted.records.any fun p => !p.issued && s.reloc.target.contains p.line

/-- The clearing lines of the target are handed over, unless a plain write to the target is still UNISSUED (R134, R136 stage 1).
The model's choice (log 34): such a write holds back all of them. -/
def handClearing (s : State) : State :=
  if targetUnissued s then s else handOver s (clearingLines .relocLine s.reloc.target)

/-- The unit enters FORMATTING_NEW and begins stage 1 (R135, R136). -/
def enterFormattingNew (s : State) : State := handClearing (setReloc s (.formattingNew .clearing false))

/-- Stage 1 has begun and its lines have not been handed over. -/
def clearingWaits (s : State) : Bool :=
  s.reloc.state == .formattingNew .clearing false && !anyRequest s Requester.isRelocLine

/-- After a posted write's issue, the clearing lines that waited for it are handed over (R134, log 34). -/
def releaseClearing (s : State) : State := if clearingWaits s then handClearing s else s

/-- A superblock of the target region (R136 stage 2). -/
def targetSuperblock (s : State) (counter : BitVec 64) : Superblock where
  base := s.reloc.target.base
  counter := counter
  applied := s.journal.appliedThrough
  nextSeq := s.journal.nextSeq
  relocBase := 0
  tail := 0
  k := s.reloc.target.k.setWidth 8
  relocK := 0
  retired := false

/-- The two superblock lines of the target are handed over together (R136 stage 2). -/
def handTargetSuperblocks (s : State) : State :=
  handOver (setReloc s (.formattingNew .superblocks false))
    [superblockRequest .relocLine s.reloc.target .a (targetSuperblock s 1),
      superblockRequest .relocLine s.reloc.target .b (targetSuperblock s 2)]

/-! ## Retiring the old region (R138, R139) -/

/-- A superblock of the old region with counter c + `plus`: retired and pointing at the target, or restoring (R138, R139). -/
def oldSuperblock (s : State) (plus : BitVec 64) (retired : Bool) : Superblock where
  base := s.journal.region.base
  counter := s.ckpt.counter + plus
  applied := s.journal.appliedThrough
  nextSeq := s.journal.nextSeq
  relocBase := if retired then s.reloc.target.base else 0
  tail := s.journal.head
  k := s.journal.region.k.setWidth 8
  relocK := if retired then s.reloc.target.k.setWidth 8 else 0
  retired := retired

/-- RETIRING_OLD begins: the first retiring superblock goes to the checkpoint writer's next slot (R138). -/
def enterRetiring (s : State) : State :=
  handOver (setReloc s (.retiringOld .first))
    [superblockRequest (.retiringSb s.ckpt.nextSlot) s.journal.region s.ckpt.nextSlot (oldSuperblock s 1 true)]

/-- The second retiring superblock goes to the other slot (R138). -/
def handSecondRetiring (s : State) : State :=
  handOver (setReloc s (.retiringOld .second))
    [superblockRequest (.retiringSb s.ckpt.nextSlot.other) s.journal.region s.ckpt.nextSlot.other
      (oldSuperblock s 2 true)]

/-- The journal's pointers on an empty ring, its sequences unchanged (R92, R138 step 2). -/
def Journal.emptied (j : Journal) : Journal :=
  { j with head := 0, used := 0, retiredTail := 0, releasedTail := 0, retiredSpan := 0 }

/-- The relocation ends with result DONE: the four steps of R138. -/
def relocDone (s : State) : State :=
  let target := s.reloc.target
  setFlag
    { s with
      regs := { s.regs with jnlBase := granuleOf target.base, jnlK := target.k }
      decoder := { s.decoder with guardActive := some target, guardTarget := none }
      journal := { s.journal.emptied with region := target }
      ckpt :=
        { counter := 2, nextSlot := .a, applied := s.journal.appliedThrough, errors := 0, inFlight := none,
          trigger := false }
      reloc := { s.reloc with state := .none, result := .done } }
    .relocDone

/-! ## Outcomes -/

/-- Every line of a stage has its outcome: the next stage, HELD, RETIRING_OLD, or the end of a failed preparation (R136). -/
def relocLinesDone (s : State) : State :=
  match s.reloc.state with
  | .formattingNew _ true => endReloc s .failed
  | .formattingNew .clearing false => handTargetSuperblocks s
  | .formattingNew .superblocks false =>
    if s.reloc.hold then setFlag (setReloc s .held) .relocReady else enterRetiring s
  | .none | .pending | .held | .retiringOld _ => s

/-- A line of the target is acknowledged OK; after a cancel it changes nothing but may end a drain (R136, R140). -/
def relocLineAcked (s : State) : State :=
  drainTest (if anyRequest s Requester.isRelocLine then s else relocLinesDone s)

/-- A line of the target has failed: the lines not yet issued are withdrawn (R136). -/
def relocLineFailed (s : State) : State :=
  match s.reloc.state with
  | .formattingNew stage _ =>
    relocLineAcked (setReloc (withdraw s Requester.isRelocLine) (.formattingNew stage true))
  | .none | .pending | .held | .retiringOld _ => relocLineAcked s

/-- A retiring superblock is acknowledged OK (R138). -/
def retiringAcked (s : State) : State :=
  drainTest
    (match s.reloc.state with
    | .retiringOld .first => handSecondRetiring s
    | .retiringOld .second => relocDone s
    | .retiringOld .restoring | .none | .pending | .formattingNew _ _ | .held => s)

/-- A retiring superblock has failed: a restoring superblock goes to its slot (R139). -/
def retiringFailed (slot : SbSlot) (s : State) : State :=
  drainTest
    (match s.reloc.state with
    | .retiringOld _ =>
      handOver (setReloc s (.retiringOld .restoring))
        [superblockRequest (.restoringSb slot) s.journal.region slot (oldSuperblock s 3 false)]
    | .none | .pending | .formattingNew _ _ | .held => s)

/-- The restoring superblock is acknowledged OK: the relocation ends FAILED on the old region (R139). -/
def restoringAcked (slot : SbSlot) (s : State) : State :=
  drainTest
    (match s.reloc.state with
    | .retiringOld _ =>
      endReloc
        { s with ckpt := { s.ckpt with counter := s.ckpt.counter + 3, nextSlot := slot.other, errors := 0 } }
        .failed
    | .none | .pending | .formattingNew _ _ | .held => s)

/-- The restoring superblock has failed: the relocation ends FAILED and the part enters FAULTED (R139); after a cancel nothing
changes (R140). -/
def restoringFailed (s : State) : State :=
  match s.reloc.state with
  | .retiringOld _ => enterFaulted (endReloc s .failed)
  | .none | .pending | .formattingNew _ _ | .held => drainTest s

/-- RELOC_LINE_OK (R136). -/
def execRelocLineOk (t : MediaTag) (s : State) : Host.Outcome State Fault Refusal :=
  .next (onOutcome s t fun
    | .relocLine => some relocLineAcked
    | _ => none)

/-- RELOC_LINE_FAIL (R136). -/
def execRelocLineFail (t : MediaTag) (s : State) : Host.Outcome State Fault Refusal :=
  .next (onOutcome s t fun
    | .relocLine => some relocLineFailed
    | _ => none)

/-- RETIRING_SB_OK (R138). -/
def execRetiringSbOk (t : MediaTag) (s : State) : Host.Outcome State Fault Refusal :=
  .next (onOutcome s t fun
    | .retiringSb _ => some retiringAcked
    | _ => none)

/-- RETIRING_SB_FAIL (R139). -/
def execRetiringSbFail (t : MediaTag) (s : State) : Host.Outcome State Fault Refusal :=
  .next (onOutcome s t fun
    | .retiringSb slot => some (retiringFailed slot)
    | _ => none)

/-- RESTORING_SB_OK (R139). -/
def execRestoringSbOk (t : MediaTag) (s : State) : Host.Outcome State Fault Refusal :=
  .next (onOutcome s t fun
    | .restoringSb slot => some (restoringAcked slot)
    | _ => none)

/-- RESTORING_SB_FAIL (R139). -/
def execRestoringSbFail (t : MediaTag) (s : State) : Host.Outcome State Fault Refusal :=
  .next (onOutcome s t fun
    | .restoringSb _ => some restoringFailed
    | _ => none)

end Sys2Proof.Machine
end

