-- ==== Sys2Proof/Machine/Format.lean ====
section
/-! DEFINITION. The format procedure and the outcomes of its lines (08_start_up_recovery_and_restart.md R120, R121;
10_power_fail_drain.md R148). -/

namespace Sys2Proof.Machine

/-- The format's stage and failed mark become these. -/
def setFormat (s : State) (stage : ClearStage) (failed : Bool) : State := { s with format := some { stage, failed } }

/-- The part enters FORMATTING and hands over the clearing lines (R120 stage 1). -/
def enterFormatting (s : State) : State :=
  let s1 := setFormat (setMode (setStart (takeRegion s) .none) .formatting) .clearing false
  handOver s1 (clearingLines .formatLine s1.journal.region)

/-- A superblock of a format (R120 stage 2). -/
def formatSuperblock (s : State) (counter : BitVec 64) : Superblock where
  base := s.journal.region.base
  counter := counter
  applied := 0
  nextSeq := 1
  relocBase := 0
  tail := 0
  k := s.journal.region.k.setWidth 8
  relocK := 0
  retired := false

/-- The two superblock lines of a format are handed over together (R120 stage 2). -/
def handFormatSuperblocks (s : State) : State :=
  handOver (setFormat s .superblocks false)
    [superblockRequest .formatLine s.journal.region .a (formatSuperblock s 1),
      superblockRequest .formatLine s.journal.region .b (formatSuperblock s 2)]

/-- Both superblocks are acknowledged OK: the pointers and the checkpoint writer take a format's values, and the part enters
READY (R92, R109, R120). -/
def formatComplete (s : State) : State :=
  becomeReady
    { s with
      format := none
      journal := { s.journal.emptied with nextSeq := 1, durableThrough := 0, appliedThrough := 0 }
      ckpt := { s.ckpt with counter := 2, nextSlot := .a, applied := 0, errors := 0 } }

/-- A failed format ends: MEDIA_FAULT, back to IDLE (R120). -/
def formatFails (s : State) : State := setMode (setStart { s with format := none } .mediaFault) .idle

/-- Every line of a stage has its outcome (R120); of a format that PFW_N ended, the drain is complete (R148). -/
def formatLinesDone (s : State) : State :=
  if inDrain s then enterHalted s .complete
  else
    match s.format with
    | none => s
    | some f =>
      if f.failed then formatFails s
      else
        match f.stage with
        | .clearing => handFormatSuperblocks s
        | .superblocks => formatComplete s

/-- A format line is acknowledged OK (R120). -/
def formatLineAcked (s : State) : State := if anyRequest s Requester.isFormat then s else formatLinesDone s

/-- A format line has failed: the lines not yet issued are withdrawn (R120). -/
def formatLineFailed (s : State) : State :=
  match s.format with
  | none => formatLineAcked s
  | some f => formatLineAcked (setFormat (withdraw s Requester.isFormat) f.stage true)

/-- PFW_N in FORMATTING ends the format: INTERRUPTED, the lines not yet issued withdrawn, a drain begun (R121, R148). -/
def interruptFormat (s : State) : State :=
  formatLineAcked
    (beginDrain (setStart { withdraw s Requester.isFormat with format := none } .interrupted) .formatting)

/-- FORMAT_LINE_OK (R120). -/
def execFormatLineOk (t : MediaTag) (s : State) : Host.Outcome State Fault Refusal :=
  .next (onOutcome s t fun
    | .formatLine => some formatLineAcked
    | _ => none)

/-- FORMAT_LINE_FAIL (R120). -/
def execFormatLineFail (t : MediaTag) (s : State) : Host.Outcome State Fault Refusal :=
  .next (onOutcome s t fun
    | .formatLine => some formatLineFailed
    | _ => none)

end Sys2Proof.Machine
end

