-- ==== Sys2Proof/Machine/Drain.lean ====
section
/-! DEFINITION. The power-fail warning and the end of the drain budget (10_power_fail_drain.md R142, R146, R148). -/

namespace Sys2Proof.Machine

/-- PFW_N is now sampled at a level. -/
def samplePfw (s : State) (asserted : Bool) : State := { s with drain := { s.drain with pfwAsserted := asserted } }

/-- An assertion of PFW_N, by mode (R142). -/
def takeWarning (s : State) : State :=
  match s.modes.mode with
  | .idle => enterHalted s .complete
  | .formatting => if s.drain.status = .active then s else interruptFormat s
  | .recovering => enterDraining s .recovering
  | .ready => enterDraining s .ready
  | .faulted => enterHalted s (if s.drain.faultLoss then .incomplete else .complete)
  | .draining | .halted => s

/-- PFW_ASSERT (R142). -/
def execPfwAssert (s : State) : Host.Outcome State Fault Refusal := .next (takeWarning (samplePfw s true))

/-- The budget deadline has been reached. -/
def budgetExpired (s : State) : Bool := s.drain.deadline.any fun d => d ≤ s.now

/-- The journal writer's group ends at the budget's expiry (R146 step 2). -/
def endWriterGroup (s : State) : State :=
  match journalingEntry s with
  | none => s
  | some e => endJournaling s e .powerfail

/-- The steps of R146. The outcome of the commit line is judged before the port abandons it. -/
def expireDrain (s : State) : State :=
  let s1 := abandonAll (endWriterGroup s)
  enterHalted (dropPosted (endReads s1 s1.reads .powerfail)) .incomplete

/-- The budget's expiry, by mode: in DRAINING R146, in FORMATTING after PFW_N the issued lines are abandoned (R148). -/
def expireBudget (s : State) : State :=
  match s.modes.mode with
  | .draining => expireDrain s
  | .formatting => if s.drain.status = .active then enterHalted (abandonAll s) .incomplete else s
  | .idle | .recovering | .ready | .halted | .faulted => s

/-- DRAIN_BUDGET_EXPIRY (R146). -/
def execDrainBudgetExpiry (s : State) : Host.Outcome State Fault Refusal :=
  .next (if budgetExpired s then expireBudget s else s)

end Sys2Proof.Machine
end

