-- ==== Sys2Proof/WellFormed.lean ====
section
/-! DEFINITION. Which commands are well formed: operands that the spec's records and registers can carry. -/

namespace Sys2Proof

/-- A WRITE carries exactly `length` data bytes, every other kind none (12.1). -/
def Request.wellFormed (r : Request) : Bool :=
  match r.kind with
  | .write => r.data.length == r.length.toNat
  | .read | .commit | .discard => r.data.isEmpty

/-- The COMMAND codes of 12.4: 1..7 name a command. -/
def namesCommand (value : Word) : Bool := 1 ≤ value.toNat && value.toNat ≤ 7

/-- The register writes that rows of their own describe: COMMAND, EVENT_FLAGS, EVENT_ENABLE and IDLE_TIMEOUT always,
RELOC_CTRL when the written REQUEST bit is one (R134). -/
def ownRowWrite (index : BitVec 8) (value : Word) : Bool :=
  index == 0x02#8 || index == 0x03#8 || index == 0x04#8 || index == 0x12#8 || (index == 0x08#8 && value.getLsbD 9)

/-- The well-formedness of a command. -/
def Instr.wellFormed : Instr → Bool
  | .requestArrival r => r.wellFormed
  | .unknownCommand v => !namesCommand v
  | .registerWrite i v => !ownRowWrite i v
  | .hardReset _ | .takeRead | .takeWrite | .commit | .discard | .responseSend | .idleExpiry _ | .conflictExpiry _
  | .mediaIssue | .mediaRetry _ | .staleResponse _ _ | .mediaTimeout _ | .homeReadReturn _ _ | .homeReadFail _
  | .postedWriteOk _ | .postedWriteFail _ | .journalLineOk _ | .journalLineFail _ | .commitLineOk _
  | .commitLineFail _ | .homeWriteOk _ | .homeWriteFail _ | .checkpointOk _ | .checkpointFail _ | .formatLineOk _
  | .formatLineFail _ | .relocLineOk _ | .relocLineFail _ | .retiringSbOk _ | .retiringSbFail _ | .restoringSbOk _
  | .restoringSbFail _ | .superblockReadOk _ _ | .headerReadOk _ _ | .recordReadOk _ _ | .replayWriteOk _
  | .recoveryMediaFail _ | .linkResetAck | .linkResetTimeout | .pfwAssert | .drainBudgetExpiry | .start | .format
  | .restart | .resume _ | .relocGo | .relocCancel | .clearCounters | .relocRequest _ _ | .eventFlagsClear _
  | .eventEnableWrite _ | .idleTimeoutWrite _ | .read48Low _ => true

end Sys2Proof
end

