-- ==== Sys2Proof/Machine/Commands.lean ====
section
/-! DEFINITION. The management commands and the relocation request (08_start_up_recovery_and_restart.md R118 to R123,
09_journal_relocation.md R134, R137; 12_fabric_link_management_port_and_alerts.md R167). -/

namespace Sys2Proof.Machine

/-- A command that is ignored (R118). -/
def reject (s : State) : State := setCommand s .rejected

/-- A command that is taken: last-command status ACCEPTED (R118). -/
def accept (s : State) : State := setCommand s .accepted

/-- An accepted start procedure: it runs when the journal configuration is valid, else the start status becomes BAD_CONFIG and
nothing else changes (R119, R120, R122, R123). -/
def startProcedure (s : State) (run : State → State) : State :=
  if (configRegion s).valid then run (accept s) else setStart (accept s) .badConfig

/-- START (R119). -/
def execStart (s : State) : Host.Outcome State Fault Refusal :=
  .next (if s.modes.mode = .idle then startProcedure s (enterRecovering · .start) else reject s)

/-- FORMAT (R120). -/
def execFormat (s : State) : Host.Outcome State Fault Refusal :=
  .next (if s.modes.mode = .idle then startProcedure s enterFormatting else reject s)

/-- The steps of R122, in READY and in FAULTED, where steps 1 to 3, 5 and 6 find nothing left to do. -/
def restartPart (s : State) : State :=
  let s1 := massAbort (cancelReloc s) .restart
  let s2 := answerQueues (dropPosted (endReads s1 s1.reads .notReady)) .notReady
  enterRecovering (reinitStaging (abandonAll (idleWorkers s2))) .restart

/-- RESTART (R122). -/
def execRestart (s : State) : Host.Outcome State Fault Refusal :=
  .next
    (if s.modes.mode = .ready ∨ s.modes.mode = .faulted then startProcedure s restartPart else reject s)

/-- The steps of R123: DRAIN_DONE falls, and the part enters RECOVERING. -/
def resumePart (s : State) : State :=
  enterRecovering { s with drain := { s.drain with doneOut := false } } .resume

/-- RESUME (R123), with the level of PFW_N at the command. -/
def execResume (pfwAsserted : Bool) (s : State) : Host.Outcome State Fault Refusal :=
  let s1 := samplePfw s pfwAsserted
  .next
    (if s1.modes.mode = .halted ∧ pfwAsserted = false then startProcedure s1 resumePart else reject s1)

/-- RELOC_GO (R137): accepted in HELD. -/
def execRelocGo (s : State) : Host.Outcome State Fault Refusal :=
  .next
    (match s.reloc.state with
    | .held => enterRetiring (accept s)
    | .none | .pending | .formattingNew _ _ | .retiringOld _ => reject s)

/-- RELOC_CANCEL (R137): accepted in PENDING and HELD. -/
def execRelocCancel (s : State) : Host.Outcome State Fault Refusal :=
  .next
    (match s.reloc.state with
    | .pending | .held => endReloc (accept s) .cancelled
    | .none | .formattingNew _ _ | .retiringOld _ => reject s)

/-- CLEAR_COUNTERS (R118, R167): accepted in every mode. -/
def execClearCounters (s : State) : Host.Outcome State Fault Refusal := .next (zeroCounters (accept s))

/-- UNKNOWN_COMMAND (R118): a value that names no command. The values 1..7 are the writes of other rows. -/
def execUnknownCommand (value : Word) (s : State) : Host.Outcome State Fault Refusal :=
  .next (if namesCommand value then s else reject s)

/-! ## RELOC_REQUEST (R134) -/

/-- The region that the relocation base and k registers name. -/
def relocTarget (s : State) : Region := { base := granuleAddr s.regs.relocBase, k := s.regs.relocK }

/-- RELOC_CTRL holds a written k and HOLD. -/
def writeRelocCtrl (s : State) (k : BitVec 5) (hold : Bool) : State :=
  { s with regs := { s.regs with relocK := k, relocHold := hold } }

/-- A line of a region has a present version, or is written by a held guarded write (R134). -/
def regionInUse (s : State) (r : Region) : Bool :=
  (s.staging.index.any fun e => r.contains e.line) || (heldWrites s).any fun h => r.contains h.line

/-- The six conditions of an accepted request (R134). -/
def relocAcceptable (s : State) : Bool :=
  s.modes.mode == .ready && s.reloc.state == .none && (relocTarget s).valid
    && !(relocTarget s).overlaps s.journal.region && !regionInUse s (relocTarget s)

/-- An accepted request: target and hold flag captured, the target guarded, PENDING entered; with the commit queue already
empty the relocation trigger is raised at once (R134, R135). -/
def acceptReloc (s : State) : State :=
  let s1 := accept
    { s with
      reloc := { state := .pending, result := .none, target := relocTarget s, hold := s.regs.relocHold }
      decoder := { s.decoder with guardTarget := some (relocTarget s) } }
  if s1.groups.queue.isEmpty then raiseTrigger s1 else s1

/-- RELOC_REQUEST (R134). -/
def execRelocRequest (k : BitVec 5) (hold : Bool) (s : State) : Host.Outcome State Fault Refusal :=
  let s1 := writeRelocCtrl s k hold
  .next (if relocAcceptable s1 then acceptReloc s1 else reject s1)

end Sys2Proof.Machine
end

