-- ==== Sys2Proof/Machine/Link.lean ====
section
/-! DEFINITION. The acknowledgement and the timeout of a link reset (08_start_up_recovery_and_restart.md R125,
11_the_media_port.md R157). -/

namespace Sys2Proof.Machine

/-- Steps 1 to 4 of R157: the flag CLEAR, no deadline, the hazard table empty, the arbiter at its reset values. -/
def clearLink (s : State) : State := { s with media := Media.reset }

/-- The recovery sequencer, awaiting the reset in RECOVERING, enters SUPERBLOCKS (R125, R157 step 5). -/
def linkReady (s : State) : State :=
  match s.recovery with
  | none => drainTest s
  | some r =>
    match r.phase with
    | .linkReset => handOver (setRecovery s { r with phase := .superblocks none none }) (superblockReads s)
    | .superblocks _ _ | .header | .record | .replay | .final => s

/-- LINK_RESET_ACK (R157): discarded when no reset is owed. -/
def execLinkResetAck (s : State) : Host.Outcome State Fault Refusal :=
  .next (if s.media.linkOwed then linkReady (clearLink s) else s)

/-- The deadline on the link reset has been reached. -/
def linkExpired (s : State) : Bool := s.media.linkDeadline.any fun d => d ≤ s.now

/-- LINK_RESET_TIMEOUT (R125). -/
def execLinkResetTimeout (s : State) : Host.Outcome State Fault Refusal :=
  .next (if linkExpired s then enterFaulted s else s)

end Sys2Proof.Machine
end

