-- ==== Sys2Proof/Machine/Apply.lean ====
section
/-! DEFINITION. The outcomes of the apply engine's home writes (07_apply_and_checkpoint.md R106 to R108). -/

namespace Sys2Proof.Machine

/-- The apply engine's current entry (R103). -/
def currentEntry (s : State) : Option Entry := s.apply.current.bind (entryAt s)

/-- A slot leaves the outstanding set (R106). -/
def leaveOutstanding (s : State) (n : Nat) : State :=
  { s with apply := { s.apply with outstanding := s.apply.outstanding.filter fun m => m != n } }

/-- The outstanding set has emptied: the group completes, unless a write of it was withdrawn (R106, R108). -/
def lastHomeWrite (s : State) : State :=
  match currentEntry s with
  | none => applyIdle s
  | some e => if s.apply.withdrawn then applyIdle s else completeGroup s e

/-- What the engine does once a slot has left the outstanding set. -/
def afterHomeWrite (s : State) : State := if s.apply.outstanding.isEmpty then lastHomeWrite s else s

/-- A home write is acknowledged OK: its slot becomes SPENT (R106). -/
def homeWriteAcked (n : Nat) (s : State) : State :=
  let w := endVersions (Work.start (leaveOutstanding s n)) [n] .spent
  drainTest (relocTrigger s (settle { w with s := afterHomeWrite w.s }))

/-- HOME_WRITE_OK (R106). -/
def execHomeWriteOk (t : MediaTag) (s : State) : Host.Outcome State Fault Refusal :=
  .next (onOutcome s t fun
    | .homeWrite n => some (homeWriteAcked n)
    | _ => none)

/-- HOME_WRITE_FAIL (R107): the part enters FAULTED. -/
def execHomeWriteFail (t : MediaTag) (s : State) : Host.Outcome State Fault Refusal :=
  .next (onOutcome s t fun
    | .homeWrite _ => some enterFaulted
    | _ => none)

end Sys2Proof.Machine
end

