-- ==== Sys2Proof/Machine/Journal.lean ====
section
/-! DEFINITION. The outcomes of the journal writer's lines (01_write_groups.md R14, R15, 06_the_journal.md R97 to R100). -/

namespace Sys2Proof.Machine

/-! ## Header, descriptor and data lines (R97, R99) -/

/-- The failed group's end at the group controller: ABORTED(JOURNAL_ERROR), counted, removed, its versions aborted and the
claims they gave re-examined (R15). -/
def abortJournaled (s : State) (e : Entry) : State :=
  settle
    (abortVersions
      (Work.start
        (removeEntry (countAborted (answerCommitAborted s e.stream e.tag .journalError)) e.serial))
      e.slots)

/-- The end of a failed record, when none of its lines is outstanding: JOURNAL_ERROR, the report, and the writer back to IDLE
(R99). -/
def finishFailedRecord (s : State) : State :=
  let s1 := setFlag s .journalError
  let s2 := match journalingEntry s1 with
    | none => s1
    | some e => abortJournaled s1 e
  drainTest (relocTrigger s (writerLook (setWriter s2 .idle)))

/-- The writer hands over the commit line of its group (R97). -/
def handCommitLine (s : State) : State :=
  match journalingEntry s with
  | none => s
  | some e => handOver s [commitLineRequest s e]

/-- A line of the record has its outcome and none of the record's lines is left: the commit line follows, or the failed
record ends. -/
def recordLinesDone (s : State) : State :=
  match s.journal.writer with
  | .idle | .waitingSpace => s
  | .writing false => handCommitLine s
  | .writing true => finishFailedRecord s

/-- A header, descriptor or data line is acknowledged OK (R97). -/
def journalLineAcked (s : State) : State :=
  if anyRequest s Requester.isJournalLine then s else recordLinesDone s

/-- A header, descriptor or data line has failed: the lines not yet issued are withdrawn (R99). -/
def journalLineFailed (s : State) : State :=
  match s.journal.writer with
  | .idle | .waitingSpace => s
  | .writing _ => journalLineAcked (setWriter (withdraw s Requester.isJournalLine) (.writing true))

/-- JOURNAL_LINE_OK (R97). -/
def execJournalLineOk (t : MediaTag) (s : State) : Host.Outcome State Fault Refusal :=
  .next (onOutcome s t fun
    | .journalLine _ => some journalLineAcked
    | _ => none)

/-- JOURNAL_LINE_FAIL (R99). -/
def execJournalLineFail (t : MediaTag) (s : State) : Host.Outcome State Fault Refusal :=
  .next (onOutcome s t fun
    | .journalLine _ => some journalLineFailed
    | _ => none)

/-! ## The commit line (R98, R100) -/

/-- Steps 1 and 2 of R98: durable-through, next sequence, head and used. -/
def advanceDurable (s : State) (seq : Seq) (length : Nat) : State :=
  { s with journal :=
    { s.journal with
      durableThrough := seq
      nextSeq := seq + 1
      head := (s.journal.head + length) % s.journal.region.ringLength
      used := s.journal.used + length } }

/-- The entry and its slots become DURABLE (R14). -/
def makeDurable (s : State) (e : Entry) : State :=
  mapSlots (mapEntry s e.serial fun e => { e with state := .durable }) e.slots fun v => { v with state := .durable }

/-- The claims that an entry's versions gave are released and re-examined (R14, R47). -/
def releaseClaims (s : State) (e : Entry) : State :=
  settle { Work.start s with release := unclaimed s (linesOf s e.slots) }

/-- A group's commit line is acknowledged OK: the five steps of R98, then the apply engine looks (R104). -/
def groupDurable (s : State) (e : Entry) : State :=
  let s1 := countCommitted (advanceDurable s (e.seq.getD 0) (extentOf s e).length)
  let s2 := tryAnswer (releaseClaims (makeDurable s1 e) e) e.serial
  applyLook (writerLook (setWriter s2 .idle))

/-- The commit line of the writer's group is acknowledged OK (R98). -/
def commitLineAcked (s : State) : State :=
  match journalingEntry s with
  | none => s
  | some e => drainTest (relocTrigger s (groupDurable s e))

/-- The commit line of the writer's group has failed: INDOUBT, and the part enters FAULTED (R15, R100). -/
def commitLineFailed (s : State) : State :=
  enterFaulted
    (match journalingEntry s with
    | none => s
    | some e => indoubtEntry s e)

/-- COMMIT_LINE_OK (R98). -/
def execCommitLineOk (t : MediaTag) (s : State) : Host.Outcome State Fault Refusal :=
  .next (onOutcome s t fun
    | .commitLine => some commitLineAcked
    | _ => none)

/-- COMMIT_LINE_FAIL (R100). -/
def execCommitLineFail (t : MediaTag) (s : State) : Host.Outcome State Fault Refusal :=
  .next (onOutcome s t fun
    | .commitLine => some commitLineFailed
    | _ => none)

end Sys2Proof.Machine
end

