-- ==== Sys2Proof/Machine/PostedWrites.lean ====
section
/-! DEFINITION. The outcomes of posted writes (01_write_groups.md R17, 04_windows_and_posted_writes.md R64, R67). -/

namespace Sys2Proof.Machine

/-- The posted record taken with a serial. -/
def postedAt (s : State) (serial : Serial) : Option PostedRecord := s.posted.records.find? fun p => p.serial == serial

/-- A record leaves the posted write queue (R61). -/
def removePosted (s : State) (serial : Serial) : State :=
  { s with posted := { s.posted with records := s.posted.records.filter fun p => p.serial != serial } }

/-- An entry of the stream whose COMMIT was taken after the posted write owes one write less (R17). -/
def lowerBarrier (st : Stream) (serial : Serial) (e : Entry) : Entry :=
  if e.stream = st ∧ serialBefore serial e.serial then { e with barrier := e.barrier - 1 } else e

/-- The acknowledgement of a posted write is reported to the group controller, which answers what it then owes (R17, R18). -/
def reportPosted (s : State) (p : PostedRecord) : State :=
  answerOwed { s with groups := { s.groups with queue := s.groups.queue.map (lowerBarrier p.stream p.serial) } }

/-- A record leaves and is reported; the relocation unit and the drain controller look (R64, R135, R145). -/
def retirePosted (s : State) (p : PostedRecord) : State :=
  drainTest (relocTrigger s (reportPosted (removePosted s p.serial) p))

/-- A posted write is acknowledged OK (R64). -/
def postedAcked (serial : Serial) (s : State) : State :=
  match postedAt s serial with
  | none => s
  | some p => retirePosted s p

/-- A posted write has failed: it is counted lost before it is reported (R67). -/
def postedFailed (serial : Serial) (s : State) : State :=
  match postedAt s serial with
  | none => s
  | some p => retirePosted (countLost s p.stream) p

/-- POSTED_WRITE_OK (R64). -/
def execPostedWriteOk (t : MediaTag) (s : State) : Host.Outcome State Fault Refusal :=
  .next (onOutcome s t fun
    | .posted serial => some (postedAcked serial)
    | _ => none)

/-- POSTED_WRITE_FAIL (R67). -/
def execPostedWriteFail (t : MediaTag) (s : State) : Host.Outcome State Fault Refusal :=
  .next (onOutcome s t fun
    | .posted serial => some (postedFailed serial)
    | _ => none)

end Sys2Proof.Machine
end

