-- ==== Sys2Proof/Machine/Windows.lean ====
section
/-! DEFINITION. The window decoder: the journal guard, the window table and the classes of requests
(04_windows_and_posted_writes.md R54 to R58). -/

namespace Sys2Proof.Machine

/-- The class of a READ or WRITE (R56). -/
inductive RequestClass where
  | plain | guarded | readOnly | denied
  deriving DecidableEq, Repr

/-- The class that a window of a kind confers (R54). -/
def WindowKind.confers : WindowKind → RequestClass
  | .plain => .plain
  | .guarded => .guarded
  | .readOnly => .readOnly

/-- The class that the default kind gives (R55). -/
def DefaultKind.confers : DefaultKind → RequestClass
  | .plain => .plain
  | .deny => .denied

/-- An address lies in a window table entry (R54). -/
def Window.contains (w : Window) (a : Addr) : Bool :=
  w.enabled && w.base.toNat ≤ (granuleOf a).toNat && (granuleOf a).toNat ≤ w.limit.toNat

/-- A window admits a stream (R54). -/
def Window.admits (w : Window) (st : Stream) : Bool := w.mask.getLsbD st.val

/-- A line lies in the journal guard (R57). -/
def inGuard (s : State) (l : Addr) : Bool :=
  (s.decoder.guardActive.any fun g => g.contains l) || s.decoder.guardTarget.any fun g => g.contains l

/-- The lowest-numbered enabled entry that contains an address (R56 step 3). -/
def windowFor (s : State) (a : Addr) : Option Window := s.decoder.table.toList.find? fun w => w.contains a

/-- The class of a READ or WRITE of a stream (R56). -/
def classify (s : State) (st : Stream) (r : Request) : RequestClass :=
  if requestMalformed r then .denied
  else if inGuard s (lineOf r.addr) then .denied
  else
    match windowFor s r.addr with
    | some w => if w.admits st then w.kind.confers else .denied
    | none => s.decoder.defaultKind.confers

end Sys2Proof.Machine
end

