-- ==== Sys2Proof/Machine/Fabric.lean ====
section
/-! DEFINITION. The fabric port's commands: hard reset, arrival, the four takes, and the sending of a response
(01_write_groups.md R11 to R13, 04_windows_and_posted_writes.md R58 to R65, 05_reads_and_the_visible_value.md R71 to R76,
12_fabric_link_management_port_and_alerts.md R159 to R163). -/

namespace Sys2Proof.Machine

/-! ## Hard reset (R117, R142) -/

/-- HARD_RESET: every piece of state takes its reset value. The queue of commands is not the part's and is kept. PFW_N found
asserted at the end is taken as an assertion in IDLE, which enters HALTED with COMPLETE (R142). -/
def execHardReset (pfwAsserted : Bool) (s : State) : Host.Outcome State Fault Refusal :=
  let s1 := { State.reset with pending := s.pending, drain := { Drain.reset with pfwAsserted } }
  .next (if pfwAsserted then enterHalted s1 .complete else s1)

/-! ## Arrival (R159, R162) -/

/-- Requests are answered from the ingress queues in this mode (R143, R161). -/
def answersFromQueue (s : State) : Bool := s.modes.mode == .draining || s.modes.mode == .halted

/-- A request is appended to its stream's queue, answered POWERFAIL there when the mode answers from the queue. -/
def appendArrival (s : State) (r : Request) : State :=
  let e : IngressEntry :=
    { req := r, arrival := s.fabric.arrivals + 1, answer := if answersFromQueue s then some .powerfail else none }
  { s with fabric :=
    { s.fabric with
      ingress := s.fabric.ingress.write r.stream (ingressOf s r.stream ++ [e])
      credits := s.fabric.credits.write r.stream (s.fabric.credits.read r.stream - 1)
      arrivals := s.fabric.arrivals + 1 } }

/-- REQUEST_ARRIVAL (R159): a request that finds its queue full is discarded. -/
def execRequestArrival (r : Request) (s : State) : Host.Outcome State Fault Refusal :=
  .next
    (if Config.ingressDepth ≤ (ingressOf s r.stream).length then s
    else if answersFromQueue s then settleHeldAnswers (appendArrival s r)
    else appendArrival s r)

/-! ## The take arbiter (R160, R161) -/

/-- A stream's record is DOOMED. -/
def isDoomed (s : State) (st : Stream) : Bool :=
  match recordOf s st with
  | .doomed _ => true
  | .absent | .opened _ _ => false

/-- The condition of the head's kind that blocks a stream in READY (R160). Check 1 of R11 comes before the checks that hold a
COMMIT. -/
def headBlocked (s : State) (st : Stream) (r : Request) : Bool :=
  match r.kind with
  | .commit =>
    !isDoomed s st && (s.reloc.state != .none || Config.commitDepth ≤ s.groups.queue.length)
  | .write => Config.postedDepth ≤ s.posted.records.length
  | .read => Config.trackerDepth ≤ s.reads.length
  | .discard => false

/-- A stream whose head is `r` is blocked (R160); outside READY only a held answer blocks. -/
def blocked (s : State) (st : Stream) (r : Request) : Bool :=
  s.modes.mode == .ready && (inWaitList s st || inSlotWait s st || headBlocked s st r)

/-- The request at a stream's head, if it is takeable apart from egress room (R160). -/
def takeableHead (s : State) (st : Stream) : Option Request :=
  match ingressOf s st with
  | e :: _ => if e.answer.isNone && !blocked s st e.req then some e.req else none
  | [] => none

/-- The streams in the arbiter's order from its pointer (R161). -/
def roundRobin (p : Stream) : List Stream := allStreams.map fun i => p + i

/-- What the arbiter grants: a stream and its head. -/
structure Grant where
  stream : Stream
  req : Request
  deriving DecidableEq, Repr

/-- The arbiter's grant: the first stream with a takeable head, when the room condition holds and the mode makes takes
(R160, R161). -/
def takeGrant (s : State) : Option Grant :=
  if hasRoom s && !answersFromQueue s then
    (roundRobin s.fabric.pointer).findSome? fun st => (takeableHead s st).map fun r => { stream := st, req := r }
  else none

/-- A head is taken: its entry is freed, the pointer moves past its stream, the request receives the next take serial and
counts as taken and unanswered (R65, R161). -/
def takeHead (s : State) (st : Stream) : State :=
  let s1 := freeHead s st
  { s1 with fabric :=
    { s1.fabric with
      pointer := st + 1
      takeSerial := s1.fabric.takeSerial + 1
      takenUnanswered := s1.fabric.takenUnanswered + 1 } }

/-- The status with which a mode answers a taken request; none in READY (R161). -/
def modeAnswer (m : Mode) : Option Status :=
  match m with
  | .idle | .formatting | .recovering => some .notReady
  | .faulted => some .portDown
  | .ready | .draining | .halted => none

/-- A take of a request of one kind: answered from the mode, or acted on in READY (R161). A grant of another kind is not this
command's. -/
def takeOf (kind : RequestKind) (act : State → Grant → State) (s : State) : State :=
  match takeGrant s with
  | none => s
  | some g =>
    if g.req.kind = kind then
      match modeAnswer s.modes.mode with
      | some status => answerTaken (takeHead s g.stream) (plainAnswer g.stream g.req.tag status)
      | none => act (takeHead s g.stream) g
    else s

/-- The bytes that a WRITE carries (12.1). -/
def requestData (r : Request) : List Byte := r.data.take r.length.toNat

/-- DENIED (R58). -/
def answerDenied (s : State) (g : Grant) : State := answerTaken s (plainAnswer g.stream g.req.tag .denied)

/-! ## TAKE_READ (R71 to R76) -/

/-- The tracker entry of a read, WAITING for its home read. -/
def readEntry (s : State) (g : Grant) (kind : ReadKind) (pinned : List Nat) (hold : Nat) : TrackerEntry where
  stream := g.stream
  tag := g.req.tag
  serial := s.fabric.takeSerial
  line := lineOf g.req.addr
  offset := requestOffset g.req
  length := g.req.length.toNat
  kind := kind
  pinned := pinned
  hold := hold
  home := .waiting

/-- An entry joins the tracker. -/
def track (s : State) (e : TrackerEntry) : State := { s with reads := s.reads ++ [e] }

/-- The UNISSUED posted writes to a line (R72). -/
def unissuedTo (s : State) (l : Addr) : Nat := s.posted.records.countP fun p => p.line == l && !p.issued

/-- A plain read (R72). -/
def plainRead (s : State) (g : Grant) : State :=
  let e := readEntry s g .plain [] (unissuedTo s (lineOf g.req.addr))
  if e.hold = 0 then handOver (track s e) [homeReadRequest e] else track s e

/-- A version is eligible for a stream's read (R75). -/
def Slot.eligible (st : Stream) (v : Slot) : Bool :=
  match v.state with
  | .durable | .applying => true
  | .opened | .sealed | .journaling => (v.owner.map Owner.stream) == some st
  | .spent | .aborted => false

/-- The versions that a guarded read selects, in list order (R75). -/
def selectVersions (s : State) (st : Stream) (l : Addr) : List Slot := (versions s l).filter (Slot.eligible st)

/-- The union of the masks of versions (R76). -/
def unionMask (vs : List Slot) : Mask := vs.foldl (fun m v => m ||| v.mask) 0#64

/-- Versions laid over a line, oldest first (R78). -/
def layOver (base : Line) (vs : List Slot) : Line := vs.foldl (fun l v => overlay v.mask v.data l) base

/-- A guarded read: answered at once when its versions cover its bytes, else pinned behind a home read (R76). -/
def guardedRead (s : State) (g : Grant) : State :=
  let vs := selectVersions s g.stream (lineOf g.req.addr)
  let asked := byteMask (requestOffset g.req) g.req.length.toNat
  if unionMask vs &&& asked = asked then
    answerTaken s
      (readAnswer g.stream g.req.tag (bytesOf (layOver zeroLine vs) (requestOffset g.req) g.req.length.toNat))
  else
    let e := readEntry s g .guarded (vs.map Slot.num) 0
    handOver (track (pin s e.pinned) e) [homeReadRequest e]

/-- A read taken in READY, by its class (R58, R71). -/
def actRead (s : State) (g : Grant) : State :=
  match classify s g.stream g.req with
  | .plain | .readOnly => plainRead s g
  | .guarded => guardedRead s g
  | .denied => answerDenied s g

/-- TAKE_READ (R71). -/
def execTakeRead (s : State) : Host.Outcome State Fault Refusal := .next (takeOf .read actRead s)

/-! ## TAKE_WRITE (R3, R58, R62) -/

/-- The posted record of a plain write, UNISSUED (R62). -/
def postedRecord (s : State) (g : Grant) : PostedRecord where
  stream := g.stream
  line := lineOf g.req.addr
  mask := byteMask (requestOffset g.req) g.req.length.toNat
  data := placeBytes (requestOffset g.req) (requestData g.req)
  serial := s.fabric.takeSerial
  issued := false

/-- A plain write is posted and answered POSTED; it is ready at once when it is the oldest UNISSUED record (R62, R152). -/
def plainWrite (s : State) (g : Grant) : State :=
  let p := postedRecord s g
  let s1 := { s with posted := { s.posted with records := s.posted.records ++ [p] } }
  let s2 := if (postedHead s).isNone then handOver s1 [postedRequest p] else s1
  answerTaken s2 (plainAnswer g.stream g.req.tag .posted)

/-- A guarded write as the group controller receives it (R3). -/
def heldWrite (g : Grant) : HeldWrite where
  stream := g.stream
  line := lineOf g.req.addr
  offset := requestOffset g.req
  length := g.req.length.toNat
  data := requestData g.req
  tag := g.req.tag

/-- A write taken in READY, by its class (R58). -/
def actWrite (s : State) (g : Grant) : State :=
  match classify s g.stream g.req with
  | .plain => plainWrite s g
  | .guarded => settle (guardedWrite (Work.start s) (heldWrite g))
  | .readOnly | .denied => answerDenied s g

/-- TAKE_WRITE (R56). -/
def execTakeWrite (s : State) : Host.Outcome State Fault Refusal := .next (takeOf .write actWrite s)

/-! ## COMMIT (R11, R12) -/

/-- The entry of a group sealed now (R11 check 4, R65). -/
def sealedEntry (s : State) (g : Grant) : Entry where
  stream := g.stream
  state := .sealed
  slots := (recordOf s g.stream).slots
  seq := none
  extent := none
  tag := g.req.tag
  serial := s.fabric.takeSerial
  barrier := unacknowledged s g.stream
  lossMark := false
  answered := false
  homeDone := false

/-- A slot passes from its group record to the entry sealed from it (R11). -/
def sealSlot (e : Entry) (v : Slot) : Slot := { v with state := .sealed, owner := some (.entry e.stream e.serial) }

/-- A group is sealed: its entry joins the queue's tail, its slots become SEALED, its record ABSENT (R11 check 4). -/
def sealGroup (s : State) (g : Grant) : State :=
  let e := sealedEntry s g
  let s1 := setRecord (mapSlots s e.slots (sealSlot e)) g.stream .absent
  { s1 with groups := { s1.groups with queue := s1.groups.queue ++ [e] } }

/-- A COMMIT taken in READY (R11): ABORTED for a DOOMED record, else the group is sealed and the journal writer looks at the
queue (R95). -/
def actCommit (s : State) (g : Grant) : State :=
  match recordOf s g.stream with
  | .doomed reason => setRecord (answerCommitAborted s g.stream g.req.tag reason.reason) g.stream .absent
  | .absent | .opened _ _ => writerLook (sealGroup s g)

/-- COMMIT (R11). -/
def execCommit (s : State) : Host.Outcome State Fault Refusal := .next (takeOf .commit actCommit s)

/-! ## DISCARD (R13) -/

/-- A DISCARD taken in READY: answered OK, the record becomes ABSENT, an open group's versions are aborted (R13). -/
def actDiscard (s : State) (g : Grant) : State :=
  let slots := (recordOf s g.stream).slots
  let s1 := setRecord (answerTaken s (plainAnswer g.stream g.req.tag .ok)) g.stream .absent
  settle (abortVersions (Work.start s1) slots)

/-- DISCARD (R13). -/
def execDiscard (s : State) : Host.Outcome State Fault Refusal := .next (takeOf .discard actDiscard s)

/-! ## RESPONSE_SEND (R162, R163) -/

/-- The head of the egress queue leaves on the response channel. -/
def sendHead (s : State) : State :=
  match s.fabric.egress with
  | [] => s
  | r :: rs =>
    { s with
      fabric := { s.fabric with egress := rs }
      wires := { s.wires with fabricOut := s.wires.fabricOut ++ [.response r] } }

/-- RESPONSE_SEND (R163): held answers then enter as room allows (R162). -/
def execResponseSend (s : State) : Host.Outcome State Fault Refusal :=
  .next (match s.fabric.egress with
    | [] => s
    | _ :: _ => settleHeldAnswers (sendHead s))

end Sys2Proof.Machine
end

