-- ==== Sys2Proof/Machine/Reads.lean ====
section
/-! DEFINITION. The outcomes of home reads (05_reads_and_the_visible_value.md R74, R78). -/

namespace Sys2Proof.Machine

/-- The tracker entry whose read was taken with a serial. -/
def trackerAt (s : State) (serial : Serial) : Option TrackerEntry := s.reads.find? fun e => e.serial == serial

/-- An entry leaves the tracker. -/
def untrack (s : State) (e : TrackerEntry) : State := { s with reads := s.reads.filter fun x => x.serial != e.serial }

/-- The value of a read: its pinned versions laid over the home line in list order (R78); a plain read has none (R74). -/
def readValue (s : State) (e : TrackerEntry) (home : Line) : List Byte :=
  bytesOf (layOver home (e.pinned.filterMap (slotAt s))) e.offset e.length

/-- A read is answered; its slots are unpinned, its entry freed, and the freed slots offered to waiters (R36, R78). -/
def answerRead (s : State) (e : TrackerEntry) (r : Response) : State :=
  drainTest (settle (unpin (Work.start (untrack (answerTaken s r) e)) e.pinned))

/-- A home read has returned OK. -/
def homeReadReturned (serial : Serial) (data : Line) (s : State) : State :=
  match trackerAt s serial with
  | none => s
  | some e => answerRead s e (readAnswer e.stream e.tag (readValue s e data))

/-- A home read has failed: MEDIA_ERROR (R74, R78). -/
def homeReadFailed (serial : Serial) (s : State) : State :=
  match trackerAt s serial with
  | none => s
  | some e => answerRead s e (plainAnswer e.stream e.tag .mediaError)

/-- HOME_READ_RETURN (R78). -/
def execHomeReadReturn (t : MediaTag) (data : Line) (s : State) : Host.Outcome State Fault Refusal :=
  .next (onOutcome s t fun
    | .homeRead serial => some (homeReadReturned serial data)
    | _ => none)

/-- HOME_READ_FAIL (R74). -/
def execHomeReadFail (t : MediaTag) (s : State) : Host.Outcome State Fault Refusal :=
  .next (onOutcome s t fun
    | .homeRead serial => some (homeReadFailed serial)
    | _ => none)

end Sys2Proof.Machine
end

