-- ==== Sys2Proof/Machine/Checkpoint.lean ====
section
/-! DEFINITION. The outcomes of a checkpoint's superblock (07_apply_and_checkpoint.md R110, R112, R113;
08_start_up_recovery_and_restart.md R130; 09_journal_relocation.md R135; 10_power_fail_drain.md R145). -/

namespace Sys2Proof.Machine

/-- Steps 1 to 5 of R112 for the checkpoint in flight. -/
def checkpointPointers (s : State) (f : InFlight) : State :=
  { s with
    journal :=
      { s.journal with
        releasedTail := f.sb.tail
        used := s.journal.used - f.span
        retiredSpan := s.journal.retiredSpan - f.span }
    ckpt :=
      { s.ckpt with
        counter := f.sb.counter
        applied := f.sb.applied
        nextSlot := s.ckpt.nextSlot.other
        errors := 0 } }

/-- A checkpoint is requested in the event that ends one: it counts as the pending trigger (R110). -/
def requestAtEnd (s : State) (wanted : Bool) : State := if wanted then keepTrigger s else s

/-- The relocation unit enters FORMATTING_NEW at an acknowledged checkpoint that leaves the old journal empty (R135). -/
def relocAfterCheckpoint (s : State) (f : InFlight) : State :=
  if pendingEmpty s && f.sb.applied == s.journal.durableThrough && s.ckpt.inFlight.isNone then enterFormattingNew s
  else s

/-- The recovery sequencer is in phase FINAL. -/
def inFinal (s : State) : Bool := s.recovery.any fun r => r.phase == .final

/-- What an acknowledged checkpoint ends: a recovery in phase FINAL enters READY (R130), a drain whose final trigger has been
raised enters HALTED with COMPLETE (R145). -/
def checkpointEnds (s : State) : State :=
  match s.modes.mode with
  | .recovering => if inFinal s then becomeReady (leaveRecovering s) else s
  | .draining => if s.drain.finalRaised then enterHalted s .complete else drainTest s
  | .idle | .formatting | .ready | .halted | .faulted => s

/-- The checkpoint in flight is acknowledged OK (R112). -/
def checkpointAcked (s : State) : State :=
  match s.ckpt.inFlight with
  | none => s
  | some f =>
    let s1 := recheckSpace (checkpointPointers s f)
    let s2 := endCheckpoint (requestAtEnd s1 (wantsSpace s1 || intervalReached s1))
    checkpointEnds (relocAfterCheckpoint s2 f)

/-- A checkpoint is reported failed: CHECKPOINT_ERROR and the count (R113 steps 1 and 2). -/
def countCheckpointError (s : State) : State :=
  let s1 := setFlag s .checkpointError
  { s1 with ckpt := { s1.ckpt with errors := s1.ckpt.errors + 1 } }

/-- The checkpoint in flight is reported failed (R113, R131). -/
def checkpointFailed (s : State) : State :=
  let s1 := countCheckpointError s
  if s.modes.mode = .recovering ∨ Config.checkpointErrorLimit ≤ s1.ckpt.errors then enterFaulted s1
  else drainTest (endCheckpoint (requestAtEnd s1 (wantsSpace s1 || pendingEmpty s1)))

/-- CHECKPOINT_OK (R112). -/
def execCheckpointOk (t : MediaTag) (s : State) : Host.Outcome State Fault Refusal :=
  .next (onOutcome s t fun
    | .checkpoint => some checkpointAcked
    | _ => none)

/-- CHECKPOINT_FAIL (R113). -/
def execCheckpointFail (t : MediaTag) (s : State) : Host.Outcome State Fault Refusal :=
  .next (onOutcome s t fun
    | .checkpoint => some checkpointFailed
    | _ => none)

end Sys2Proof.Machine
end

