-- ==== Sys2Proof/Machine/Recovery.lean ====
section
/-! DEFINITION. The recovery sequencer's reads and replay writes (08_start_up_recovery_and_restart.md R126 to R131). A response
that comes when the sequencer has stopped (in DRAINING) is not used: it may end the drain (R131, R144, R145). -/

namespace Sys2Proof.Machine

/-! ## Superblocks (R126) -/

/-- A recovery ends in IDLE with a start status (R126 steps 1, 3 and 4). -/
def recoveryToIdle (s : State) (v : StartStatus) : State := setMode (setStart (leaveRecovering s) v) .idle

/-- The copy that recovery selects: the valid one with the higher counter, slot A when equal (R126 steps 1 and 2). -/
def selectCopy (a b : Line) : Option (SbSlot × Superblock) :=
  let x := readSuperblock a
  let y := readSuperblock b
  match superblockValid a, superblockValid b with
  | false, false => none
  | true, false => some (.a, x)
  | false, true => some (.b, y)
  | true, true => if x.counter.toNat < y.counter.toNat then some (.b, y) else some (.a, x)

/-- The scan begins from the selected copy (R126 step 5). -/
def beginScan (s : State) (r : Recovery) (slot : SbSlot) (sb : Superblock) : State :=
  enterHeader
    { s with
      journal :=
        { s.journal with
          head := sb.tail
          appliedThrough := sb.applied
          durableThrough := sb.applied
          nextSeq := sb.applied + 1 }
      ckpt := { s.ckpt with counter := sb.counter, applied := sb.applied, nextSlot := slot.other } }
    { r with selected := some (slot, sb), scanOffset := sb.tail, expected := sb.applied + 1, scanned := 0 }

/-- The relocated-to readout takes a copy's relocated-to base and k (R126 step 3). -/
def setRelocated (s : State) (sb : Superblock) : State :=
  { s with regs :=
    { s.regs with relocatedBase := granuleOf sb.relocBase, relocatedK := sb.relocK.setWidth 5 } }

/-- Both copies have returned: the five decisions of R126. -/
def judgeCopies (s : State) (r : Recovery) (a b : Line) : State :=
  match selectCopy a b with
  | none => recoveryToIdle s .unformatted
  | some (slot, sb) =>
    if sb.retired then recoveryToIdle (setRelocated s sb) .relocated
    else if sb.base ≠ s.journal.region.base ∨ sb.k ≠ s.journal.region.k.setWidth 8 then recoveryToIdle s .mismatch
    else beginScan s r slot sb

/-- The copies returned so far, with one more. -/
def addCopy (slot : SbSlot) (data : Line) (a b : Option Line) : Option Line × Option Line :=
  match slot with
  | .a => (some data, b)
  | .b => (a, some data)

/-- One of the two superblock reads returns OK (R126). -/
def superblockRead (slot : SbSlot) (data : Line) (s : State) : State :=
  match s.recovery with
  | none => drainTest s
  | some r =>
    match r.phase with
    | .superblocks a b =>
      match addCopy slot data a b with
      | (some x, some y) => judgeCopies s r x y
      | (x, y) => setRecovery s { r with phase := .superblocks x y }
    | .linkReset | .header | .record | .replay | .final => s

/-! ## Headers (R127) -/

/-- The scratch area now holds these lines of the record (R37). -/
def setScratch (s : State) (ls : List (Nat × Line)) : State := { s with staging := { s.staging with scratch := some ls } }

/-- The lines of the record read into the scratch area. -/
def scratchLines (s : State) : List (Nat × Line) := s.staging.scratch.getD []

/-- The reads of the rest of a record of `length` lines (R128). The model's choice (log 11): the reads, which R128 lets be issued
in any order, are handed over in record order, so that they are first issued in that order. -/
def recordReads (region : Region) (start length : Nat) : List MediaReq :=
  (List.range (length - 1)).map fun i =>
    readRequest (.recordRead (i + 1)) (region.ringAddr ((start + (i + 1)) % region.ringLength))

/-- A header line has been accepted: the rest of its record is read (R127, R128). -/
def beginRecord (s : State) (r : Recovery) (n : Nat) (header : Line) : State :=
  let r1 := { r with phase := .record, lines := n, length := recordLength n }
  handOver (setRecovery (setScratch s [(0, header)]) r1)
    (recordReads s.journal.region r.scanOffset (recordLength n))

/-- A header read returns OK: the record follows, or the scan ends cleanly (R127). -/
def headerRead (data : Line) (s : State) : State :=
  match s.recovery with
  | none => drainTest s
  | some r =>
    match r.phase with
    | .header =>
      match acceptedHeader? data r.expected with
      | some n =>
        if r.scanned + recordLength n ≤ s.journal.region.ringLength then beginRecord s r n data else enterFinal s r
      | none => enterFinal s r
    | .linkReset | .superblocks _ _ | .record | .replay | .final => s

/-! ## Records (R128) -/

/-- Line `i` of the record in the scratch area. -/
def recordLine (s : State) (i : Nat) : Line :=
  (((scratchLines s).find? fun p => p.1 == i).map Prod.snd).getD zeroLine

/-- Lines `first` .. `first + count - 1` of the record. -/
def recordSlice (s : State) (first count : Nat) : List Line := (List.range count).map fun i => recordLine s (first + i)

/-- The replay write of descriptor entry `i` (R129). -/
def replayRequest (s : State) (r : Recovery) (i : Nat) : MediaReq :=
  let d := readDescriptor (recordSlice s 1 (descriptorCount r.lines)) i
  writeRequest (.replayWrite i) d.1 d.2 (recordLine s (1 + descriptorCount r.lines + i))

/-- Phase REPLAY begins: one home write for each descriptor entry, handed over in the order of the entries (R129, log 11). -/
def beginReplay (s : State) (r : Recovery) : State :=
  handOver (setRecovery s { r with phase := .replay }) ((List.range r.lines).map (replayRequest s r))

/-- The whole record has been read: it is replayed when its commit line is whole, else it is a torn group (R128). -/
def judgeRecord (s : State) (r : Recovery) : State :=
  if commitWhole (recordLine s (r.length - 1)) r.expected r.lines (recordSlice s 0 (r.length - 1)) then beginReplay s r
  else enterFinal (setFlag s .tornGroup) r

/-- A read of the record returns OK (R128). -/
def recordRead (i : Nat) (data : Line) (s : State) : State :=
  match s.recovery with
  | none => drainTest s
  | some r =>
    match r.phase with
    | .record =>
      let s1 := setScratch s (scratchLines s ++ [(i, data)])
      if anyRequest s1 Requester.isRecordRead then s1 else judgeRecord s1 r
    | .linkReset | .superblocks _ _ | .header | .replay | .final => s

/-! ## Replay (R129) -/

/-- The record is wholly home: the five steps of R129. -/
def recordReplayed (s : State) (r : Recovery) : State :=
  let next := (r.scanOffset + r.length) % s.journal.region.ringLength
  enterHeader
    { s with journal :=
      { s.journal with
        appliedThrough := r.expected
        durableThrough := r.expected
        nextSeq := r.expected + 1
        head := next } }
    { r with scanOffset := next, scanned := r.scanned + r.length, expected := r.expected + 1 }

/-- A replay home write is acknowledged OK (R129). -/
def replayAcked (s : State) : State :=
  match s.recovery with
  | none => drainTest s
  | some r =>
    match r.phase with
    | .replay => if anyRequest s Requester.isReplay then s else recordReplayed s r
    | .linkReset | .superblocks _ _ | .header | .record | .final => s

/-! ## Failure (R131) -/

/-- A read of the sequencer has failed: the part enters FAULTED from RECOVERING; in DRAINING its data was not to be used, and
its outcome only ends it. -/
def recoveryReadFailed (s : State) : State := if s.modes.mode = .recovering then enterFaulted s else drainTest s

/-- SUPERBLOCK_READ_OK (R126). -/
def execSuperblockReadOk (t : MediaTag) (data : Line) (s : State) : Host.Outcome State Fault Refusal :=
  .next (onOutcome s t fun
    | .superblockRead slot => some (superblockRead slot data)
    | _ => none)

/-- HEADER_READ_OK (R127). -/
def execHeaderReadOk (t : MediaTag) (data : Line) (s : State) : Host.Outcome State Fault Refusal :=
  .next (onOutcome s t fun
    | .headerRead => some (headerRead data)
    | _ => none)

/-- RECORD_READ_OK (R128). -/
def execRecordReadOk (t : MediaTag) (data : Line) (s : State) : Host.Outcome State Fault Refusal :=
  .next (onOutcome s t fun
    | .recordRead i => some (recordRead i data)
    | _ => none)

/-- REPLAY_WRITE_OK (R129). -/
def execReplayWriteOk (t : MediaTag) (s : State) : Host.Outcome State Fault Refusal :=
  .next (onOutcome s t fun
    | .replayWrite _ => some replayAcked
    | _ => none)

/-- RECOVERY_MEDIA_FAIL (R131): a read, a replay home write, or in RECOVERING the final checkpoint. -/
def execRecoveryMediaFail (t : MediaTag) (s : State) : Host.Outcome State Fault Refusal :=
  .next (onOutcome s t fun
    | .superblockRead _ | .headerRead | .recordRead _ => some recoveryReadFailed
    | .replayWrite _ => some enterFaulted
    | .checkpoint => if s.modes.mode = .recovering then some checkpointFailed else none
    | _ => none)

end Sys2Proof.Machine
end

