-- ==== Sys2Proof/Machine/MediaPort.lean ====
section
/-! DEFINITION. The media port's own commands: the arbiter's grant, RETRY, a stale response and the response timer
(04_windows_and_posted_writes.md R63; 05_reads_and_the_visible_value.md R73; 11_the_media_port.md R151 to R156). -/

namespace Sys2Proof.Machine

/-! ## Eligibility (R152) -/

/-- Two requests to different lines, or two reads, do not stand in each other's way. -/
def compatible (r q : MediaReq) : Bool := q.line != r.line || (q.isRead && r.isRead)

/-- The request at place `i` of the hazard table is eligible: every request to its line that became ready before it has been
issued, and no outstanding request to its line conflicts with it (R152). -/
def eligibleAt (rs : List MediaReq) (i : Nat) (r : MediaReq) : Bool :=
  ((rs.take i).all fun q => q.line != r.line || q.outstanding)
    && (rs.eraseIdx i).all fun q => !q.outstanding || compatible r q

/-- A request has not been issued, or awaits its reissue. -/
def MediaReq.wantsIssue (r : MediaReq) : Bool :=
  match r.state with
  | .ready | .retryWait _ _ => true
  | .issued _ _ _ => false

/-- The request at place `i` of the hazard table is eligible for an issue or a reissue (R152, R153). -/
def eligible (s : State) (i : Nat) (r : MediaReq) : Bool := r.wantsIssue && eligibleAt s.media.requests i r

/-- A request can be granted: it is eligible, and a tag is FREE or it holds its tag already (R153). -/
def grantable (s : State) (i : Nat) (r : MediaReq) : Bool :=
  eligible s i r && (r.outstanding || (freeTag? s).isSome)

/-! ## The arbiter (R153) -/

/-- The background requesters in order of priority; none for a foreground requester. -/
def Requester.priority : Requester → Option Nat
  | .homeRead _ | .posted _ => none
  | .checkpoint | .formatLine | .relocLine | .retiringSb _ | .restoringSb _ => some 0
  | .journalLine _ | .commitLine => some 1
  | .homeWrite _ => some 2
  | .superblockRead _ | .headerRead | .recordRead _ | .replayWrite _ => some 3

/-- The first grantable request, in order of readiness, of certain requesters: its place. -/
def firstGrantable (s : State) (p : Requester → Bool) : Option Nat :=
  (s.media.requests.zipIdx.find? fun x => p x.1.requester && grantable s x.2 x.1).map Prod.snd

/-- Certain requesters have an eligible request, whether or not a tag is FREE for it (R152). -/
def anyEligible (s : State) (p : Requester → Bool) : Bool :=
  s.media.requests.zipIdx.any fun x => p x.1.requester && eligible s x.2 x.1

/-- A requester of the background class. -/
def Requester.isBackground (q : Requester) : Bool := q.priority.isSome

/-- The background grant: the highest-priority requester with a grantable request. -/
def backgroundGrant (s : State) : Option Nat :=
  (List.range 4).findSome? fun n => firstGrantable s fun q => q.priority == some n

/-- What the arbiter decides: a place in the hazard table, and its alternation and count after the grant. -/
structure MediaGrant where
  place : Nat
  readTurn : Bool
  foreground : Nat
  deriving DecidableEq, Repr

/-- The foreground grant: a read and a posted write alternate while both are eligible (R153). Of two that are eligible the one
that can be granted is granted, out of its turn when the other has no FREE tag (log 10). -/
def foregroundGrant (s : State) : Option (Nat × Bool) :=
  match firstGrantable s Requester.isHomeRead, firstGrantable s Requester.isPosted with
  | some i, some j => some (if s.media.readTurn then (i, false) else (j, true))
  | some i, none => some (i, if anyEligible s Requester.isPosted then false else s.media.readTurn)
  | none, some j => some (j, if anyEligible s Requester.isHomeRead then true else s.media.readTurn)
  | none, none => none

/-- The count after a foreground grant: one more while background has an eligible request, else 0 (R153). -/
def foregroundCount (s : State) : Nat :=
  if anyEligible s Requester.isBackground then s.media.foreground + 1 else 0

/-- The arbiter's grant: foreground first, except that the consecutive foreground count at Q - 1 gives background its turn
(R153). While background's eligible requests have no FREE tag, a foreground reissue is granted and counted (log 10). -/
def mediaGrant (s : State) : Option MediaGrant :=
  match foregroundGrant s, backgroundGrant s with
  | none, none => none
  | some f, none => some { place := f.1, readTurn := f.2, foreground := foregroundCount s }
  | none, some i => some { place := i, readTurn := s.media.readTurn, foreground := 0 }
  | some f, some i =>
    if s.regs.arbQuota - 1 ≤ s.media.foreground then
      some { place := i, readTurn := s.media.readTurn, foreground := 0 }
    else some { place := f.1, readTurn := f.2, foreground := foregroundCount s }

/-! ## The issue (R153, R155) -/

/-- The tag and retry count with which a request is issued: its own at a reissue, else the lowest FREE tag and 0. -/
def issueTag (s : State) (r : MediaReq) : Option (MediaTag × Nat) :=
  match r.state with
  | .retryWait t n => some (t, n)
  | .ready => (freeTag? s).map fun t => (t, 0)
  | .issued _ _ _ => none

/-- The record that the port sends for a request (11.2). -/
def issueSignal (t : MediaTag) (r : MediaReq) : MediaSignal :=
  match r.write with
  | none => .readLine t r.line
  | some (mask, data) => .writeLine t r.line mask data

/-- A request is issued: its tag ISSUED with a response deadline, its record sent. -/
def sendRequest (s : State) (place : Nat) (r : MediaReq) (t : MediaTag) (retries : Nat) : State :=
  { s with
    media :=
      { s.media with
        requests :=
          s.media.requests.set place { r with state := .issued t retries (s.now + s.regs.mediaTimeout) } }
    wires := { s.wires with mediaOut := s.wires.mediaOut ++ [issueSignal t r] } }

/-! ## What an issue is reported to (R63, R70, R73) -/

/-- A home read has been sent: its entry is ISSUED (R70). -/
def markReadIssued (s : State) (serial : Serial) : State :=
  { s with reads := s.reads.map fun e => if e.serial = serial then { e with home := .issued } else e }

/-- The entry of a held plain read to the line, taken after the posted write (R73). -/
def TrackerEntry.heldBehind (e : TrackerEntry) (p : PostedRecord) : Bool :=
  e.kind == .plain && e.line == p.line && 0 < e.hold && serialBefore p.serial e.serial

/-- A posted write's issue lowers the posted hold of an entry (R73). -/
def lowerHold (p : PostedRecord) (e : TrackerEntry) : TrackerEntry :=
  if e.heldBehind p then { e with hold := e.hold - 1 } else e

/-- A request with its take serial, put into a batch in serial order (R152). -/
def insertBySerial (x : Serial × MediaReq) : List (Serial × MediaReq) → List (Serial × MediaReq)
  | [] => [x]
  | y :: ys => if serialBefore x.1 y.1 then x :: y :: ys else y :: insertBySerial x ys

/-- The requests that a posted write's issue makes ready, in order of their take serials: the next posted record and the home
reads whose hold reaches 0 (R63, R73, R152). -/
def readyAfterPosted (s : State) (p : PostedRecord) : List MediaReq :=
  let reads := (s.reads.filter fun e => e.heldBehind p && e.hold == 1).map fun e => (e.serial, homeReadRequest e)
  let batch := match postedHead s with
    | none => reads
    | some q => insertBySerial (q.serial, postedRequest q) reads
  batch.map Prod.snd

/-- A posted record becomes ISSUED. -/
def markPostedIssued (s : State) (serial : Serial) : State :=
  { s with posted :=
    { s.posted with
      records := s.posted.records.map fun p => if p.serial = serial then { p with issued := true } else p } }

/-- A posted write's first issue is reported to the read unit (R63, R73); the clearing of a relocation's target may have
waited for it (R134). -/
def reportIssue (s : State) (serial : Serial) : State :=
  match postedAt s serial with
  | none => s
  | some p =>
    let s1 := markPostedIssued s serial
    releaseClearing (handOver { s1 with reads := s1.reads.map (lowerHold p) } (readyAfterPosted s1 p))

/-- The requester learns of a first issue. -/
def afterFirstIssue (s : State) (who : Requester) : State :=
  match who with
  | .homeRead serial => markReadIssued s serial
  | .posted serial => reportIssue s serial
  | .journalLine _ | .commitLine | .homeWrite _ | .checkpoint | .formatLine | .relocLine | .retiringSb _
  | .restoringSb _ | .superblockRead _ | .headerRead | .recordRead _ | .replayWrite _ => s

/-- The arbiter's alternation and count after a grant. -/
def setArbiter (s : State) (g : MediaGrant) : State :=
  { s with media := { s.media with readTurn := g.readTurn, foreground := g.foreground } }

/-- A granted request is issued or reissued. -/
def issueGranted (s : State) (g : MediaGrant) (r : MediaReq) : State :=
  match issueTag s r with
  | none => s
  | some (t, retries) =>
    let s1 := sendRequest (setArbiter s g) g.place r t retries
    if r.outstanding then s1 else afterFirstIssue s1 r.requester

/-- MEDIA_ISSUE (R153). -/
def execMediaIssue (s : State) : Host.Outcome State Fault Refusal :=
  .next
    (match mediaGrant s with
    | none => s
    | some g =>
      match s.media.requests[g.place]? with
      | none => s
      | some r => issueGranted s g r)

/-! ## RETRY (R154, R156) -/

/-- A request's failed outcome at its requester (R156). -/
def failedOutcome (s : State) (who : Requester) : State :=
  match who with
  | .homeRead serial => homeReadFailed serial s
  | .posted serial => postedFailed serial s
  | .journalLine _ => journalLineFailed s
  | .commitLine => commitLineFailed s
  | .homeWrite _ | .replayWrite _ => enterFaulted s
  | .checkpoint => checkpointFailed s
  | .formatLine => formatLineFailed s
  | .relocLine => relocLineFailed s
  | .retiringSb slot => retiringFailed slot s
  | .restoringSb _ => restoringFailed s
  | .superblockRead _ | .headerRead | .recordRead _ => recoveryReadFailed s

/-- A tag enters RETRY_WAIT with one more RETRY counted and no deadline (R154). -/
def waitRetry (s : State) (t : MediaTag) : State :=
  { s with media :=
    { s.media with
      requests := s.media.requests.map fun r =>
        match r.state with
        | .issued u n _ => if u = t then { r with state := .retryWait u (n + 1) } else r
        | .ready | .retryWait _ _ => r } }

/-- The RETRY responses received for a request. -/
def MediaReq.retries (r : MediaReq) : Nat :=
  match r.state with
  | .issued _ n _ | .retryWait _ n => n
  | .ready => 0

/-- MEDIA_RETRY (R154): the tag waits for a reissue, or at the retry limit the request has failed. -/
def execMediaRetry (t : MediaTag) (s : State) : Host.Outcome State Fault Refusal :=
  .next
    (match issuedAt s t with
    | none => s
    | some r =>
      if r.retries < s.regs.retryLimit then waitRetry s t else failedOutcome (dropTag s t) r.requester)

/-! ## Stale responses and the response timer (R151, R154, R155) -/

/-- STALE_RESPONSE (R151, R154): a response whose tag is FREE or in RETRY_WAIT is discarded and changes nothing. A response
for an ISSUED tag is not this command's. -/
def execStaleResponse (_t : MediaTag) (_status : MediaStatus) (s : State) : Host.Outcome State Fault Refusal := .next s

/-- The response deadline of a tag has been reached (R155). -/
def responseExpired (s : State) (t : MediaTag) : Bool :=
  s.media.requests.any fun r =>
    match r.state with
    | .issued u _ d => u == t && d ≤ s.now
    | .ready | .retryWait _ _ => false

/-- MEDIA_TIMEOUT (R155): the part enters FAULTED. -/
def execMediaTimeout (t : MediaTag) (s : State) : Host.Outcome State Fault Refusal :=
  .next (if responseExpired s t then enterFaulted s else s)

end Sys2Proof.Machine
end

