-- ==== Sys2Proof/Machine/Registers.lean ====
section
/-! DEFINITION. The register file of the management port: reads and writes of its registers
(12_fabric_link_management_port_and_alerts.md R165, R166, the register table; 01_write_groups.md R8). -/

namespace Sys2Proof.Machine

/-! ## Reads (R165) -/

/-- A number as a register value. -/
def word (n : Nat) : Word := BitVec.ofNat 32 n

/-- MODE (12.4). -/
def modeWord (s : State) : Word :=
  word (s.modes.mode.code + s.modes.startStatus.code * 2 ^ 4 + s.modes.lastCommand.code * 2 ^ 8
    + s.reloc.state.code * 2 ^ 12 + s.reloc.result.code * 2 ^ 16 + s.drain.status.code * 2 ^ 20)

/-- RELOC_CTRL: k and HOLD; REQUEST reads 0. -/
def relocCtrlWord (s : State) : Word := word (s.regs.relocK.toNat + s.regs.relocHold.toNat * 2 ^ 8)

/-- DEFAULT_KIND. -/
def defaultKindWord (s : State) : Word :=
  match s.decoder.defaultKind with
  | .deny => 0
  | .plain => 1

/-- WINw_ATTR. -/
def attrWord (w : Window) : Word := word (w.mask.toNat + w.kind.code.toNat * 2 ^ 16 + w.enabled.toNat * 2 ^ 31)

/-- The window register that an index names, if it is one of 20h..37h: the window's number, and which of its words. -/
def windowIndex? (index : BitVec 8) : Option (Fin 8 × Fin 3) :=
  let o := index.toNat - 0x20
  if h : 0x20 ≤ index.toNat ∧ o < 24 then
    some (⟨o / 3, by omega⟩, ⟨o % 3, Nat.mod_lt _ (by decide)⟩)
  else none

/-- A word of a window table entry. -/
def windowWord (w : Window) (part : Fin 3) : Word :=
  match part with
  | 0 => w.base.setWidth 32
  | 1 => w.limit.setWidth 32
  | 2 => attrWord w

/-- The value of a 48-bit readout (R91). -/
def readout48 (s : State) : Readout48 → BitVec 48
  | .applied => s.journal.appliedThrough
  | .durable => s.journal.durableThrough
  | .nextSeq => s.journal.nextSeq

/-- The latch of a 48-bit readout (R165). -/
def latch48 (s : State) : Readout48 → BitVec 48
  | .applied => s.regs.latchApplied
  | .durable => s.regs.latchDurable
  | .nextSeq => s.regs.latchNextSeq

/-- The low word of a 48-bit value. -/
def low32 (v : BitVec 48) : Word := v.setWidth 32

/-- The upper 16 bits of a 48-bit value. -/
def high16 (v : BitVec 48) : Word := (v >>> 32).setWidth 32

/-- What a read of a register other than a window word returns; an index with no register reads as zero (R164). The effect of
a low-word read on its latch is READ_48_LOW. -/
def readPlain (s : State) (index : BitVec 8) : Word :=
  match index.toNat with
  | 0x00 => Config.partId
  | 0x01 => modeWord s
  | 0x03 => s.regs.flags.setWidth 32
  | 0x04 => s.regs.enables.setWidth 32
  | 0x05 => s.regs.jnlBase.setWidth 32
  | 0x06 => s.regs.jnlK.setWidth 32
  | 0x07 => s.regs.relocBase.setWidth 32
  | 0x08 => relocCtrlWord s
  | 0x09 => s.regs.relocatedBase.setWidth 32
  | 0x0A => s.regs.relocatedK.setWidth 32
  | 0x10 => word s.regs.groupLimit
  | 0x11 => word s.regs.conflictTimeout
  | 0x12 => word s.regs.idleTimeout
  | 0x13 => word s.regs.mediaTimeout
  | 0x14 => word s.regs.retryLimit
  | 0x15 => word s.regs.drainBudget
  | 0x16 => word s.regs.arbQuota
  | 0x17 => word s.regs.ckptInterval
  | 0x18 => defaultKindWord s
  | 0x40 => word s.journal.head
  | 0x41 => word s.journal.used
  | 0x42 => word s.journal.releasedTail
  | 0x43 => low32 (readout48 s .applied)
  | 0x44 => high16 (latch48 s .applied)
  | 0x45 => low32 (readout48 s .durable)
  | 0x46 => high16 (latch48 s .durable)
  | 0x47 => low32 (readout48 s .nextSeq)
  | 0x48 => high16 (latch48 s .nextSeq)
  | 0x49 => word (slotsInUse s)
  | 0x4A => word (openSlots s)
  | 0x4B => word s.groups.queue.length
  | 0x50 => s.regs.committedCount
  | 0x51 => s.regs.abortedCount
  | 0x52 => s.regs.lostCount.setWidth 32
  | _ => 0

/-- What a read of a register returns (12.4). -/
def readRegister (s : State) (index : BitVec 8) : Word :=
  match windowIndex? index with
  | some (w, part) => windowWord s.decoder.table[w] part
  | none => readPlain s index

/-- A 48-bit value enters its latch (R165). -/
def latch (s : State) (r : Readout48) (v : BitVec 48) : State :=
  match r with
  | .applied => { s with regs := { s.regs with latchApplied := v } }
  | .durable => { s with regs := { s.regs with latchDurable := v } }
  | .nextSeq => { s with regs := { s.regs with latchNextSeq := v } }

/-- READ_48_LOW (R165): the whole value is latched and its low word shifted out. -/
def execRead48Low (r : Readout48) (s : State) : Host.Outcome State Fault Refusal :=
  let v := readout48 s r
  .next { latch s r v with wires := { s.wires with misoOut := s.wires.misoOut ++ [low32 v] } }

/-! ## Flags, enables and the idle timeout (R8, R166) -/

/-- EVENT_FLAGS_CLEAR (R166). -/
def execEventFlagsClear (value : Word) (s : State) : Host.Outcome State Fault Refusal :=
  .next (clearFlags s (value.setWidth 12))

/-- EVENT_ENABLE_WRITE (R166). -/
def execEventEnableWrite (value : Word) (s : State) : Host.Outcome State Fault Refusal :=
  .next (writeEnables s (value.setWidth 12))

/-- A group record without its idle deadline (R8). -/
def GroupRecord.noDeadline : GroupRecord → GroupRecord
  | .opened slots _ => .opened slots none
  | .absent => .absent
  | .doomed reason => .doomed reason

/-- Every idle deadline present is removed (R8). -/
def removeDeadlines (s : State) : State :=
  { s with groups := { s.groups with table := s.groups.table.map GroupRecord.noDeadline } }

/-- The idle timeout register holds `v`. -/
def setIdleTimeout (s : State) (v : Nat) : State := { s with regs := { s.regs with idleTimeout := v } }

/-- IDLE_TIMEOUT_WRITE (R8); a value above 65535 is ignored whole (R165). -/
def execIdleTimeoutWrite (value : Word) (s : State) : Host.Outcome State Fault Refusal :=
  .next
    (if 65535 < value.toNat then s
    else if value.toNat = 0 then removeDeadlines (setIdleTimeout s 0)
    else setIdleTimeout s value.toNat)

/-! ## Other writes (R59, R165) -/

/-- The registers become `r` when the value lies in a range; else the write is ignored whole (R165). -/
def writeRanged (s : State) (low high : Nat) (value : Word) (r : Regs) : State :=
  if low ≤ value.toNat ∧ value.toNat ≤ high then { s with regs := r } else s

/-- A write of DEFAULT_KIND (R55). -/
def writeDefaultKind (s : State) (value : Word) : State :=
  match value.toNat with
  | 0 => { s with decoder := { s.decoder with defaultKind := .deny } }
  | 1 => { s with decoder := { s.decoder with defaultKind := .plain } }
  | _ => s

/-- A window table entry after a write of one of its words; a kind encoding of 3 is ignored whole (R165). -/
def writeWindow (w : Window) (part : Fin 3) (value : Word) : Window :=
  match part with
  | 0 => { w with base := value.setWidth 28 }
  | 1 => { w with limit := value.setWidth 28 }
  | 2 =>
    match windowKind? (value.extractLsb' 16 2) with
    | some kind => { w with mask := value.setWidth 16, kind, enabled := value.getLsbD 31 }
    | none => w

/-- A write of a register other than a window word; read-only registers and indexes with no register ignore it (R164,
R165). -/
def writePlain (s : State) (index : BitVec 8) (value : Word) : State :=
  match index.toNat with
  | 0x05 => { s with regs := { s.regs with jnlBase := value.setWidth 28 } }
  | 0x06 => { s with regs := { s.regs with jnlK := value.setWidth 5 } }
  | 0x07 => { s with regs := { s.regs with relocBase := value.setWidth 28 } }
  | 0x08 => { s with regs := { s.regs with relocK := value.setWidth 5, relocHold := value.getLsbD 8 } }
  | 0x10 => writeRanged s 1 256 value { s.regs with groupLimit := value.toNat }
  | 0x11 => writeRanged s 1 65535 value { s.regs with conflictTimeout := value.toNat }
  | 0x13 => writeRanged s 1 4095 value { s.regs with mediaTimeout := value.toNat }
  | 0x14 => writeRanged s 0 15 value { s.regs with retryLimit := value.toNat }
  | 0x15 => writeRanged s 1 65535 value { s.regs with drainBudget := value.toNat }
  | 0x16 => writeRanged s 2 16 value { s.regs with arbQuota := value.toNat }
  | 0x17 => writeRanged s 1 64 value { s.regs with ckptInterval := value.toNat }
  | 0x18 => writeDefaultKind s value
  | _ => s

/-- A write of a register (R165). -/
def writeRegister (s : State) (index : BitVec 8) (value : Word) : State :=
  match windowIndex? index with
  | some (w, part) =>
    { s with decoder :=
      { s.decoder with table := s.decoder.table.set w (writeWindow s.decoder.table[w] part value) } }
  | none => writePlain s index value

/-- REGISTER_WRITE (R165): the writes that have rows of their own are not this command's. -/
def execRegisterWrite (index : BitVec 8) (value : Word) (s : State) : Host.Outcome State Fault Refusal :=
  .next (if ownRowWrite index value then s else writeRegister s index value)

end Sys2Proof.Machine
end

