-- ==== Sys2Proof/Machine/Timers.lean ====
section
/-! DEFINITION. The expiry of an idle deadline and of a conflict deadline (01_write_groups.md R9,
03_line_claims_and_waiting_writes.md R46, R51). -/

namespace Sys2Proof.Machine

/-- A stream's idle deadline has been reached (R9). -/
def idleExpired (s : State) (st : Stream) : Bool :=
  match recordOf s st with
  | .opened _ (some d) => d ≤ nowMs s
  | .opened _ none | .absent | .doomed _ => false

/-- The held write of a stream, in the wait list or in the slot-wait list. -/
def heldOf (s : State) (st : Stream) : Option HeldWrite := (heldWrites s).find? fun h => h.stream == st

/-- A stream's held write, if any, is answered ABORTED and removed (R9). -/
def abortHeldOf (s : State) (st : Stream) (reason : Reason) : State :=
  match heldOf s st with
  | none => s
  | some h => answerHeldAborted reason (leaveSlotWait (leaveWaitList s st) st) h

/-- IDLE_EXPIRY (R9): the group is doomed with IDLE and the stream's held write answered ABORTED(IDLE). The model's choice (log
32): R9 and R135 are followed over R11's "its record cannot change while it waits", so that the expiry dooms the OPEN record
of a stream whose COMMIT is held by check 2 or 3 as well. -/
def execIdleExpiry (st : Stream) (s : State) : Host.Outcome State Fault Refusal :=
  .next
    (if idleExpired s st then
      let w := doom (Work.start s) st .idle
      settle { w with s := abortHeldOf w.s st .idle }
    else s)

/-- The waiting write of a stream whose conflict deadline has been reached (R46). -/
def conflictExpired (s : State) (st : Stream) : Option WaitRecord :=
  s.claims.waitList.find? fun r => r.write.stream == st && r.deadline ≤ s.now

/-- CONFLICT_EXPIRY (R46): the write leaves the wait list, its stream's group is doomed with CONFLICT, and it is answered
ABORTED(CONFLICT). -/
def execConflictExpiry (st : Stream) (s : State) : Host.Outcome State Fault Refusal :=
  .next
    (match conflictExpired s st with
    | none => s
    | some r => settle (refuseWrite (Work.start (leaveWaitList s st)) r.write .conflict))

end Sys2Proof.Machine
end

