-- ==== Sys2Proof/Machine/Dispatch.lean ====
section
/-! DEFINITION. The meaning of every command: one direct call for each row of spec/opcode_table.json. -/

namespace Sys2Proof.Machine

/-- A command's effect on everything but the queue. -/
def exec (i : Instr) (s : State) : Host.Outcome State Fault Refusal :=
  match i with
  | .hardReset pfwAsserted => Sys2Proof.Machine.execHardReset pfwAsserted s
  | .requestArrival r => Sys2Proof.Machine.execRequestArrival r s
  | .takeRead => Sys2Proof.Machine.execTakeRead s
  | .takeWrite => Sys2Proof.Machine.execTakeWrite s
  | .commit => Sys2Proof.Machine.execCommit s
  | .discard => Sys2Proof.Machine.execDiscard s
  | .responseSend => Sys2Proof.Machine.execResponseSend s
  | .idleExpiry st => Sys2Proof.Machine.execIdleExpiry st s
  | .conflictExpiry st => Sys2Proof.Machine.execConflictExpiry st s
  | .mediaIssue => Sys2Proof.Machine.execMediaIssue s
  | .mediaRetry t => Sys2Proof.Machine.execMediaRetry t s
  | .staleResponse t status => Sys2Proof.Machine.execStaleResponse t status s
  | .mediaTimeout t => Sys2Proof.Machine.execMediaTimeout t s
  | .homeReadReturn t data => Sys2Proof.Machine.execHomeReadReturn t data s
  | .homeReadFail t => Sys2Proof.Machine.execHomeReadFail t s
  | .postedWriteOk t => Sys2Proof.Machine.execPostedWriteOk t s
  | .postedWriteFail t => Sys2Proof.Machine.execPostedWriteFail t s
  | .journalLineOk t => Sys2Proof.Machine.execJournalLineOk t s
  | .journalLineFail t => Sys2Proof.Machine.execJournalLineFail t s
  | .commitLineOk t => Sys2Proof.Machine.execCommitLineOk t s
  | .commitLineFail t => Sys2Proof.Machine.execCommitLineFail t s
  | .homeWriteOk t => Sys2Proof.Machine.execHomeWriteOk t s
  | .homeWriteFail t => Sys2Proof.Machine.execHomeWriteFail t s
  | .checkpointOk t => Sys2Proof.Machine.execCheckpointOk t s
  | .checkpointFail t => Sys2Proof.Machine.execCheckpointFail t s
  | .formatLineOk t => Sys2Proof.Machine.execFormatLineOk t s
  | .formatLineFail t => Sys2Proof.Machine.execFormatLineFail t s
  | .relocLineOk t => Sys2Proof.Machine.execRelocLineOk t s
  | .relocLineFail t => Sys2Proof.Machine.execRelocLineFail t s
  | .retiringSbOk t => Sys2Proof.Machine.execRetiringSbOk t s
  | .retiringSbFail t => Sys2Proof.Machine.execRetiringSbFail t s
  | .restoringSbOk t => Sys2Proof.Machine.execRestoringSbOk t s
  | .restoringSbFail t => Sys2Proof.Machine.execRestoringSbFail t s
  | .superblockReadOk t data => Sys2Proof.Machine.execSuperblockReadOk t data s
  | .headerReadOk t data => Sys2Proof.Machine.execHeaderReadOk t data s
  | .recordReadOk t data => Sys2Proof.Machine.execRecordReadOk t data s
  | .replayWriteOk t => Sys2Proof.Machine.execReplayWriteOk t s
  | .recoveryMediaFail t => Sys2Proof.Machine.execRecoveryMediaFail t s
  | .linkResetAck => Sys2Proof.Machine.execLinkResetAck s
  | .linkResetTimeout => Sys2Proof.Machine.execLinkResetTimeout s
  | .pfwAssert => Sys2Proof.Machine.execPfwAssert s
  | .drainBudgetExpiry => Sys2Proof.Machine.execDrainBudgetExpiry s
  | .start => Sys2Proof.Machine.execStart s
  | .format => Sys2Proof.Machine.execFormat s
  | .restart => Sys2Proof.Machine.execRestart s
  | .resume pfwAsserted => Sys2Proof.Machine.execResume pfwAsserted s
  | .relocGo => Sys2Proof.Machine.execRelocGo s
  | .relocCancel => Sys2Proof.Machine.execRelocCancel s
  | .clearCounters => Sys2Proof.Machine.execClearCounters s
  | .unknownCommand value => Sys2Proof.Machine.execUnknownCommand value s
  | .relocRequest k hold => Sys2Proof.Machine.execRelocRequest k hold s
  | .eventFlagsClear value => Sys2Proof.Machine.execEventFlagsClear value s
  | .eventEnableWrite value => Sys2Proof.Machine.execEventEnableWrite value s
  | .idleTimeoutWrite value => Sys2Proof.Machine.execIdleTimeoutWrite value s
  | .read48Low r => Sys2Proof.Machine.execRead48Low r s
  | .registerWrite index value => Sys2Proof.Machine.execRegisterWrite index value s

end Sys2Proof.Machine
end

