-- ==== Sys2Proof/Machine/Step.lean ====
section
/-! DEFINITION. One step of the part: the command at the front of the queue, or one microsecond when none waits. -/

namespace Sys2Proof.Machine

/-- The queue of waiting commands becomes `cs`. -/
def State.withPending (s : State) (cs : List Instr) : State := { s with pending := cs }

/-- One step: the command at the front of the queue runs on the state with the queue's rest; an empty queue lets one
microsecond pass. -/
def step (s : State) : Host.Outcome State Fault Refusal :=
  match s.pending with
  | [] => .next (tick s)
  | c :: rest => exec c (s.withPending rest)

/-- `s` with the command that a word spells at the front of its queue; `s` itself where the word spells none. -/
def State.withFetchWord (s : State) (nbits w : Nat) : State :=
  match decodeTableWord nbits w with
  | none => s
  | some c => s.withPending (c :: s.pending)

end Sys2Proof.Machine
end

