-- ==== Sys2Proof/Machine/Spi.lean ====
section
/-! DEFINITION. Frames of the management port: which command a frame is, what MISO carries, and the frame's place at the front
of the queue (12_fabric_link_management_port_and_alerts.md R164). -/

namespace Sys2Proof.Machine

/-- The opcode of a read frame. -/
def readOpcode : Byte := 0x5C#8

/-- The opcode of a write frame. -/
def writeOpcode : Byte := 0xA3#8

/-- The command that a write of COMMAND is (12.4), with the level of PFW_N. -/
def commandOf (value : Word) (pfwAsserted : Bool) : Instr :=
  match value.toNat with
  | 1 => .start
  | 2 => .format
  | 3 => .restart
  | 4 => .resume pfwAsserted
  | 5 => .relocGo
  | 6 => .relocCancel
  | 7 => .clearCounters
  | _ => .unknownCommand value

/-- The command that a register write is. -/
def writeCommand (index : BitVec 8) (value : Word) (pfwAsserted : Bool) : Instr :=
  match index.toNat with
  | 0x02 => commandOf value pfwAsserted
  | 0x03 => .eventFlagsClear value
  | 0x04 => .eventEnableWrite value
  | 0x08 =>
    if value.getLsbD 9 then .relocRequest (value.setWidth 5) (value.getLsbD 8) else .registerWrite index value
  | 0x12 => .idleTimeoutWrite value
  | _ => .registerWrite index value

/-- The command that a register read is: only a low word of a 48-bit readout has an effect (R164, R165). -/
def readCommand (index : BitVec 8) : Option Instr :=
  match index.toNat with
  | 0x43 => some (.read48Low .applied)
  | 0x45 => some (.read48Low .durable)
  | 0x47 => some (.read48Low .nextSeq)
  | _ => none

/-- The value of bytes 2..5 of a write frame, most significant byte first. -/
def frameValue (b2 b3 b4 b5 : Byte) : Word := b2 ++ b3 ++ b4 ++ b5

/-- The command that the bytes of a frame are, when CS_N rises after them. A write needs all six bytes and a read two; an
unknown opcode is no command (R164). -/
def frameCommand (bytes : List Byte) (pfwAsserted : Bool) : Option Instr :=
  match bytes with
  | op :: index :: rest =>
    if op = readOpcode then readCommand index
    else if op = writeOpcode then
      match rest with
      | b2 :: b3 :: b4 :: b5 :: _ => some (writeCommand index (frameValue b2 b3 b4 b5) pfwAsserted)
      | _ => none
    else none
  | _ => none

/-- The four bytes of a value, most significant first. -/
def msbBytes (v : Word) : List Byte :=
  [v.extractLsb' 24 8, v.extractLsb' 16 8, v.extractLsb' 8 8, v.extractLsb' 0 8]

/-- The opcode and the register index of a frame: its bytes 0 and 1. -/
def frameHead (bytes : List Byte) : Byte × BitVec 8 := (bytes.getD 0 0#8, bytes.getD 1 0#8)

/-- The value that MISO shifts out in bytes 2..5 of a frame: the register's for a read, 0 for a write and for an unknown
opcode (R164). -/
def frameReadout (s : State) (bytes : List Byte) : Word :=
  if (frameHead bytes).1 = readOpcode then readRegister s (frameHead bytes).2 else 0

/-- What MISO carries in byte `i` of a frame: the value in bytes 2..5, and 00h before them and after byte 5 (R164). -/
def misoByte (v : Word) (i : Nat) : Byte := if 2 ≤ i then (msbBytes v).getD (i - 2) 0#8 else 0#8

/-- What MISO carries, byte for byte, in a frame of any length (R164). -/
def frameAnswer (s : State) (bytes : List Byte) : List Byte :=
  (List.range bytes.length).map (misoByte (frameReadout s bytes))

/-- A frame reads a register whose read has no effect on the register: opcode 5Ch and an index that is no low word of a 48-bit
readout, with the last bit of byte 1 sampled (R164). -/
def plainReadFrame (bytes : List Byte) : Bool :=
  2 ≤ bytes.length && (frameHead bytes).1 == readOpcode && (readCommand (frameHead bytes).2).isNone

/-- `s` with a whole frame sent to the management port: the command that the frame is stands at the front of the queue, so
that the very next step runs it; a register read that is no command puts its value on MISO at once; an abandoned frame and
one of an unknown opcode change nothing (R164). -/
def State.withFrame (s : State) (bytes : List Byte) (pfwAsserted : Bool) : State :=
  match frameCommand bytes pfwAsserted with
  | some c => s.withPending (c :: s.pending)
  | none =>
    if plainReadFrame bytes then
      { s with wires := { s.wires with misoOut := s.wires.misoOut ++ [frameReadout s bytes] } }
    else s

end Sys2Proof.Machine
end

