-- ==== Sys2Proof/Safety.lean ====
section
/-! DEFINITION. The vocabulary of the statements: what it is for a command to complete, and the laws that every step keeps. -/

namespace Sys2Proof.Machine

/-! ## Completion -/

/-- The command answers a next state with `P`. -/
def Completes (c : Instr) (s : State) (P : State → Prop) : Prop := ∃ t, exec c s = .next t ∧ P t

/-- The command answers the next state `t`. -/
def Answers (c : Instr) (s t : State) : Prop := exec c s = .next t

/-- The tag `t` is ISSUED and carries a request of `q`. -/
def Carries (s : State) (t : MediaTag) (q : Requester) : Prop := ∃ r, issuedAt s t = some r ∧ r.requester = q

/-- No guarded write is held, in the wait list or for a slot. -/
def NoneHeld (s : State) : Prop := s.claims.waitList = [] ∧ s.staging.slotWait = []

/-- The command of a take of a kind. -/
def takeCommand : RequestKind → Instr
  | .read => .takeRead
  | .write => .takeWrite
  | .commit => .commit
  | .discard => .discard

/-- The command of a failed outcome of a requester (R156). -/
def failCommand (t : MediaTag) : Requester → Instr
  | .homeRead _ => .homeReadFail t
  | .posted _ => .postedWriteFail t
  | .journalLine _ => .journalLineFail t
  | .commitLine => .commitLineFail t
  | .homeWrite _ => .homeWriteFail t
  | .checkpoint => .checkpointFail t
  | .formatLine => .formatLineFail t
  | .relocLine => .relocLineFail t
  | .retiringSb _ => .retiringSbFail t
  | .restoringSb _ => .restoringSbFail t
  | .superblockRead _ | .headerRead | .recordRead _ | .replayWrite _ => .recoveryMediaFail t

/-! ## The fabric port after a take -/

/-- The fabric port after stream `st`'s head has been taken and not yet answered (R160, R161). -/
def fabricTaken (s : State) (st : Stream) : Fabric :=
  { s.fabric with
    ingress := s.fabric.ingress.write st (ingressOf s st).tail
    credits := s.fabric.credits.write st (s.fabric.credits.read st + 1)
    pointer := st + 1
    takeSerial := s.fabric.takeSerial + 1
    takenUnanswered := s.fabric.takenUnanswered + 1 }

/-- The fabric port after stream `st`'s head has been taken and answered in the same event. -/
def fabricAnswered (s : State) (st : Stream) (r : Response) : Fabric :=
  { fabricTaken s st with
    takenUnanswered := s.fabric.takenUnanswered
    egress := s.fabric.egress ++ [r] }

/-- The channels after a take: one credit is signalled for the stream (R159). -/
def creditSignalled (s : State) (st : Stream) : Wires :=
  { s.wires with fabricOut := s.wires.fabricOut ++ [.credit st] }

/-- The fabric port after the answer to a request taken earlier (R160). -/
def fabricReplied (s : State) (r : Response) : Fabric :=
  { s.fabric with egress := s.fabric.egress ++ [r], takenUnanswered := s.fabric.takenUnanswered - 1 }

/-- Requests without the one that a tag carries (R154). -/
def requestsWithout (s : State) (t : MediaTag) : List MediaReq := s.media.requests.filter fun r => r.tag? != some t

/-- The registers with a flag set (R166). -/
def flagged (r : Regs) (f : EventFlag) : Regs := { r with flags := r.flags ||| f.bit }

/-- The registers after one group has been counted as aborted (R4). -/
def abortCounted (r : Regs) : Regs := flagged { r with abortedCount := r.abortedCount + 1 } .abort

/-- The buffer after the versions in slots `nums` have been aborted: an unpinned slot is FREE, a pinned one is ABORTED without
an owner, and all leave the line index (R5, R28, R36). -/
def stagingAborted (g : Staging) (nums : List Nat) : Staging :=
  { g with
    slots := g.slots.filterMap fun v =>
      if v.num ∈ nums then
        if v.pins = 0 then none else some { v with state := .aborted, owner := none }
      else some v
    index := g.index.filter fun x => x.slot ∉ nums }

/-! ## Held writes that go on (R34, R47, R48) -/

/-- The version that a held write makes in the FREE slot `c` (R30). -/
def stagedSlot (h : HeldWrite) (c : Nat) : Slot where
  num := c
  state := .opened
  line := h.line
  mask := byteMask h.offset h.length
  data := placeBytes h.offset h.data
  owner := some (.record h.stream)
  pins := 0

/-- The buffer with that version at the end of its line's list (R27, R30). -/
def stagingStaged (g : Staging) (h : HeldWrite) (c : Nat) : Staging :=
  { g with slots := insertSlot (stagedSlot h c) g.slots, index := g.index ++ [{ line := h.line, slot := c }] }

/-- The write's group record with that slot, its idle deadline restarted in whole milliseconds (R2, R8, log 3). -/
def recordStaged (s : State) (h : HeldWrite) (c : Nat) : GroupRecord :=
  let deadline := fun old => if s.regs.idleTimeout = 0 then old else some (s.now / 1000 + s.regs.idleTimeout)
  match recordOf s h.stream with
  | .opened ns old => .opened (ns ++ [c]) (deadline old)
  | .absent | .doomed _ => .opened [c] (deadline none)

/-- The answer of a staged write (R3). -/
def stagedAnswer (h : HeldWrite) : Response := plainAnswer h.stream h.tag .staged

/-- The lines of slots, as a release list names them (R47). -/
def linesReleased (s : State) (ns : List Nat) : List Addr := ns.filterMap fun n => (slotAt s n).map Slot.line

/-- In `s`, whose versions stand as in `a` after an event has released claims on `lines`, the wait list's first write `r` is
for a released line that nobody claims now, passes the checks of R3 and finds the FREE slot `c`; every other waiting write
`rs` is for that line or for no released one (R47, R48). -/
structure Released (s a : State) (lines : List Addr) (r : WaitRecord) (rs : List WaitRecord) (c : Nat) : Prop where
  list : s.claims.waitList = r :: rs
  line : r.write.line ∈ lines
  unclaimed : claimant a r.write.line = none
  others : ∀ x ∈ rs, x.write.stream ≠ r.write.stream ∧ (x.write.line = r.write.line ∨ x.write.line ∉ lines)
  record : isDoomed s r.write.stream = false ∧ groupFull s r.write.stream = false
  quota : openSlots a < 768
  slot : freeSlot? a = some c

/-- In `s`, whose slots stand as in `a` after an event has made the slot `c` FREE and no other, every slot waiter passes the
checks of R3 up to the FREE slot: `h` is the first, `hs` the others, for other lines; no waiting write is for one of the
lines that the event released (R34). -/
structure Woken (s a : State) (lines : List Addr) (h : HeldWrite) (hs : List HeldWrite) (c : Nat) : Prop where
  list : s.staging.slotWait = h :: hs
  noRelease : ∀ r ∈ s.claims.waitList, r.write.line ∉ lines
  freed : a.staging.slots.length < s.staging.slots.length
  others : ∀ x ∈ hs, x.stream ≠ h.stream ∧ x.line ≠ h.line
  checks : ∀ x ∈ h :: hs, (claimant a x.line = none ∨ claimant a x.line = some x.stream)
    ∧ openVersion a x.stream x.line = none ∧ isDoomed s x.stream = false ∧ groupFull s x.stream = false
  quota : openSlots a < 767
  slot : freeSlot? a = some c
  unlisted : ∀ e ∈ a.staging.index, e.slot ≠ c
  last : ∀ n, n < 1024 → isFree a n = true → n = c

/-! ## FAULTED and HALTED -/

/-- A cause of FAULTED is this command in this state (R158). -/
def Fatal (c : Instr) (s : State) : Prop :=
  match c with
  | .mediaTimeout t => ∃ r ∈ s.media.requests, ∃ n d, r.state = .issued t n d ∧ d ≤ s.now
  | .commitLineFail t => Carries s t .commitLine
  | .homeWriteFail t => ∃ n, Carries s t (.homeWrite n)
  | .checkpointFail t => Carries s t .checkpoint ∧ (s.modes.mode = .recovering ∨ 2 ≤ s.ckpt.errors)
  | .restoringSbFail t => (∃ x, Carries s t (.restoringSb x)) ∧ ∃ y, s.reloc.state = .retiringOld y
  | .recoveryMediaFail t =>
    (∃ i, Carries s t (.replayWrite i))
      ∨ s.modes.mode = .recovering ∧ ∃ q, Carries s t q ∧ (q.isRecovery = true ∨ q = .checkpoint)
  | .linkResetTimeout => ∃ d, s.media.linkDeadline = some d ∧ d ≤ s.now
  | _ => False

/-- The configuration registers whose writes are checked against a range (R165). -/
def Regs.config (r : Regs) : List Nat :=
  [r.groupLimit, r.conflictTimeout, r.idleTimeout, r.mediaTimeout, r.retryLimit, r.drainBudget, r.arbQuota,
    r.ckptInterval]

/-! ## The answers that an end of the part's work owes -/

/-- Every held write's ABORTED (R21 step 3): the wait list in arrival order, then the slot-wait list. That order is the model's
choice (log 8): R21 does not give one. -/
def heldAnswers (s : State) (reason : Reason) : List Response :=
  (s.claims.waitList.map WaitRecord.write ++ s.staging.slotWait).map fun h => abortedAnswer h.stream h.tag reason

/-- The end of the JOURNALING entry: INDOUBT when its commit line is outstanding among the requests `rs`, else ABORTED (R21
step 4, R146 step 2). -/
def writerAnswer (rs : List MediaReq) (reason : Reason) (e : Entry) : Response :=
  if rs.any fun r => r.requester == .commitLine && r.outstanding then plainAnswer e.stream e.tag .indoubt
  else abortedAnswer e.stream e.tag reason

/-- The end of a SEALED or JOURNALING entry in a mass abort (R21 step 4). -/
def endedAnswer (rs : List MediaReq) (reason : Reason) (e : Entry) : List Response :=
  match e.state with
  | .sealed => [abortedAnswer e.stream e.tag reason]
  | .journaling => [writerAnswer rs reason e]
  | .durable | .applying => []

/-- The end of a DURABLE or APPLYING entry: COMMITTED with the plain-loss flag, unless it has been answered (R22). -/
def owedAnswer (e : Entry) : List Response :=
  match e.state with
  | .sealed | .journaling => []
  | .durable | .applying => if e.answered then [] else [committedAnswer e.stream e.tag true]

/-- The answers that RESTART and entry to FAULTED owe for the entries `es`, the commit line judged by the requests `rs`: held
writes, SEALED and JOURNALING entries, DURABLE and APPLYING ones, then reads (R21, R22, R82, R158). Among the held writes, among
the DURABLE and APPLYING entries and among the reads the order is the model's choice (log 8). -/
def closingAnswers (s : State) (rs : List MediaReq) (es : List Entry) (reason : Reason) (status : Status) : List Response :=
  heldAnswers s reason ++ es.flatMap (endedAnswer rs reason) ++ es.flatMap owedAnswer
    ++ s.reads.map fun e => plainAnswer e.stream e.tag status

/-- No two entries of the commit queue have the same take serial (R65: the serials of what the part holds are distinct). -/
def SerialsDistinct (s : State) : Prop := (s.groups.queue.map Entry.serial).Nodup

/-- Every request left in an ingress queue has its answer, `status` unless it had one, after `front` has entered the egress
queue: each stream's answers enter in order and return their credits, and only answered entries with no room stay (R162). -/
structure QueuesAnswered (s t : State) (front : List Response) (status : Status) : Prop where
  entered : ∃ answers, t.fabric.egress = s.fabric.egress ++ front ++ answers
    ∧ ∀ st, (answers.filter fun r => r.stream == st)
        ++ (ingressOf t st).map (fun e => plainAnswer st e.req.tag (e.answer.getD status))
      = (ingressOf s st).map fun e => plainAnswer st e.req.tag (e.answer.getD status)
  answered : ∀ st, ∀ e ∈ ingressOf t st, e.answer.isSome = true
  credits : ∀ st, (ingressOf t st).length + t.fabric.credits.read st
    = (ingressOf s st).length + s.fabric.credits.read st
  taken : t.fabric.takenUnanswered = s.fabric.takenUnanswered - front.length
  settled : (∀ st, ingressOf t st = []) ∨ 128 - t.fabric.egress.length ≤ t.fabric.takenUnanswered

/-- What FAULTED is entered with, whatever the cause (R158). -/
structure FaultedFrom (s t : State) : Prop where
  mode : t.modes.mode = .faulted
  flag : flagSet t .fault = true
  groups : t.groups.queue = [] ∧ ∀ st, recordOf t st = .absent
  held : NoneHeld t
  staging : t.staging = Staging.reset
  reads : t.reads = []
  posted : t.posted.records = []
  faultLoss : t.drain.faultLoss = (s.drain.faultLoss || !s.posted.records.isEmpty)
  journal : t.journal = { s.journal with writer := .idle }
  apply : t.apply = Apply.reset
  ckpt : t.ckpt.inFlight = none ∧ t.ckpt.trigger = false
  runs : t.recovery = none ∧ t.format = none
  reloc : t.reloc.state = .none ∧ t.decoder.guardTarget = if s.reloc.state = .none then s.decoder.guardTarget else none
  requests : t.media.requests = []
  link : t.media.linkOwed = true ∧ t.media.linkDeadline = none
  config : t.regs.config = s.regs.config
  start : t.modes.startStatus =
    if s.modes.mode = .recovering ∨ s.modes.mode = .formatting then .mediaFault else s.modes.startStatus
  recoveryDone : s.modes.mode = .recovering → flagSet t .recoveryDone = true
  egress : s.fabric.egress <+: t.fabric.egress

/-- The requests that are left when the outcome of a cause of FAULTED has freed its tag (R154). -/
def requestsAtFault (c : Instr) (s : State) : List MediaReq :=
  match c with
  | .commitLineFail t | .homeWriteFail t | .checkpointFail t | .restoringSbFail t | .recoveryMediaFail t =>
    requestsWithout s t
  | _ => s.media.requests

/-- The entry that a failed commit line ends before FAULTED is entered (R15, R100). -/
def endedBefore (c : Instr) (s : State) : Option Entry :=
  match c with
  | .commitLineFail _ => s.groups.queue.find? fun e => e.state == .journaling
  | _ => none

/-- The answers of an entry to FAULTED by the cause `c`, in their order (R100, R158). -/
def answersAtFault (c : Instr) (s : State) : List Response :=
  ((endedBefore c s).toList.map fun e => plainAnswer e.stream e.tag .indoubt)
    ++ closingAnswers s (requestsAtFault c s)
      (s.groups.queue.filter fun e => (endedBefore c s).all fun x => e.serial != x.serial) .fault .portDown

/-- What HALTED is entered with, whatever the cause, after the answers `front` (R147). -/
structure HaltedWith (s t : State) (status : DrainStatus) (front : List Response) : Prop where
  mode : t.modes.mode = .halted
  drain : t.drain.status = status ∧ t.drain.deadline = none ∧ t.drain.doneOut = true
  flag : flagSet t .drainDone = true
  groups : t.groups = Groups.reset
  staging : t.staging = Staging.reset
  reads : t.reads = []
  writer : t.journal.writer = .idle
  apply : t.apply = Apply.reset
  ckpt : t.ckpt.inFlight = none ∧ t.ckpt.trigger = false
  config : t.regs.config = s.regs.config
  queues : QueuesAnswered s t front .powerfail

/-- The COMMITTED that HALTED entry owes (R22, R147 step 1), in queue order across streams too (the model's choice, log 8). -/
def owedAtHalt (s : State) : List Response := s.groups.queue.flatMap owedAnswer

/-! ## The course of a drain -/

/-- A trigger has been raised with nothing in flight: a checkpoint has begun, with the values of that event (R110, R111). -/
def checkpointBegun (a : State) : State :=
  let sb : Superblock :=
    { base := a.journal.region.base, counter := a.ckpt.counter + 1, applied := a.journal.appliedThrough,
      nextSeq := a.journal.nextSeq, relocBase := 0, tail := a.journal.retiredTail,
      k := a.journal.region.k.setWidth 8, relocK := 0, retired := false }
  { a with
    ckpt := { a.ckpt with inFlight := some { sb, span := a.journal.retiredSpan } }
    media :=
      { a.media with
        requests := a.media.requests
          ++ [{ requester := .checkpoint, line := a.journal.region.slotAddr a.ckpt.nextSlot,
                write := some (BitVec.allOnes 64, superblockLine sb), state := .ready }] } }

/-- The final drain trigger has been raised with nothing in flight: the final checkpoint has begun (R111, R145). -/
def finalCheckpointBegun (a : State) : State := checkpointBegun { a with drain := { a.drain with finalRaised := true } }

/-- In DRAINING, a command whose own effect is `a` goes on to what the drain's completion conditions give in `a` (R145): for
origin READY the final checkpoint when nothing is left, for origin RECOVERING HALTED with COMPLETE. -/
def DrainsTo (c : Instr) (s a : State) : Prop :=
  let left := a.journal.writer ≠ .idle ∨ a.posted.records ≠ [] ∨ a.reads ≠ [] ∨ a.media.requests ≠ []
  (s.drain.origin = some .ready → left → Answers c s a)
    ∧ (s.drain.origin = some .ready → ¬left → a.ckpt.inFlight = none → Answers c s (finalCheckpointBegun a))
    ∧ (s.drain.origin = some .recovering → (a.media.requests ≠ [] ∨ a.media.linkOwed = true) → Answers c s a)
    ∧ (s.drain.origin = some .recovering → a.media.requests = [] → a.media.linkOwed = false →
      Completes c s fun t => HaltedWith a t .complete (owedAtHalt a))

/-! ## A relocation in PENDING, the writer and the apply engine going on -/

/-- With a relocation in PENDING, a command whose own effect `a` may empty the commit queue goes on to the relocation trigger: it
begins a checkpoint, or is kept while one is in flight (R110, R135). -/
def EmptiesTo (c : Instr) (s a : State) : Prop :=
  (a.groups.queue ≠ [] → Answers c s a)
    ∧ (a.groups.queue = [] → a.ckpt.inFlight = none → Answers c s (checkpointBegun a))
    ∧ (a.groups.queue = [] → a.ckpt.inFlight.isSome = true →
      Answers c s { a with ckpt := { a.ckpt with trigger := true } })

/-- The lines of an entry's group: the address, mask and data of each slot, in slot-list order (R86). -/
def linesOfEntry (s : State) (e : Entry) : List (Addr × Mask × Line) :=
  e.slots.filterMap fun n => (slotAt s n).map fun v => (v.line, v.mask, v.data)

/-- The home writes of an entry: one for each slot, with its line, mask and data, in slot-list order (R104, R105). -/
def homeWritesOf (s : State) (e : Entry) : List MediaReq :=
  e.slots.filterMap fun n => (slotAt s n).map fun v =>
    { requester := .homeWrite v.num, line := v.line, write := some (v.mask, v.data), state := .ready }

/-- The oldest entry with slots that meets `p`. -/
def oldestWith (s : State) (p : Entry → Bool) : Option Entry := s.groups.queue.find? fun e => !e.slots.isEmpty && p e

/-- In `t` the apply engine has begun the entry `d` of `s`: the entry and its slots are APPLYING, it is the current entry, its
slot list is the outstanding set, and its home writes have been handed over last (R104, R105). -/
structure ApplyBegun (s t : State) (d : Entry) : Prop where
  engine : t.apply = { current := some d.serial, outstanding := d.slots, withdrawn := false }
  entry : ∃ y ∈ t.groups.queue, y.serial = d.serial ∧ y.state = .applying ∧ y.slots = d.slots
  slots : ∀ v ∈ t.staging.slots, v.num ∈ d.slots → v.state = .applying
  writes : homeWritesOf s d <:+ t.media.requests

/-- In `t` the journal writer has begun the entry `d` of `s` with the sequence `seq`, the start offset `start` and `used` lines of
ring in use, after the requests `front`: the entry and its slots are JOURNALING; a record that fits has its lines handed over in
record order; for one that does not, the writer waits for space, JOURNAL_LOW is set, and a checkpoint is in flight when the
tails differ (R14, R95, R96, R97). -/
structure JournalBegun (s t : State) (d : Entry) (seq : Seq) (start used : Nat) (front : List MediaReq) : Prop where
  entry : ∃ y ∈ t.groups.queue, y.serial = d.serial ∧ y.state = .journaling ∧ y.slots = d.slots ∧ y.seq = some seq
    ∧ y.extent = some { start, length := d.slots.length + (d.slots.length + 3) / 4 + 2 }
  slots : ∀ v ∈ t.staging.slots, v.num ∈ d.slots → v.state = .journaling
  fitting : d.slots.length + (d.slots.length + 3) / 4 + 2 ≤ s.journal.region.ringLength - used →
    t.journal.writer = .writing false
      ∧ front ++ lineRequests s.journal.region start 0 (recordBody d.stream seq (linesOfEntry s d)) <+: t.media.requests
  waiting : s.journal.region.ringLength - used < d.slots.length + (d.slots.length + 3) / 4 + 2 →
    t.journal.writer = .waitingSpace ∧ flagSet t .journalLow = true
      ∧ (0 < s.journal.retiredSpan → t.ckpt.inFlight.isSome = true)

/-! ## Laws -/

/-- Credits: a stream's entries and its credits are together eight (R159). -/
def CreditLaw (s : State) : Prop :=
  ∀ st : Stream, (ingressOf s st).length + s.fabric.credits.read st = Config.ingressDepth

/-- The same-line rule: two outstanding requests to one line are both reads (R152). -/
def SameLineLaw (s : State) : Prop :=
  s.media.requests.Pairwise fun q r =>
    q.outstanding = true → r.outstanding = true → q.line = r.line → q.isRead = true ∧ r.isRead = true

/-- Tags: a tag carries one request (R151). -/
def TagLaw (s : State) : Prop :=
  s.media.requests.Pairwise fun q r => ∀ t, q.tag? = some t → r.tag? ≠ some t

/-- Staging bounds: slot numbers rise and are below 1024, and at most 768 slots are OPEN (R23, R25, R32). -/
def StagingLaw (s : State) : Prop :=
  (s.staging.slots.map Slot.num).Pairwise (· < ·) ∧ (∀ v ∈ s.staging.slots, v.num < Config.slotCount)
    ∧ openSlots s ≤ Config.openQuota

/-- Depths: the commit queue, the posted write queue and the read tracker hold at most what they have room for (R10, R61,
R70). -/
def DepthLaw (s : State) : Prop :=
  s.groups.queue.length ≤ Config.commitDepth ∧ s.posted.records.length ≤ Config.postedDepth
    ∧ s.reads.length ≤ Config.trackerDepth

/-- Ranges: every configuration register that has a range holds a value of it (R7, R8, R45, R115, R141, R153 to R155, R165). -/
def RangeLaw (s : State) : Prop :=
  (1 ≤ s.regs.groupLimit ∧ s.regs.groupLimit ≤ 256) ∧ (1 ≤ s.regs.conflictTimeout ∧ s.regs.conflictTimeout ≤ 65535)
    ∧ s.regs.idleTimeout ≤ 65535 ∧ (1 ≤ s.regs.mediaTimeout ∧ s.regs.mediaTimeout ≤ 4095) ∧ s.regs.retryLimit ≤ 15
    ∧ (1 ≤ s.regs.drainBudget ∧ s.regs.drainBudget ≤ 65535) ∧ (2 ≤ s.regs.arbQuota ∧ s.regs.arbQuota ≤ 16)
    ∧ (1 ≤ s.regs.ckptInterval ∧ s.regs.ckptInterval ≤ 64)

/-- Held writes: no stream has two writes held, so that the wait list has at most 16 records (R43, R160). -/
def HeldLaw (s : State) : Prop := ((heldWrites s).map HeldWrite.stream).Nodup

/-- The law of slot freeing: a SPENT or ABORTED slot that is not FREE is pinned (R36). -/
def FreeingLaw (s : State) : Prop :=
  ∀ v ∈ s.staging.slots, (v.state = .spent ∨ v.state = .aborted) → 0 < v.pins

/-! ## The laws that hold together -/

/-- The serial of the next take is that of no request the part still holds (R65). -/
def FreshSerial (s : State) : Prop :=
  (∀ e ∈ s.groups.queue, e.serial ≠ s.fabric.takeSerial + 1) ∧ ∀ e ∈ s.reads, e.serial ≠ s.fabric.takeSerial + 1

/-- What runs in which mode: a recovery, a format and its lines each in its own (R116, R120, R124); a home write has been
withdrawn only in DRAINING (R108); a relocation in progress stands in READY, and past PENDING with an empty commit queue
(R135, R140). -/
def ModeLaw (s : State) : Prop :=
  (s.recovery.isSome → s.modes.mode = .recovering) ∧ (s.format.isSome → s.modes.mode = .formatting)
    ∧ (anyRequest s Requester.isFormat = true → s.modes.mode = .formatting)
    ∧ (s.apply.withdrawn = true → s.modes.mode = .draining)
    ∧ (s.reloc.state ≠ .none → s.modes.mode = .ready)
    ∧ (s.reloc.state ≠ .none → s.reloc.state ≠ .pending → s.groups.queue = [])

/-- What the part holds in which mode: held writes and group records in READY alone (R21, R161); slots, entries and reads in
READY, and in DRAINING from READY, there with no SEALED entry (R21, R143) and after the final trigger with the writer idle,
no read and no request but a checkpoint's (R145); the scratch without a slot beside it, in RECOVERING and in DRAINING (R37). -/
def ContentsLaw (s : State) : Prop :=
  (s.modes.mode ≠ .ready → NoneHeld s ∧ ∀ st, recordOf s st = .absent)
    ∧ (s.modes.mode ≠ .ready → (s.modes.mode = .draining → s.drain.origin ≠ some .ready) →
      s.staging.slots = [] ∧ s.groups.queue = [] ∧ s.reads = [])
    ∧ (s.modes.mode = .draining → ∀ e ∈ s.groups.queue, e.state ≠ .sealed)
    ∧ (s.modes.mode = .draining → s.drain.finalRaised = true →
      s.journal.writer = .idle ∧ s.reads = [] ∧ ∀ r ∈ s.media.requests, r.requester = .checkpoint)
    ∧ (s.staging.scratch.isSome → s.staging.slots = [] ∧ (s.modes.mode = .recovering ∨ s.modes.mode = .draining))

/-- Entries of the commit queue that are owed an answer. -/
def owedEntries (s : State) : Nat := s.groups.queue.countP fun e => !e.answered

/-- One response for each request, and room for it: the taken-unanswered count is that of the held writes, the reads and the
entries without an answer, each named once, and the egress queue has room for all their answers (R65, R160, R163). -/
def ResponseLaw (s : State) : Prop :=
  SerialsDistinct s ∧ (s.reads.map TrackerEntry.serial).Nodup
    ∧ (∀ e ∈ s.groups.queue, e.state = .sealed ∨ e.state = .journaling → e.answered = false)
    ∧ s.fabric.takenUnanswered = (heldWrites s).length + s.reads.length + owedEntries s
    ∧ s.fabric.egress.length + s.fabric.takenUnanswered ≤ Config.egressDepth

/-- The slot state of an entry's slots (R14, R16). -/
def QueueState.slotState : QueueState → SlotState
  | .sealed => .sealed
  | .journaling => .journaling
  | .durable => .durable
  | .applying => .applying

/-- An entry owns a slot: they name each other, and the slot's state is the entry's (R10, R23). -/
def Entry.owns (e : Entry) (v : Slot) : Prop :=
  v.owner = some (.entry e.stream e.serial) ∧ v.state = e.state.slotState ∧ v.num ∈ e.slots

/-- A record owns a slot: they name each other, and the slot is OPEN (R1, R23). -/
def RecordOwns (s : State) (st : Stream) (v : Slot) : Prop :=
  v.owner = some (.record st) ∧ v.state = .opened ∧ v.num ∈ (recordOf s st).slots

/-- Owners: every slot of an open group is OPEN and owned by it, every slot of an entry not yet APPLYING is in its state and
owned by it, and every version in a group has such an owner (R1, R10, R14, R16, R23). -/
def OwnerLaw (s : State) : Prop :=
  (∀ st, (recordOf s st).slots.Nodup ∧ ∀ n ∈ (recordOf s st).slots, ∃ v ∈ s.staging.slots, v.num = n ∧ RecordOwns s st v)
    ∧ (∀ e ∈ s.groups.queue, e.slots.Nodup
      ∧ (e.state ≠ .applying → ∀ n ∈ e.slots, ∃ v ∈ s.staging.slots, v.num = n ∧ e.owns v))
    ∧ ∀ v ∈ s.staging.slots,
      if v.state = .spent ∨ v.state = .aborted then v.owner = none
      else (∃ st : Stream, RecordOwns s st v) ∨ ∃ e ∈ s.groups.queue, e.homeDone = false ∧ e.owns v

/-- The line index: it lists every version in a group once, under its line, and nothing else (R26 to R28). -/
def IndexLaw (s : State) : Prop :=
  (s.staging.index.map IndexEntry.slot).Nodup
    ∧ (∀ x ∈ s.staging.index, ∃ v ∈ s.staging.slots,
      v.num = x.slot ∧ v.line = x.line ∧ v.state ≠ .spent ∧ v.state ≠ .aborted)
    ∧ ∀ v ∈ s.staging.slots, v.state ≠ .spent → v.state ≠ .aborted → { line := v.line, slot := v.num } ∈ s.staging.index

/-- The law of one stream per line: the OPEN, SEALED and JOURNALING versions of a line belong to one stream (R39). -/
def ClaimLaw (s : State) : Prop :=
  ∀ v ∈ s.staging.slots, ∀ w ∈ s.staging.slots, v.state.claims = true → w.state.claims = true → v.line = w.line →
    v.claimant? = w.claimant?

/-- The slots whose home writes are at the port. -/
def homeSlots (s : State) : List Nat :=
  s.media.requests.filterMap fun r => match r.requester with | .homeWrite n => some n | _ => none

/-- Home writes: each is for an APPLYING slot, one for each; the active engine's entry is in the queue, APPLYING, with home
writes to come, and no other entry is, nor any while the engine is IDLE in READY; the engine that has withdrawn none counts
every APPLYING slot of its group outstanding (R103 to R108). -/
def HomeLaw (s : State) : Prop :=
  (homeSlots s).Nodup ∧ (∀ n ∈ homeSlots s, ∃ v ∈ s.staging.slots, v.num = n ∧ v.state = .applying)
    ∧ (s.apply.current = none ∨ ∃ e ∈ s.groups.queue,
      s.apply.current = some e.serial ∧ e.state = .applying ∧ e.slots ≠ [] ∧ e.homeDone = false)
    ∧ (s.groups.queue.countP fun e => e.state == .applying && !e.homeDone) ≤ 1
    ∧ (s.modes.mode = .ready → s.apply.current = none → ∀ e ∈ s.groups.queue, e.state = .applying → e.homeDone = true)
    ∧ (s.apply.withdrawn = false → ∀ e ∈ s.groups.queue, s.apply.current = some e.serial →
      ∀ v ∈ s.staging.slots, v.state = .applying → e.owns v → v.num ∈ s.apply.outstanding)

/-- The writer's group and its lines: an entry is JOURNALING exactly when the writer is not IDLE, and only one; its lines are at
the port while the writer is in WRITING, and the commit line, one at most, when none of them has failed and none is left
(R94, R97, R99). -/
def WriterLaw (s : State) : Prop :=
  (s.groups.queue.countP fun e => e.state == .journaling) = (if s.journal.writer = .idle then 0 else 1)
    ∧ (anyRequest s Requester.isJournalLine = true →
      (∃ failed, s.journal.writer = .writing failed) ∧ anyRequest s (· == .commitLine) = false)
    ∧ (anyRequest s (· == .commitLine) = true → s.journal.writer = .writing false)
    ∧ (s.media.requests.countP fun r => r.requester == .commitLine) ≤ 1

/-- The pin law (R35): a slot's pin count is the number of tracker entries that list it; an entry lists a slot once, and only
slots that are not FREE. -/
def PinLaw (s : State) : Prop :=
  (∀ e ∈ s.reads, e.pinned.Nodup ∧ ∀ n ∈ e.pinned, ∃ v ∈ s.staging.slots, v.num = n)
    ∧ ∀ v ∈ s.staging.slots, v.pins = s.reads.countP fun e => e.pinned.contains v.num

/-- How far an entry has come: SEALED, JOURNALING, DURABLE, APPLYING. -/
def QueueState.rank : QueueState → Nat
  | .sealed => 0
  | .journaling => 1
  | .durable => 2
  | .applying => 3

/-- The durable groups that are not yet home, in queue order. -/
def unappliedEntries (s : State) : List Entry :=
  s.groups.queue.filter fun e => (e.state == .durable || e.state == .applying) && !e.slots.isEmpty && !e.homeDone

/-- A journal is in use: in READY, in DRAINING from READY and in phase FINAL of a recovery. -/
def JournalInUse (s : State) : Prop :=
  s.modes.mode = .ready ∨ (s.modes.mode = .draining ∧ s.drain.origin = some .ready) ∨ inFinal s = true

/-- The law of sequence order (R91): next sequence is durable-through plus one, and at most 32 durable groups are not yet home.
Groups go through the queue in order, the JOURNALING one has next sequence, and the durable groups that are not yet home carry
the consecutive sequences after applied-through, up to durable-through while the journal is in use. -/
def SequenceLaw (s : State) : Prop :=
  s.journal.nextSeq = s.journal.durableThrough + 1
    ∧ (s.journal.durableThrough - s.journal.appliedThrough).toNat ≤ Config.commitDepth
    ∧ (s.groups.queue.filter fun e => !e.slots.isEmpty).Pairwise (fun e f => f.state.rank ≤ e.state.rank)
    ∧ (∀ e ∈ s.groups.queue, e.state = .journaling → e.slots ≠ [] ∧ e.seq = some s.journal.nextSeq)
    ∧ (∀ e ∈ s.groups.queue, e.homeDone = true → e.state = .applying)
    ∧ (∀ x ∈ (unappliedEntries s).zipIdx, x.1.seq = some (s.journal.appliedThrough + 1 + BitVec.ofNat 48 x.2))
    ∧ (JournalInUse s →
      s.journal.durableThrough = s.journal.appliedThrough + BitVec.ofNat 48 (unappliedEntries s).length)

/-- A relocation's target (R57, R134): it is guarded while the relocation is in progress; its lines are at the port in
FORMATTING_NEW and in DRAINING; and while the relocation is in progress they are there only when every plain write posted to the
target has been issued. R134 orders such a write before the clearing of its own line; that all the lines wait for it is the
model's choice (log 34). -/
def TargetLaw (s : State) : Prop :=
  (s.reloc.state ≠ .none → s.decoder.guardTarget = some s.reloc.target)
    ∧ (anyRequest s Requester.isRelocLine = true →
      (∃ stage failed, s.reloc.state = .formattingNew stage failed)
        ∨ s.modes.mode = .draining)
    ∧ (s.reloc.state ≠ .none → anyRequest s Requester.isRelocLine = true →
      ∀ p ∈ s.posted.records, p.issued = false → s.reloc.target.contains p.line = false)

/-- The law of journal space: while a journal is in use, used never exceeds R, and the record that is being written fits in the
free space (R93, R96). -/
def SpaceLaw (s : State) : Prop :=
  JournalInUse s →
    s.journal.used ≤ s.journal.region.ringLength
      ∧ ∀ failed, s.journal.writer = .writing failed → ∀ e ∈ s.groups.queue, e.state = .journaling →
        s.journal.used + (extentOf s e).length ≤ s.journal.region.ringLength

/-- The laws that hold together: each step needs the others to keep one of them. -/
def SharedLaws (s : State) : Prop :=
  StagingLaw s ∧ HeldLaw s ∧ FreeingLaw s ∧ ModeLaw s ∧ ContentsLaw s ∧ ResponseLaw s ∧ OwnerLaw s ∧ IndexLaw s
    ∧ ClaimLaw s ∧ HomeLaw s ∧ WriterLaw s ∧ SpaceLaw s ∧ PinLaw s ∧ SequenceLaw s ∧ TargetLaw s

end Sys2Proof.Machine
end

