-- ==== Sys2Proof/Certificates/Slice0/Obligations.lean ====
section
/-! DEFINITION. The statements for the provers, from the numbered rules of spec/. -/

open Sys2Proof Sys2Proof.Machine

/-! ## The machine -/

/-- A step with a command at the front of the queue is that command's effect on the state with the queue's rest. The
model's own choice (log 2): with no command waiting, a step lets one microsecond pass and changes nothing else. -/
def Obligations.StepRunsFrontCommandOrPassesTime : Prop :=
  (∀ (c : Instr) (rest : List Instr) (s : State), step (s.withPending (c :: rest)) = exec c (s.withPending rest))
    ∧ (∀ s : State, s.pending = [] → step s = .next { s with now := s.now + 1 })

/-- Every command answers a next state in every state: the part has no fault and no refusal of a step. No command
touches the queue, and none but HARD_RESET touches the clock (the model's own fields, logs 1, 2, 20). -/
def Obligations.EveryCommandAnswersAndKeepsTheQueue : Prop :=
  (∀ (c : Instr) (s : State), Completes c s fun _ => True)
    ∧ (∀ (c : Instr) (s t : State), exec c s = .next t →
      t.pending = s.pending ∧ ((∀ b, c ≠ .hardReset b) → t.now = s.now))

/-! ## Reset -/

/-- The values that the spec gives for hard reset, item by item and as the registers read (R165), with eight credits
signalled for each stream (R159; that the list of what has been signalled starts there is the model's choice, log
17). -/
def Obligations.ResetLeavesSpecValues : Prop :=
  let s := State.reset
  (s.modes.mode = .idle ∧ s.modes.startStatus = .none ∧ s.modes.lastCommand = .none)
    ∧ (∀ st, ingressOf s st = [] ∧ s.fabric.credits.read st = 8 ∧ recordOf s st = .absent ∧ lossMark s st = false)
    ∧ (s.fabric.egress = [] ∧ s.fabric.takenUnanswered = 0 ∧ s.fabric.pointer = 0 ∧ s.fabric.takeSerial = 0)
    ∧ (s.decoder.defaultKind = .deny ∧ (∀ w ∈ s.decoder.table.toList,
        w = { enabled := false, base := 0, limit := 0, kind := .plain, mask := 0 })
      ∧ s.decoder.guardActive = none ∧ s.decoder.guardTarget = none)
    ∧ (s.groups.queue = [] ∧ s.staging = { slots := [], index := [], slotWait := [], scratch := none }
      ∧ s.claims.waitList = [] ∧ s.claims.arrivalCount = 0 ∧ s.posted.records = [] ∧ s.reads = [])
    ∧ s.journal =
        { region := { base := 0, k := 0 }, head := 0, used := 0, retiredTail := 0, releasedTail := 0,
          retiredSpan := 0, nextSeq := 1, durableThrough := 0, appliedThrough := 0, writer := .idle }
    ∧ (s.apply.current = none ∧ s.apply.outstanding = [])
    ∧ s.ckpt = { counter := 0, nextSlot := .a, applied := 0, errors := 0, inFlight := none, trigger := false }
    ∧ (s.recovery = none ∧ s.format = none)
    ∧ s.reloc = { state := .none, result := .none, target := { base := 0, k := 0 }, hold := false }
    ∧ (s.drain.status = .none ∧ s.drain.origin = none ∧ s.drain.deadline = none ∧ s.drain.faultLoss = false
      ∧ s.drain.doneOut = false)
    ∧ (s.media.requests = [] ∧ s.media.readTurn = true ∧ s.media.foreground = 0 ∧ s.media.linkOwed = false
      ∧ s.media.linkDeadline = none)
    ∧ s.regs.config = [64, 1000, 0, 200, 4, 2000, 4, 8]
    ∧ (s.regs.flags = 0 ∧ s.regs.enables = 0 ∧ alertAsserted s = false)
    ∧ (s.regs.committedCount = 0 ∧ s.regs.abortedCount = 0 ∧ s.regs.lostCount = 0)
    ∧ (s.regs.jnlBase = 0 ∧ s.regs.jnlK = 0 ∧ s.regs.relocBase = 0 ∧ s.regs.relocK = 0 ∧ s.regs.relocHold = false
      ∧ s.regs.relocatedBase = 0 ∧ s.regs.relocatedK = 0)
    ∧ (s.regs.latchApplied = 0 ∧ s.regs.latchDurable = 0 ∧ s.regs.latchNextSeq = 0)
    ∧ ([0x00#8, 0x10#8, 0x11#8, 0x12#8, 0x13#8, 0x14#8, 0x15#8, 0x16#8, 0x17#8, 0x18#8, 0x47#8].map (readRegister s)
      = [0x4B580416#32, 64, 1000, 0, 200, 4, 2000, 4, 8, 0, 1])
    ∧ (∀ i ∈ [0x01#8, 0x03#8, 0x04#8, 0x05#8, 0x06#8, 0x07#8, 0x08#8, 0x09#8, 0x0A#8, 0x40#8, 0x41#8, 0x42#8, 0x43#8,
        0x44#8, 0x45#8, 0x46#8, 0x48#8, 0x49#8, 0x4A#8, 0x4B#8, 0x50#8, 0x51#8, 0x52#8], readRegister s i = 0)
    ∧ (∀ i ∈ List.range 24, readRegister s (BitVec.ofNat 8 (0x20 + i)) = 0)
    ∧ ∀ st, s.wires.fabricOut.count (.credit st) = 8

/-- HARD_RESET from every state: the reset state, the queue apart (log 20); with PFW_N found asserted, which the
command carries and the model remembers (log 4), HALTED with COMPLETE and DRAIN_DONE (R117, R142). -/
def Obligations.HardResetFromAnyState : Prop :=
  ∀ s : State,
    Answers (.hardReset false) s { State.reset with pending := s.pending }
      ∧ Answers (.hardReset true) s
        { State.reset with
          pending := s.pending
          modes := { State.reset.modes with mode := .halted }
          drain := { State.reset.drain with status := .complete, doneOut := true, pfwAsserted := true }
          regs := flagged State.reset.regs .drainDone }

/-! ## Arrival, sending, the take arbiter -/

/-- REQUEST_ARRIVAL (R159, R143): discarded by a full queue; else appended for a credit; in DRAINING and HALTED
answered POWERFAIL from the queue, at once when there is room and no answer is held, kept as an answered entry when
there is none. -/
def Obligations.ArrivalQueuesOrDiscardsOrAnswers : Prop :=
  ∀ (r : Request) (s : State),
    (8 ≤ (ingressOf s r.stream).length → Answers (.requestArrival r) s s)
      ∧ ((ingressOf s r.stream).length < 8 → s.modes.mode ≠ .draining → s.modes.mode ≠ .halted →
        Answers (.requestArrival r) s
          { s with fabric :=
            { s.fabric with
              ingress := s.fabric.ingress.write r.stream
                (ingressOf s r.stream ++ [{ req := r, arrival := s.fabric.arrivals + 1, answer := none }])
              credits := s.fabric.credits.write r.stream (s.fabric.credits.read r.stream - 1)
              arrivals := s.fabric.arrivals + 1 } })
      ∧ ((ingressOf s r.stream).length < 8 → (s.modes.mode = .draining ∨ s.modes.mode = .halted) →
        hasRoom s = false →
        Answers (.requestArrival r) s
          { s with fabric :=
            { s.fabric with
              ingress := s.fabric.ingress.write r.stream
                (ingressOf s r.stream
                  ++ [{ req := r, arrival := s.fabric.arrivals + 1, answer := some .powerfail }])
              credits := s.fabric.credits.write r.stream (s.fabric.credits.read r.stream - 1)
              arrivals := s.fabric.arrivals + 1 } })
      ∧ (ingressOf s r.stream = [] → 0 < s.fabric.credits.read r.stream →
        (s.modes.mode = .draining ∨ s.modes.mode = .halted) → hasRoom s = true → oldestHeld s = none →
        Answers (.requestArrival r) s
          { s with
            fabric :=
              { s.fabric with
                egress := s.fabric.egress ++ [plainAnswer r.stream r.tag .powerfail]
                arrivals := s.fabric.arrivals + 1 }
            wires := creditSignalled s r.stream })

/-- RESPONSE_SEND (R163, R162): the head of the egress queue is sent; nothing to send changes nothing (the model's
choice, log 1). The oldest held answer, the answered entry that arrived first of those at the heads of the ingress
queues, then enters when there is room, and its entry is freed and its credit returned; with room for one only,
nothing else changes; without room it stays held. -/
def Obligations.SendRemovesHeadAndAdmitsHeldAnswers : Prop :=
  (∀ (s : State) (r : Response) (rs : List Response),
      let sent : State :=
        { s with
          fabric := { s.fabric with egress := rs }
          wires := { s.wires with fabricOut := s.wires.fabricOut ++ [.response r] } }
      (s.fabric.egress = [] → Answers .responseSend s s)
        ∧ (s.fabric.egress = r :: rs → oldestHeld s = none → Answers .responseSend s sent)
        ∧ ∀ h, s.fabric.egress = r :: rs → oldestHeld s = some h →
          let answer := plainAnswer h.stream h.entry.req.tag h.status
          (128 - rs.length ≤ s.fabric.takenUnanswered → Answers .responseSend s sent)
            ∧ (s.fabric.takenUnanswered < 128 - rs.length → Completes .responseSend s fun t =>
              rs ++ [answer] <+: t.fabric.egress
                ∧ s.wires.fabricOut ++ [.response r, .credit h.stream] <+: t.wires.fabricOut
                ∧ ingressOf t h.stream <:+ (ingressOf s h.stream).tail
                ∧ (∀ st, (ingressOf t st).length + t.fabric.credits.read st
                  = (ingressOf s st).length + s.fabric.credits.read st)
                ∧ t.fabric.takenUnanswered = s.fabric.takenUnanswered)
            ∧ (s.fabric.takenUnanswered + 1 = 128 - rs.length →
              Answers .responseSend s
                { s with
                  fabric :=
                    { s.fabric with
                      egress := rs ++ [answer]
                      ingress := s.fabric.ingress.write h.stream (ingressOf s h.stream).tail
                      credits := s.fabric.credits.write h.stream (s.fabric.credits.read h.stream + 1) }
                  wires :=
                    { s.wires with fabricOut := s.wires.fabricOut ++ [.response r, .credit h.stream] } }))
    ∧ ∀ s : State,
      (oldestHeld s = none ↔ ∀ st e es, ingressOf s st = e :: es → e.answer = none)
        ∧ ∀ h, oldestHeld s = some h →
          (∃ es, ingressOf s h.stream = h.entry :: es) ∧ h.entry.answer = some h.status
            ∧ ∀ st e es, ingressOf s st = e :: es → e.answer.isSome = true → h.entry.arrival ≤ e.arrival

/-- A response that has entered the egress queue leaves it only by RESPONSE_SEND or HARD_RESET, and others enter
behind it (R163). -/
def Obligations.EgressQueueIsFifo : Prop :=
  ∀ (c : Instr) (s t : State), (∀ b, c ≠ .hardReset b) → c ≠ .responseSend → exec c s = .next t →
    s.fabric.egress <+: t.fabric.egress

/-- The take arbiter (R160, R161): it grants the first stream with a takeable head from its pointer on, when the
egress queue has room for one response more than are owed and the mode makes takes; with no grant, and for a command
of another kind than the granted head's, a take changes nothing (the model's choice, log 1). A head is takeable in
READY exactly when it is not an answered entry, its stream has no held write, and: for a COMMIT, its record is
DOOMED or no relocation is in progress and the commit queue has room; for a WRITE, the posted write queue has room;
for a READ, the read tracker has room; for a DISCARD, always (R160, R11, R13, R62, R71). That a COMMIT of a DOOMED
record is takeable during a relocation and with 32 entries in the commit queue is the model's reading of R11 and
R135 (log 6). Outside READY an answered entry alone blocks. -/
def Obligations.TakeArbiterGrantsUnblockedHeads : Prop :=
  (∀ s : State,
      (∀ g, takeGrant s = some g ↔
        (s.fabric.takenUnanswered < 128 - s.fabric.egress.length ∧ s.modes.mode ≠ .draining ∧ s.modes.mode ≠ .halted)
          ∧ takeableHead s g.stream = some g.req
          ∧ ∃ d : Fin 16, g.stream = s.fabric.pointer + d ∧ ∀ e < d, takeableHead s (s.fabric.pointer + e) = none)
        ∧ (takeGrant s = none → ∀ k, Answers (takeCommand k) s s)
        ∧ (∀ g k, takeGrant s = some g → g.req.kind ≠ k → Answers (takeCommand k) s s))
    ∧ (∀ (s : State) (st : Stream),
      (ingressOf s st = [] → takeableHead s st = none)
        ∧ ∀ (e : IngressEntry) (es : List IngressEntry), ingressOf s st = e :: es →
          let clear := e.answer = none
            ∧ (∀ r ∈ s.claims.waitList, r.write.stream ≠ st) ∧ (∀ h ∈ s.staging.slotWait, h.stream ≠ st)
            ∧ (e.req.kind = .commit → isDoomed s st = true ∨ (s.reloc.state = .none ∧ s.groups.queue.length < 32))
            ∧ (e.req.kind = .write → s.posted.records.length < 32)
            ∧ (e.req.kind = .read → s.reads.length < 48)
          (s.modes.mode = .ready →
            (clear → takeableHead s st = some e.req) ∧ (¬clear → takeableHead s st = none))
            ∧ (s.modes.mode ≠ .ready →
              (e.answer = none → takeableHead s st = some e.req) ∧ (e.answer ≠ none → takeableHead s st = none)))

/-- A take outside READY (R161): NOT_READY in IDLE, FORMATTING and RECOVERING, PORT_DOWN in FAULTED, for every kind;
nothing but the fabric port and its channel changes. -/
def Obligations.TakesOutsideReadyAreAnsweredFromMode : Prop :=
  ∀ (s : State) (g : Grant), takeGrant s = some g →
    ((s.modes.mode = .idle ∨ s.modes.mode = .formatting ∨ s.modes.mode = .recovering) →
      Answers (takeCommand g.req.kind) s
        { s with
          fabric := fabricAnswered s g.stream (plainAnswer g.stream g.req.tag .notReady)
          wires := creditSignalled s g.stream })
      ∧ (s.modes.mode = .faulted →
        Answers (takeCommand g.req.kind) s
          { s with
            fabric := fabricAnswered s g.stream (plainAnswer g.stream g.req.tag .portDown)
            wires := creditSignalled s g.stream })

/-! ## Window decoder -/

/-- The class of a READ or WRITE (R56), by its four steps. -/
def Obligations.DecoderClassifiesInFourSteps : Prop :=
  ∀ (s : State) (st : Stream) (r : Request),
    let n := r.length.toNat
    let o := r.addr.toNat % 64
    let l := r.addr.toNat - o
    let inRegion : Region → Prop := fun g => g.base.toNat ≤ l ∧ l < g.base.toNat + 2 ^ g.k.toNat * 64
    let guarded := (∃ g, s.decoder.guardActive = some g ∧ inRegion g) ∨ ∃ g, s.decoder.guardTarget = some g ∧ inRegion g
    let granule := r.addr.toNat / 4096
    let holds : Window → Prop := fun w => w.enabled = true ∧ w.base.toNat ≤ granule ∧ granule ≤ w.limit.toNat
    ((n = 0 ∨ 64 < o + n) → classify s st r = .denied)
      ∧ (n ≠ 0 → o + n ≤ 64 → guarded → classify s st r = .denied)
      ∧ (n ≠ 0 → o + n ≤ 64 → ¬guarded → ∀ i : Fin 8, holds s.decoder.table[i] →
        (∀ j < i, ¬holds s.decoder.table[j]) →
        classify s st r =
          if s.decoder.table[i].mask.getLsbD st.val then
            match s.decoder.table[i].kind with
            | .plain => .plain
            | .guarded => .guarded
            | .readOnly => .readOnly
          else .denied)
      ∧ (n ≠ 0 → o + n ≤ 64 → ¬guarded → (∀ i : Fin 8, ¬holds s.decoder.table[i]) →
        classify s st r =
          match s.decoder.defaultKind with
          | .plain => .plain
          | .deny => .denied)

/-! ## Reads -/

/-- The byte of a value at a position: that of the newest version that holds it, else the base line's (R78, R76).
The bytes of a write at their positions, and the mask of those positions (R30, R61). -/
def Obligations.LinesMasksAndLaidOverBytes : Prop :=
  (∀ (base : Line) (vs : List Slot) (p : Fin 64),
      (layOver base vs)[p] =
        match vs.reverse.find? fun v => v.mask.getLsbD p.val with
        | some v => v.data[p]
        | none => base[p])
    ∧ (∀ (o n : Nat) (bs : List Byte) (p : Fin 64), o + n ≤ 64 → bs.length = n →
      ((byteMask o n).getLsbD p.val = true ↔ o ≤ p.val ∧ p.val < o + n)
        ∧ (placeBytes o bs)[p] = (if o ≤ p.val ∧ p.val < o + n then bs.getD (p.val - o) 0#8 else 0#8))

/-- A plain read taken in READY (R71, R72): tracked, with its home read handed over at once when no posted write to
its line is UNISSUED, else held behind their number. -/
def Obligations.PlainReadIsTrackedAndHeldBehindPostedWrites : Prop :=
  ∀ (s : State) (g : Grant), s.modes.mode = .ready → takeGrant s = some g → g.req.kind = .read →
    (classify s g.stream g.req = .plain ∨ classify s g.stream g.req = .readOnly) →
    let l := lineOf g.req.addr
    let hold := (s.posted.records.filter fun p => p.line == l && !p.issued).length
    let e : TrackerEntry :=
      { stream := g.stream, tag := g.req.tag, serial := s.fabric.takeSerial + 1, line := l,
        offset := g.req.addr.toNat % 64, length := g.req.length.toNat, kind := .plain, pinned := [], hold := hold,
        home := .waiting }
    Answers .takeRead s
      { s with
        fabric := fabricTaken s g.stream
        wires := creditSignalled s g.stream
        reads := s.reads ++ [e]
        media :=
          { s.media with
            requests := s.media.requests
              ++ if hold = 0 then [{ requester := .homeRead e.serial, line := l, write := none, state := .ready }]
                else [] } }

/-- A guarded read taken in READY (R75, R76): covered, it is answered in its take; else its versions are pinned and
its home read handed over. -/
def Obligations.GuardedReadIsCoveredOrPinned : Prop :=
  ∀ (s : State) (g : Grant), s.modes.mode = .ready → takeGrant s = some g → g.req.kind = .read →
    classify s g.stream g.req = .guarded →
    let l := lineOf g.req.addr
    let o := g.req.addr.toNat % 64
    let n := g.req.length.toNat
    let vs := (versions s l).filter fun v =>
      v.state == .durable || v.state == .applying || (v.state.claims && v.owner.map Owner.stream == some g.stream)
    let covered := ∀ p, o ≤ p → p < o + n → ∃ v ∈ vs, v.mask.getLsbD p = true
    let e : TrackerEntry :=
      { stream := g.stream, tag := g.req.tag, serial := s.fabric.takeSerial + 1, line := l, offset := o, length := n,
        kind := .guarded, pinned := vs.map Slot.num, hold := 0, home := .waiting }
    (covered →
      Answers .takeRead s
        { s with
          fabric := fabricAnswered s g.stream (readAnswer g.stream g.req.tag (bytesOf (layOver zeroLine vs) o n))
          wires := creditSignalled s g.stream })
      ∧ (¬covered →
        Answers .takeRead s
          { s with
            fabric := fabricTaken s g.stream
            wires := creditSignalled s g.stream
            staging :=
              { s.staging with
                slots := s.staging.slots.map fun v =>
                  if v.num ∈ e.pinned then { v with pins := v.pins + 1 } else v }
            reads := s.reads ++ [e]
            media :=
              { s.media with
                requests := s.media.requests
                  ++ [{ requester := .homeRead e.serial, line := l, write := none, state := .ready }] } })

/-- A denied READ or WRITE, and a WRITE of a READ_ONLY window, taken in READY (R58): DENIED, and nothing but the
fabric port and its channel changes. -/
def Obligations.DeniedRequestsChangeOnlyTheFabricPort : Prop :=
  ∀ (s : State) (g : Grant), s.modes.mode = .ready → takeGrant s = some g →
    let t : State :=
      { s with
        fabric := fabricAnswered s g.stream (plainAnswer g.stream g.req.tag .denied)
        wires := creditSignalled s g.stream }
    (g.req.kind = .read → classify s g.stream g.req = .denied → Answers .takeRead s t)
      ∧ (g.req.kind = .write → (classify s g.stream g.req = .denied ∨ classify s g.stream g.req = .readOnly) →
        Answers .takeWrite s t)

/-- HOME_READ_RETURN and HOME_READ_FAIL (R74, R78), with no write held: the read is answered OK with its pinned
versions laid over the line, or MEDIA_ERROR; its slots are unpinned, and freed when they held a SPENT or ABORTED
version alone; its entry and its tag are freed; in DRAINING (R81, R144) the drain's conditions are then tested
(R145). -/
def Obligations.HomeReadOutcomesAnswerTheRead : Prop :=
  ∀ (s : State) (t : MediaTag) (serial : Serial) (e : TrackerEntry) (home : Line),
    Carries s t (.homeRead serial) → (s.reads.find? fun x => x.serial == serial) = some e → NoneHeld s →
    let after : Response → State := fun r =>
      { s with
        fabric := fabricReplied s r
        reads := s.reads.filter fun x => x.serial != serial
        staging :=
          { s.staging with
            slots := s.staging.slots.filterMap fun v =>
              if v.num ∈ e.pinned then
                if v.pins - 1 = 0 ∧ (v.state = .spent ∨ v.state = .aborted) then none
                else some { v with pins := v.pins - 1 }
              else some v }
        media := { s.media with requests := requestsWithout s t } }
    let answered := after (readAnswer e.stream e.tag
      (bytesOf (layOver home (e.pinned.filterMap (slotAt s))) e.offset e.length))
    let failed := after (plainAnswer e.stream e.tag .mediaError)
    (s.modes.mode ≠ .draining →
        Answers (.homeReadReturn t home) s answered ∧ Answers (.homeReadFail t) s failed)
      ∧ (s.modes.mode = .draining →
        DrainsTo (.homeReadReturn t home) s answered ∧ DrainsTo (.homeReadFail t) s failed)

/-! ## Plain writes -/

/-- A plain write taken in READY (R62): its record joins the tail UNISSUED, handed over at once when it is the
oldest UNISSUED one, and it is answered POSTED. -/
def Obligations.PlainWriteIsPosted : Prop :=
  ∀ (s : State) (g : Grant), s.modes.mode = .ready → takeGrant s = some g → g.req.kind = .write →
    classify s g.stream g.req = .plain →
    let o := g.req.addr.toNat % 64
    let p : PostedRecord :=
      { stream := g.stream, line := lineOf g.req.addr, mask := byteMask o g.req.length.toNat,
        data := placeBytes o (g.req.data.take g.req.length.toNat), serial := s.fabric.takeSerial + 1, issued := false }
    Answers .takeWrite s
      { s with
        fabric := fabricAnswered s g.stream (plainAnswer g.stream g.req.tag .posted)
        wires := creditSignalled s g.stream
        posted := { s.posted with records := s.posted.records ++ [p] }
        media :=
          { s.media with
            requests := s.media.requests
              ++ if ∀ q ∈ s.posted.records, q.issued = true then
                  [{ requester := .posted p.serial, line := p.line, write := some (p.mask, p.data), state := .ready }]
                else [] } }

/-- A posted write's acknowledgement, OK or failed (R64, R67, R17), when it makes no COMMITTED due: the record and
the tag go, and each entry of the stream whose COMMIT was taken later owes one write less; in DRAINING the drain's
conditions are then tested (R145). A failure first sets POSTED_LOST, counts the loss up to 65535 and marks the
stream. The acknowledgement that brings the barrier of a DURABLE entry's group with lines to zero (R17, R18):
COMMITTED with the loss flag in the same event, Answered set, the stream's loss mark cleared. The acknowledgement
that makes several entries of the stream answerable (R12, R16, R17, R18): COMMITTED for each in queue order, the
stream's loss mark with the first alone; an empty commit, and an entry in APPLYING whose home writes are all
acknowledged, leave the queue; every other one stays with Answered set. In DRAINING the drain's conditions are
tested after these answers too (R69, R22, R145); with a relocation in PENDING, the answer that empties the commit
queue raises the relocation trigger (R135). -/
def Obligations.PostedOutcomesLowerBarriersAndSendCommitted : Prop :=
  (∀ (s : State) (t : MediaTag) (p : PostedRecord),
      Carries s t (.posted p.serial) → (s.posted.records.find? fun q => q.serial == p.serial) = some p →
      let lowered : Entry → Entry := fun e =>
        if e.stream = p.stream ∧ serialBefore p.serial e.serial then { e with barrier := e.barrier - 1 } else e
      (∀ e ∈ s.groups.queue, (lowered e).answerable = false) →
      let records := s.posted.records.filter fun q => q.serial != p.serial
      let groups : Groups := { s.groups with queue := s.groups.queue.map lowered }
      let media : Media := { s.media with requests := requestsWithout s t }
      let acked : State := { s with posted := { s.posted with records }, groups, media }
      let lost : State :=
        { s with
          posted := { records, lossMarks := s.posted.lossMarks.write p.stream true }
          groups
          media
          regs :=
            { flagged s.regs .postedLost with
              lostCount := if s.regs.lostCount = 65535#16 then 65535#16 else s.regs.lostCount + 1 } }
      (s.modes.mode ≠ .draining → Answers (.postedWriteOk t) s acked ∧ Answers (.postedWriteFail t) s lost)
        ∧ (s.modes.mode = .draining → DrainsTo (.postedWriteOk t) s acked ∧ DrainsTo (.postedWriteFail t) s lost))
    ∧ (∀ (s : State) (t : MediaTag) (p : PostedRecord) (e : Entry),
      Carries s t (.posted p.serial) → (s.posted.records.find? fun q => q.serial == p.serial) = some p →
      s.reloc.state ≠ .pending → s.modes.mode ≠ .draining →
      s.groups.queue = [e] → e.stream = p.stream → serialBefore p.serial e.serial = true → e.state = .durable →
      e.slots ≠ [] → e.homeDone = false → e.answered = false → e.barrier = 1 →
      let after : Bool → Regs → State := fun lost regs =>
        { s with
          fabric := fabricReplied s (committedAnswer e.stream e.tag (e.lossMark || lost))
          posted :=
            { records := s.posted.records.filter fun q => q.serial != p.serial
              lossMarks := s.posted.lossMarks.write p.stream false }
          groups := { s.groups with queue := [{ e with barrier := 0, answered := true }] }
          media := { s.media with requests := requestsWithout s t }
          regs }
      Answers (.postedWriteOk t) s (after (lossMark s p.stream) s.regs)
        ∧ Answers (.postedWriteFail t) s
          (after true
            { flagged s.regs .postedLost with
              lostCount := if s.regs.lostCount = 65535#16 then 65535#16 else s.regs.lostCount + 1 }))
    ∧ (∀ (s : State) (t : MediaTag) (p : PostedRecord),
      Carries s t (.posted p.serial) → (s.posted.records.find? fun q => q.serial == p.serial) = some p →
      SerialsDistinct s →
      let lowered : Entry → Entry := fun e =>
        if e.stream = p.stream ∧ serialBefore p.serial e.serial then { e with barrier := e.barrier - 1 } else e
      let queue := s.groups.queue.map lowered
      let owed := queue.filter fun e =>
        (e.state == .durable || e.state == .applying) && e.barrier == 0 && !e.answered
      (∀ e ∈ owed, e.stream = p.stream) → owed ≠ [] →
      let after : Bool → Regs → State := fun lost regs =>
        { s with
          fabric :=
            { s.fabric with
              egress := s.fabric.egress
                ++ owed.mapIdx fun i e => committedAnswer e.stream e.tag (e.lossMark || (i == 0 && lost))
              takenUnanswered := s.fabric.takenUnanswered - owed.length }
          posted :=
            { records := s.posted.records.filter fun q => q.serial != p.serial
              lossMarks := s.posted.lossMarks.write p.stream false }
          groups :=
            { s.groups with
              queue := queue.filterMap fun e =>
                if (e.state == .durable || e.state == .applying) && e.barrier == 0 && !e.answered then
                  if e.slots = [] ∨ e.homeDone = true then none else some { e with answered := true }
                else some e }
          media := { s.media with requests := requestsWithout s t }
          regs }
      let acked := after (lossMark s p.stream) s.regs
      let lost := after true
        { flagged s.regs .postedLost with
          lostCount := if s.regs.lostCount = 65535#16 then 65535#16 else s.regs.lostCount + 1 }
      (s.reloc.state ≠ .pending → s.modes.mode ≠ .draining →
          Answers (.postedWriteOk t) s acked ∧ Answers (.postedWriteFail t) s lost)
        ∧ (s.reloc.state ≠ .pending → s.modes.mode = .draining →
          DrainsTo (.postedWriteOk t) s acked ∧ DrainsTo (.postedWriteFail t) s lost)
        ∧ (s.reloc.state = .pending → s.modes.mode ≠ .draining →
          EmptiesTo (.postedWriteOk t) s acked ∧ EmptiesTo (.postedWriteFail t) s lost))

/-! ## Guarded writes -/

/-- A guarded write that the checks of R3 let stage (R3, R8, R30, R31): a new version in the lowest FREE slot, a
merge in place, or a merge by copy that detaches the pinned version; answered STAGED, with the idle deadline
restarted. The deadline in whole milliseconds, the present moment rounded down plus the idle timeout, is the model's
reading (log 3). -/
def Obligations.GuardedWriteStages : Prop :=
  ∀ (s : State) (g : Grant), s.modes.mode = .ready → takeGrant s = some g → g.req.kind = .write →
    classify s g.stream g.req = .guarded →
    let l := lineOf g.req.addr
    let o := g.req.addr.toNat % 64
    let mask := byteMask o g.req.length.toNat
    let data := placeBytes o (g.req.data.take g.req.length.toNat)
    let merge : Slot → Slot := fun v => { v with mask := v.mask ||| mask, data := overlay mask data v.data }
    let deadline := fun old => if s.regs.idleTimeout = 0 then old else some (s.now / 1000 + s.regs.idleTimeout)
    ∀ (slots : List Nat) (old : Option Nat),
    (recordOf s g.stream = .opened slots old ∨ (recordOf s g.stream = .absent ∧ slots = [] ∧ old = none)) →
    (claimant s l = none ∨ claimant s l = some g.stream) →
    let after : List Nat → Staging → State := fun slots staging =>
      { s with
        fabric := fabricAnswered s g.stream (plainAnswer g.stream g.req.tag .staged)
        wires := creditSignalled s g.stream
        groups := { s.groups with table := s.groups.table.write g.stream (.opened slots (deadline old)) }
        staging }
    (∀ c, openVersion s g.stream l = none → (recordOf s g.stream ≠ .absent → slots.length < s.regs.groupLimit) →
      openSlots s < 768 → freeSlot? s = some c →
      Answers .takeWrite s
        (after (slots ++ [c])
          { s.staging with
            slots := insertSlot
              { num := c, state := .opened, line := l, mask, data, owner := some (.record g.stream), pins := 0 }
              s.staging.slots
            index := s.staging.index ++ [{ line := l, slot := c }] }))
      ∧ (∀ v, openVersion s g.stream l = some v → v.pins = 0 →
        Answers .takeWrite s
          (after slots
            { s.staging with
              slots := s.staging.slots.map fun u => if u.num = v.num then merge u else u }))
      ∧ (∀ v c, openVersion s g.stream l = some v → v.pins ≠ 0 → freeSlot? s = some c →
        Answers .takeWrite s
          (after (slots.map fun n => if n = v.num then c else n)
            { s.staging with
              slots := insertSlot (merge { v with num := c, pins := 0 })
                (s.staging.slots.map fun u =>
                  if u.num = v.num then { u with state := .aborted, owner := none } else u)
              index := s.staging.index.map fun x => if x.slot = v.num then { x with slot := c } else x }))

/-- A guarded write that the checks of R3 hold or turn away with nothing else to do (R3, R33, R41, R44): ABORTED
with the doom reason of a DOOMED record; into the wait list behind another stream's claim that is no length-two
deadlock; into the slot wait when no slot is FREE, for a new version and for the copy of a version that a read pins
(R31 step 1). -/
def Obligations.GuardedWriteIsRefusedOrHeld : Prop :=
  ∀ (s : State) (g : Grant), s.modes.mode = .ready → takeGrant s = some g → g.req.kind = .write →
    classify s g.stream g.req = .guarded →
    let l := lineOf g.req.addr
    let h : HeldWrite :=
      { stream := g.stream, line := l, offset := g.req.addr.toNat % 64, length := g.req.length.toNat,
        data := g.req.data.take g.req.length.toNat, tag := g.req.tag }
    let held : State := { s with fabric := fabricTaken s g.stream, wires := creditSignalled s g.stream }
    (∀ reason, recordOf s g.stream = .doomed reason →
      Answers .takeWrite s
        { s with
          fabric := fabricAnswered s g.stream (abortedAnswer g.stream g.req.tag reason.reason)
          wires := creditSignalled s g.stream })
      ∧ (∀ u, isDoomed s g.stream = false → claimant s l = some u → u ≠ g.stream →
        (∀ r ∈ s.claims.waitList, r.write.stream = u → claimant s r.write.line ≠ some g.stream) →
        Answers .takeWrite s
          { held with claims :=
            { waitList := s.claims.waitList
                ++ [{ write := h, arrival := s.claims.arrivalCount + 1, deadline := s.now + s.regs.conflictTimeout }]
              arrivalCount := s.claims.arrivalCount + 1 } })
      ∧ (isDoomed s g.stream = false → (claimant s l = none ∨ claimant s l = some g.stream) →
        openVersion s g.stream l = none → groupFull s g.stream = false → openSlots s < 768 →
        freeSlot? s = none →
        Answers .takeWrite s { held with staging := { s.staging with slotWait := s.staging.slotWait ++ [h] } })
      ∧ ∀ v, isDoomed s g.stream = false → (claimant s l = none ∨ claimant s l = some g.stream) →
        openVersion s g.stream l = some v → v.pins ≠ 0 → freeSlot? s = none →
        Answers .takeWrite s { held with staging := { s.staging with slotWait := s.staging.slotWait ++ [h] } }

/-- A guarded write that dooms its group (R3, R4, R41, R42): GROUP_FULL, QUOTA or CONFLICT. An ABSENT record has
nothing to abort; a group with nothing held behind it loses its versions and the write is answered ABORTED with the
reason; that group is counted; in every case ABORT is set and the write's answer comes before the answers of writes
that the abort lets go on (for GROUP_FULL and QUOTA that order is the model's reading, log 7). -/
def Obligations.GuardedWriteDooms : Prop :=
  ∀ (s : State) (g : Grant), s.modes.mode = .ready → takeGrant s = some g → g.req.kind = .write →
    classify s g.stream g.req = .guarded → isDoomed s g.stream = false →
    let l := lineOf g.req.addr
    let free := claimant s l = none ∨ claimant s l = some g.stream
    let dooms : DoomReason → Prop
      | .groupFull => free ∧ openVersion s g.stream l = none ∧ groupFull s g.stream = true
      | .quota => free ∧ openVersion s g.stream l = none ∧ groupFull s g.stream = false ∧ 768 ≤ openSlots s
      | .conflict => ∃ u, claimant s l = some u ∧ u ≠ g.stream
          ∧ ∃ r ∈ s.claims.waitList, r.write.stream = u ∧ claimant s r.write.line = some g.stream
      | .idle => False
    ∀ reason, dooms reason →
      (Completes .takeWrite s fun t =>
        s.fabric.egress ++ [abortedAnswer g.stream g.req.tag reason.reason] <+: t.fabric.egress
          ∧ recordOf t g.stream = .doomed reason ∧ flagSet t .abort = true ∧ t.groups.queue = s.groups.queue
          ∧ t.posted = s.posted ∧ t.reads = s.reads ∧ t.journal = s.journal ∧ t.media = s.media ∧ t.modes = s.modes)
        ∧ (NoneHeld s →
          let slots := (recordOf s g.stream).slots
          Answers .takeWrite s
            { s with
              fabric := fabricAnswered s g.stream (abortedAnswer g.stream g.req.tag reason.reason)
              wires := creditSignalled s g.stream
              groups := { s.groups with table := s.groups.table.write g.stream (.doomed reason) }
              staging := stagingAborted s.staging slots
              regs := abortCounted s.regs })

/-! ## COMMIT and DISCARD -/

/-- A COMMIT of a DOOMED record (R11 check 1, R19): taken even during a relocation or behind a full commit queue,
ABORTED with the doom reason, the record ABSENT, the loss mark cleared, nothing counted again. A COMMIT that seals
(R11 check 4, R12, R14, R95 to R97). With the writer busy: the entry is SEALED at the queue's tail, with the
stream's posted writes as its barrier, and its slots are SEALED under it. With the writer IDLE and nothing SEALED
before it: an empty commit with no barrier is answered COMMITTED and leaves, and one with a barrier stays DURABLE
and unanswered until its posted writes are acknowledged; a group is begun in the same event, with the next sequence
and the head as its extent, in WRITING when it fits and in WAITING_SPACE with JOURNAL_LOW when it does not. -/
def Obligations.CommitAbortsOrSeals : Prop :=
  (∀ (s : State) (g : Grant) (reason : DoomReason), s.modes.mode = .ready → takeGrant s = some g → g.req.kind = .commit →
      recordOf s g.stream = .doomed reason →
      Answers .commit s
        { s with
          fabric := fabricAnswered s g.stream (abortedAnswer g.stream g.req.tag reason.reason)
          wires := creditSignalled s g.stream
          groups := { s.groups with table := s.groups.table.write g.stream .absent }
          posted := { s.posted with lossMarks := s.posted.lossMarks.write g.stream false } })
    ∧ (∀ (s : State) (g : Grant), s.modes.mode = .ready → takeGrant s = some g → g.req.kind = .commit →
      isDoomed s g.stream = false →
      let slots := (recordOf s g.stream).slots
      let serial := s.fabric.takeSerial + 1
      let barrier := (s.posted.records.filter fun p => p.stream == g.stream).length
      let e : Entry :=
        { stream := g.stream, state := .sealed, slots, seq := none, extent := none, tag := g.req.tag, serial, barrier,
          lossMark := false, answered := false, homeDone := false }
      let table := s.groups.table.write g.stream .absent
      let under : SlotState → Staging := fun x =>
        { s.staging with
          slots := s.staging.slots.map fun v =>
            if v.num ∈ slots then { v with state := x, owner := some (.entry g.stream serial) } else v }
      let nothingBefore := (∀ x ∈ s.groups.queue, x.state ≠ .sealed) ∧ ∀ x ∈ s.groups.queue, x.serial ≠ serial
      let length := slots.length + (slots.length + 3) / 4 + 2
      let begun : Entry :=
        { e with
          state := .journaling, seq := some s.journal.nextSeq, extent := some { start := s.journal.head, length } }
      let lines := slots.filterMap fun n => (slotAt s n).map fun v => (v.line, v.mask, v.data)
      (s.journal.writer ≠ .idle →
        Answers .commit s
          { s with
            fabric := fabricTaken s g.stream
            wires := creditSignalled s g.stream
            groups := { table, queue := s.groups.queue ++ [e] }
            staging := under .sealed })
        ∧ (s.journal.writer = .idle → nothingBefore → slots = [] → barrier = 0 →
          Answers .commit s
            { s with
              fabric := fabricAnswered s g.stream (committedAnswer g.stream g.req.tag (lossMark s g.stream))
              wires := creditSignalled s g.stream
              groups := { s.groups with table }
              posted := { s.posted with lossMarks := s.posted.lossMarks.write g.stream false } })
        ∧ (s.journal.writer = .idle → nothingBefore → slots = [] → 0 < barrier →
          Answers .commit s
            { s with
              fabric := fabricTaken s g.stream
              wires := creditSignalled s g.stream
              groups := { table, queue := s.groups.queue ++ [{ e with state := .durable }] } })
        ∧ (s.journal.writer = .idle → nothingBefore → slots ≠ [] →
          length ≤ s.journal.region.ringLength - s.journal.used →
          Answers .commit s
            { s with
              fabric := fabricTaken s g.stream
              wires := creditSignalled s g.stream
              groups := { table, queue := s.groups.queue ++ [begun] }
              staging := under .journaling
              journal := { s.journal with writer := .writing false }
              media :=
                { s.media with
                  requests := s.media.requests
                    ++ lineRequests s.journal.region s.journal.head 0
                      (recordBody g.stream s.journal.nextSeq lines) } })
        ∧ (s.journal.writer = .idle → nothingBefore → slots ≠ [] →
          s.journal.region.ringLength - s.journal.used < length →
          Completes .commit s fun t =>
            t.groups = { table, queue := s.groups.queue ++ [begun] } ∧ t.staging = under .journaling
              ∧ t.journal = { s.journal with writer := .waitingSpace } ∧ flagSet t .journalLow = true
              ∧ (s.journal.retiredSpan = 0 → t.media = s.media ∧ t.ckpt = s.ckpt)
              ∧ (0 < s.journal.retiredSpan → t.ckpt.inFlight.isSome = true)
              ∧ t.fabric = fabricTaken s g.stream))

/-- DISCARD (R13): OK in every state of the record, which becomes ABSENT; an open group's versions are aborted;
nothing is counted and no flag is set for it (a write that the abort lets go on may still doom its own group). The
OK comes before the answers of the writes that the abort lets go on (the model's reading, log 7). Two such answers
in full: the re-examination of a line whose claim is released (R47, R48) stages its first waiting write in the
lowest FREE slot and leaves every other waiting write, a second one for that line among them, at its place; the wake
pass of a freed slot (R34) stages the first slot waiter in it and leaves the others, which find no FREE slot, at
their places (the idle deadline in whole milliseconds is log 3). -/
def Obligations.DiscardClearsTheRecord : Prop :=
  ∀ (s : State) (g : Grant), s.modes.mode = .ready → takeGrant s = some g → g.req.kind = .discard →
    let slots := (recordOf s g.stream).slots
    let ok := plainAnswer g.stream g.req.tag .ok
    let table := s.groups.table.write g.stream .absent
    let aborted : State := { s with staging := stagingAborted s.staging slots }
    let after : HeldWrite → Nat → State := fun h c =>
      { s with
        fabric :=
          { fabricAnswered s g.stream ok with
            egress := s.fabric.egress ++ [ok, stagedAnswer h]
            takenUnanswered := s.fabric.takenUnanswered - 1 }
        wires := creditSignalled s g.stream
        groups := { s.groups with table := table.write h.stream (recordStaged s h c) }
        staging := stagingStaged aborted.staging h c }
    (slots = [] ∨ NoneHeld s →
      Answers .discard s
        { s with
          fabric := fabricAnswered s g.stream ok
          wires := creditSignalled s g.stream
          groups := { s.groups with table }
          staging := aborted.staging })
      ∧ (Completes .discard s fun t =>
        s.fabric.egress ++ [ok] <+: t.fabric.egress ∧ recordOf t g.stream = .absent
          ∧ t.groups.queue = s.groups.queue ∧ t.posted = s.posted ∧ t.reads = s.reads ∧ t.journal = s.journal
          ∧ t.media = s.media ∧ t.modes = s.modes ∧ t.regs.committedCount = s.regs.committedCount
          ∧ t.regs.lostCount = s.regs.lostCount)
      ∧ (∀ r rs c, s.staging.slotWait = [] → Released s aborted (linesReleased s slots) r rs c →
        Answers .discard s { after r.write c with claims := { s.claims with waitList := rs } })
      ∧ ∀ h hs c, Woken s aborted (linesReleased s slots) h hs c →
        Answers .discard s { after h c with staging := { (after h c).staging with slotWait := hs } }

/-! ## The expiry of deadlines -/

/-- IDLE_EXPIRY (R9, R51): a deadline that is absent or not reached changes nothing (the model's choice, log 1); one
that is reached dooms the group with IDLE, and answers a held write of the stream ABORTED(IDLE) and removes it from
its list. That a deadline is reached when the present moment in whole milliseconds is at or above it is the model's
reading (log 3); that it dooms an OPEN group whose COMMIT is held as well is the model's choice (log 32).
CONFLICT_EXPIRY (R46, R4): no deadline reached changes nothing (the model's choice, log 1); a reached one dooms the
stream's group with CONFLICT and answers its waiting write ABORTED(CONFLICT). The held write's answer comes before
the answers of the writes that the doom lets go on (log 7). -/
def Obligations.ExpiriesDoomGroups : Prop :=
  (∀ (s : State) (st : Stream),
      ((∀ slots d, recordOf s st = .opened slots (some d) → s.now / 1000 < d) → Answers (.idleExpiry st) s s)
        ∧ ∀ slots d, recordOf s st = .opened slots (some d) → d ≤ s.now / 1000 →
          (NoneHeld s →
            Answers (.idleExpiry st) s
              { s with
                groups := { s.groups with table := s.groups.table.write st (.doomed .idle) }
                staging := stagingAborted s.staging slots
                regs := abortCounted s.regs })
            ∧ ((∀ r ∈ s.claims.waitList, r.write.stream ≠ st) → (∀ h ∈ s.staging.slotWait, h.stream ≠ st) →
              Completes (.idleExpiry st) s fun t =>
                s.fabric.egress <+: t.fabric.egress ∧ recordOf t st = .doomed .idle
                  ∧ flagSet t .abort = true ∧ t.groups.queue = s.groups.queue
                  ∧ t.posted = s.posted ∧ t.reads = s.reads ∧ t.journal = s.journal ∧ t.media = s.media)
            ∧ (∀ h, ((s.claims.waitList.map WaitRecord.write ++ s.staging.slotWait).find? fun h => h.stream == st) = some h →
              Completes (.idleExpiry st) s fun t =>
                s.fabric.egress ++ [abortedAnswer st h.tag .idle] <+: t.fabric.egress
                  ∧ recordOf t st = .doomed .idle ∧ (∀ r ∈ t.claims.waitList, r.write.stream ≠ st)
                  ∧ (∀ h ∈ t.staging.slotWait, h.stream ≠ st) ∧ flagSet t .abort = true
                  ∧ t.groups.queue = s.groups.queue ∧ t.posted = s.posted ∧ t.reads = s.reads ∧ t.journal = s.journal
                  ∧ t.media = s.media))
    ∧ (∀ (s : State) (st : Stream),
      ((∀ r ∈ s.claims.waitList, r.write.stream = st → s.now < r.deadline) → Answers (.conflictExpiry st) s s)
        ∧ ∀ r, (s.claims.waitList.find? fun r => r.write.stream == st && r.deadline ≤ s.now) = some r →
          isDoomed s st = false →
          (Completes (.conflictExpiry st) s fun t =>
            s.fabric.egress ++ [abortedAnswer st r.write.tag .conflict] <+: t.fabric.egress
              ∧ recordOf t st = .doomed .conflict ∧ (∀ r ∈ t.claims.waitList, r.write.stream ≠ st)
              ∧ (∀ h ∈ t.staging.slotWait, h.stream ≠ st) ∧ flagSet t .abort = true
              ∧ t.groups.queue = s.groups.queue ∧ t.posted = s.posted ∧ t.reads = s.reads ∧ t.journal = s.journal
              ∧ t.media = s.media)
            ∧ (s.claims.waitList = [r] → s.staging.slotWait = [] →
              Answers (.conflictExpiry st) s
                { s with
                  fabric := fabricReplied s (abortedAnswer st r.write.tag .conflict)
                  claims := { s.claims with waitList := [] }
                  groups := { s.groups with table := s.groups.table.write st (.doomed .conflict) }
                  staging := stagingAborted s.staging (recordOf s st).slots
                  regs := abortCounted s.regs }))

/-! ## The media port -/

/-- MEDIA_ISSUE (R153, R155, R63, R70, R73): the granted request is sent under its own tag, or under the lowest FREE
one with no retry counted, with a deadline of the media timeout; a read's entry and a posted record learn of their
issue. The issue of a posted write lowers the posted hold of later plain reads of its line and makes ready, in that
event, the home reads whose hold reaches 0 and the next UNISSUED record (R63, R73, R152), and nothing else but the
clearing lines of a relocation's target, when they waited for it as the last write to the target that was UNISSUED
(R134; that all of them wait is the model's choice, log 34). -/
def Obligations.MediaIssueSendsTheGrantedRequest : Prop :=
  ∀ (s : State) (g : MediaGrant) (r : MediaReq), mediaGrant s = some g → s.media.requests[g.place]? = some r →
    let issue : MediaTag → Nat → Media := fun t n =>
      { s.media with
        requests := s.media.requests.set g.place { r with state := .issued t n (s.now + s.regs.mediaTimeout) }
        readTurn := g.readTurn
        foreground := g.foreground }
    let sent : MediaTag → Wires := fun t =>
      { s.wires with
        mediaOut := s.wires.mediaOut
          ++ [match r.write with
            | none => .readLine t r.line
            | some (mask, data) => .writeLine t r.line mask data] }
    let lowestFree : MediaTag → Prop := fun t =>
      (∀ q ∈ s.media.requests, q.tag? ≠ some t) ∧ ∀ u < t, ∃ q ∈ s.media.requests, q.tag? = some u
    let clearing : Serial → List MediaReq := fun serial =>
      if s.reloc.state = .formattingNew .clearing false ∧ (∀ q ∈ s.media.requests, q.requester ≠ .relocLine)
          ∧ ∀ q ∈ s.posted.records, q.issued = false → q.serial ≠ serial → s.reloc.target.contains q.line = false then
        (List.range (2 ^ s.reloc.target.k.toNat - 2)).map fun o =>
          { requester := .relocLine, line := s.reloc.target.base + BitVec.ofNat 40 ((2 + o) * 64),
            write := some (BitVec.allOnes 64, zeroLine), state := .ready }
      else []
    (∀ t n, r.state = .retryWait t n → Answers .mediaIssue s { s with media := issue t n, wires := sent t })
      ∧ ∀ t, r.state = .ready → lowestFree t →
        (r.requester.priority.isSome = true → Answers .mediaIssue s { s with media := issue t 0, wires := sent t })
          ∧ (∀ serial, r.requester = .homeRead serial →
            Answers .mediaIssue s
              { s with
                media := issue t 0
                wires := sent t
                reads := s.reads.map fun e => if e.serial = serial then { e with home := .issued } else e })
          ∧ (∀ p, r.requester = .posted p.serial →
            (s.posted.records.find? fun q => q.serial == p.serial) = some p →
            Completes .mediaIssue s fun u =>
              u.posted.records = (s.posted.records.map fun q =>
                  if q.serial = p.serial then { q with issued := true } else q)
                ∧ u.reads = (s.reads.map fun e =>
                  if e.kind = .plain ∧ e.line = p.line ∧ 0 < e.hold ∧ serialBefore p.serial e.serial = true then
                    { e with hold := e.hold - 1 }
                  else e)
                ∧ (∃ ready, u.media.requests = (issue t 0).requests ++ ready ++ clearing p.serial
                  ∧ ∀ m, m ∈ ready ↔
                    (∃ e ∈ s.reads, e.kind = .plain ∧ e.line = p.line ∧ e.hold = 1
                        ∧ serialBefore p.serial e.serial = true ∧ m = homeReadRequest e)
                      ∨ ∃ q, (s.posted.records.find? fun q => !q.issued && q.serial != p.serial) = some q
                        ∧ m = postedRequest q)
                ∧ u.wires = sent t ∧ u.fabric = s.fabric ∧ u.groups = s.groups ∧ u.staging = s.staging
                ∧ u.journal = s.journal)

/-- What the media arbiter grants can be granted (R152, R153): the request waits for its issue, all earlier requests
to its line have been issued, none outstanding to its line conflicts with it, and a request not yet issued finds a
FREE tag. With nothing to grant, MEDIA_ISSUE changes nothing (the model's choice, log 1). A request is eligible
exactly when it is not issued or waits for its reissue, every earlier request to its line is outstanding, and no
other outstanding request to its line is a write or conflicts with its being one (R152); an eligible one that has a
tag or finds one FREE can be granted, and when one can, one is. How the media arbiter chooses (R153): with both
classes able to be granted, foreground until its consecutive count is Q - 1, then background; the count grows at a
foreground grant made while background has an eligible request, and is 0 after every other grant; a home read and a
posted write alternate while both are eligible; among background requesters the first in the order of R153; within
it, and among home reads, the one that became ready first. That a request which cannot have a tag gives way to one
that holds its own is the model's reading (log 10). -/
def Obligations.MediaArbiterGrants : Prop :=
  (∀ s : State,
      (mediaGrant s = none → Answers .mediaIssue s s)
        ∧ ∀ g, mediaGrant s = some g → ∃ r, s.media.requests[g.place]? = some r
          ∧ ((r.state = .ready ∧ ∃ t : MediaTag, ∀ q ∈ s.media.requests, q.tag? ≠ some t)
            ∨ ∃ t n, r.state = .retryWait t n)
          ∧ (∀ j q, j < g.place → s.media.requests[j]? = some q → q.line = r.line → q.outstanding = true)
          ∧ ∀ j q, j ≠ g.place → s.media.requests[j]? = some q → q.outstanding = true → q.line = r.line →
            q.write = none ∧ r.write = none)
    ∧ (∀ s : State,
      let waits : (Requester → Prop) → Prop := fun p =>
        ∃ i r, s.media.requests[i]? = some r ∧ p r.requester ∧ grantable s i r = true
      let hasEligible : (Requester → Prop) → Prop := fun p =>
        ∃ i r, s.media.requests[i]? = some r ∧ p r.requester ∧ eligible s i r = true
      let fore := waits fun q => q.priority = none
      let back := waits fun q => q.priority ≠ none
      let backEligible := hasEligible fun q => q.priority ≠ none
      ((fore ∨ back) ↔ (mediaGrant s).isSome = true)
        ∧ (∀ i r, s.media.requests[i]? = some r → (eligible s i r = true ↔
          (r.state = .ready ∨ ∃ t n, r.state = .retryWait t n)
            ∧ (∀ j q, j < i → s.media.requests[j]? = some q → q.line = r.line → ∃ t, q.tag? = some t)
            ∧ ∀ j q, j ≠ i → s.media.requests[j]? = some q → q.line = r.line → (∃ t, q.tag? = some t) →
              q.write = none ∧ r.write = none))
        ∧ (∀ i r, grantable s i r = true ↔
          eligible s i r = true
            ∧ ((∃ t : MediaTag, ∀ q ∈ s.media.requests, q.tag? ≠ some t) ∨ ∃ t n, r.state = .retryWait t n))
        ∧ ∀ g r, mediaGrant s = some g → s.media.requests[g.place]? = some r →
          (fore → back → s.media.foreground < s.regs.arbQuota - 1 → r.requester.priority = none)
            ∧ (fore → back → s.regs.arbQuota - 1 ≤ s.media.foreground → r.requester.priority ≠ none)
            ∧ (r.requester.priority ≠ none → g.foreground = 0 ∧ g.readTurn = s.media.readTurn)
            ∧ (r.requester.priority = none → backEligible → g.foreground = s.media.foreground + 1)
            ∧ (r.requester.priority = none → ¬backEligible → g.foreground = 0)
            ∧ (r.requester.priority = none → (waits fun q => q.isHomeRead = true) → (waits fun q => q.isPosted = true) →
              r.requester.isHomeRead = s.media.readTurn ∧ g.readTurn = !s.media.readTurn)
            ∧ (r.requester.priority = none →
              (hasEligible fun q => q.isHomeRead = true) → (hasEligible fun q => q.isPosted = true) →
              g.readTurn = !r.requester.isHomeRead)
            ∧ (r.requester.priority = none →
              ¬((hasEligible fun q => q.isHomeRead = true) ∧ hasEligible fun q => q.isPosted = true) →
              g.readTurn = s.media.readTurn)
            ∧ (∀ m, r.requester.priority = some m → ∀ n < m, ¬waits fun q => q.priority = some n)
            ∧ ∀ j q, j < g.place → s.media.requests[j]? = some q → grantable s j q = true →
              q.requester.priority = r.requester.priority → q.requester.isHomeRead ≠ r.requester.isHomeRead)

/-- MEDIA_RETRY (R154): below the retry limit the tag waits for a reissue with one more RETRY counted and no
deadline; at the limit the request has failed exactly as by ERROR; for a tag that is not ISSUED nothing changes (the
model's choice, log 1). STALE_RESPONSE (R151, R154): a response whose tag is FREE or in RETRY_WAIT is discarded,
whatever its status. -/
def Obligations.RetryWaitsOrFailsAndStaleIsDiscarded : Prop :=
  (∀ (s : State) (t : MediaTag),
      (issuedAt s t = none → Answers (.mediaRetry t) s s)
        ∧ ∀ r n d, issuedAt s t = some r → r.state = .issued t n d →
          (n < s.regs.retryLimit →
            Answers (.mediaRetry t) s
              { s with media :=
                { s.media with
                  requests := s.media.requests.map fun q =>
                    match q.state with
                    | .issued u k _ => if u = t then { q with state := .retryWait u (k + 1) } else q
                    | .ready | .retryWait _ _ => q } })
            ∧ (s.regs.retryLimit ≤ n →
              exec (.mediaRetry t) s = exec (failCommand t r.requester) s))
    ∧ (∀ (s : State) (t : MediaTag) (status : MediaStatus),
      (tagRecord s t = none ∨ ∃ r n, tagRecord s t = some r ∧ r.state = .retryWait t n) →
      Answers (.staleResponse t status) s s)

/-! ## FAULTED and HALTED -/

/-- Entry to FAULTED (R158) by every cause: MEDIA_TIMEOUT, COMMIT_LINE_FAIL, HOME_WRITE_FAIL, CHECKPOINT_FAIL,
RESTORING_SB_FAIL, RECOVERY_MEDIA_FAIL, LINK_RESET_TIMEOUT; and its answers in their order: INDOUBT for the group of
a failed commit line (R100), ABORTED(FAULT) for held writes, SEALED entries and a JOURNALING entry whose commit line
has not been issued, INDOUBT when it has, COMMITTED with the loss flag for unanswered DURABLE and APPLYING entries,
and PORT_DOWN for reads (R21, R22, R82). The order among the held writes, among the COMMITTED and among the reads is
the model's choice (log 8). The same causes during a drain (R149): the same answers, then HALTED with INCOMPLETE,
FAULT and DRAIN_DONE both set, the start status as it was; that a failed replay write is such a cause in a drain,
and a failed recovery read is not, is the model's reading (log 14). -/
def Obligations.FatalCausesEnterFaulted : Prop :=
  (∀ (c : Instr) (s : State), Fatal c s → inDrain s = false → Completes c s fun t =>
      FaultedFrom s t ∧ (SerialsDistinct s → t.fabric.egress = s.fabric.egress ++ answersAtFault c s))
    ∧ (∀ (c : Instr) (s : State), Fatal c s → inDrain s = true →
      Completes c s fun t =>
        (∃ front, HaltedWith s t .incomplete front ∧ (SerialsDistinct s → front = answersAtFault c s))
          ∧ flagSet t .fault = true ∧ t.posted.records = [] ∧ t.media.requests = []
          ∧ t.modes.startStatus = s.modes.startStatus)

/-- PFW_ASSERT (R142): HALTED at once from IDLE and FAULTED; a drain of origin READY from READY; in DRAINING and
HALTED, and in FORMATTING after an earlier assertion, nothing but the sampled pin, which the model remembers (log
4). At entry to DRAINING from READY the answers are, in this order (R143, R21, R22, R81): ABORTED(POWERFAIL) for
held writes, then for SEALED entries in queue order; POWERFAIL for reads whose home read has not been issued;
POWERFAIL for every request in the ingress queues; JOURNALING, DURABLE and APPLYING entries are kept unanswered.
Home reads, home writes and relocation lines not yet issued are withdrawn, every other request stays (R81, R108,
R140). The order among the held writes and among the reads is the model's choice (log 8). PFW_ASSERT in RECOVERING
and in FORMATTING (R131, R143, R148): INTERRUPTED, the requests of the recovery or the format that are not yet
issued withdrawn, and a drain of that origin, which ends at once with COMPLETE exactly when nothing is outstanding. -/
def Obligations.PowerFailWarningByMode : Prop :=
  let kept : State → List MediaReq := fun s => s.media.requests.filter fun r =>
    r.outstanding || !(r.requester.isHomeRead || r.requester.isHomeWrite || r.requester.isReloc)
  (∀ s : State,
      (s.modes.mode = .idle → Completes .pfwAssert s fun t =>
          HaltedWith s t .complete (owedAtHalt s) ∧ t.drain.pfwAsserted = true)
        ∧ (s.modes.mode = .faulted → Completes .pfwAssert s fun t =>
          HaltedWith s t (if s.drain.faultLoss then .incomplete else .complete) (owedAtHalt s)
            ∧ t.drain.pfwAsserted = true)
        ∧ (s.modes.mode = .ready → Completes .pfwAssert s fun t =>
          t.modes = { s.modes with mode := .draining } ∧ t.drain.status = .active ∧ t.drain.origin = some .ready
            ∧ t.drain.deadline = some (s.now + s.regs.drainBudget) ∧ t.drain.pfwAsserted = true
            ∧ (∀ st, recordOf t st = .absent) ∧ (∀ e ∈ t.groups.queue, e.state ≠ .sealed) ∧ NoneHeld t
            ∧ (SerialsDistinct s → t.groups.queue = s.groups.queue.filter fun e => e.state != .sealed)
            ∧ (∀ e ∈ t.reads, e.home ≠ .waiting) ∧ t.posted.records = s.posted.records ∧ t.reloc.state = .none
            ∧ kept s <+: t.media.requests
            ∧ t.journal = s.journal
            ∧ QueuesAnswered s t
              (heldAnswers s .powerfail
                ++ s.groups.queue.flatMap (fun e =>
                  if e.state = .sealed then [abortedAnswer e.stream e.tag .powerfail] else [])
                ++ (s.reads.filter fun e => e.home == .waiting).map fun e => plainAnswer e.stream e.tag .powerfail)
              .powerfail)
        ∧ ((s.modes.mode = .draining ∨ s.modes.mode = .halted
            ∨ (s.modes.mode = .formatting ∧ s.drain.status = .active)) →
          Answers .pfwAssert s { s with drain := { s.drain with pfwAsserted := true } }))
    ∧ (∀ s : State,
      (s.modes.mode = .recovering → Completes .pfwAssert s fun t =>
          t.modes.startStatus = .interrupted ∧ t.recovery = none ∧ flagSet t .recoveryDone = true
            ∧ t.media.requests = (kept s).filter (fun r => r.outstanding || !r.requester.isRecovery)
            ∧ t.media.linkOwed = s.media.linkOwed
            ∧ ((t.modes.mode = .draining ∧ t.drain.status = .active ∧ t.drain.origin = some .recovering
                ∧ t.drain.deadline = some (s.now + s.regs.drainBudget)
                ∧ (t.media.requests ≠ [] ∨ t.media.linkOwed = true))
              ∨ (t.modes.mode = .halted ∧ t.drain.status = .complete ∧ t.media.requests = []
                ∧ t.media.linkOwed = false))
            ∧ (s.groups.queue = [] → NoneHeld s → s.reads = [] → QueuesAnswered s t [] .powerfail))
        ∧ (s.modes.mode = .formatting → s.drain.status ≠ .active → Completes .pfwAssert s fun t =>
          let issued := ∃ r ∈ s.media.requests, r.outstanding = true ∧ r.requester.isFormat = true
          t.modes.startStatus = .interrupted ∧ t.format = none
            ∧ t.media.requests = (s.media.requests.filter fun r => r.outstanding || !r.requester.isFormat)
            ∧ (issued → t.modes.mode = .formatting ∧ t.drain.status = .active ∧ t.drain.origin = some .formatting
                ∧ t.drain.deadline = some (s.now + s.regs.drainBudget) ∧ t.fabric = s.fabric)
            ∧ (¬issued → HaltedWith s t .complete (owedAtHalt s))))

/-- DRAIN_BUDGET_EXPIRY (R146, R148): HALTED with INCOMPLETE, every request abandoned; in DRAINING the writer's
group is answered INDOUBT when its commit line has been issued and ABORTED(POWERFAIL) when not, reads are answered
POWERFAIL, the posted writes are lost, and the kept entries not yet answered are answered COMMITTED with the loss
flag (R22, R147), in this order (the order among the reads and among the COMMITTED is the model's choice, log 8). -/
def Obligations.DrainBudgetExpiryEntersHalted : Prop :=
  ∀ (s : State) (d : Nat), s.drain.deadline = some d → d ≤ s.now →
    (s.modes.mode = .draining → Completes .drainBudgetExpiry s fun t =>
        HaltedWith s t .incomplete
            ((journalingEntry s).toList.map (writerAnswer s.media.requests .powerfail)
              ++ s.reads.map (fun e => plainAnswer e.stream e.tag .powerfail)
              ++ (s.groups.queue.filter fun e => (journalingEntry s).all fun x => e.serial != x.serial).flatMap owedAnswer)
          ∧ t.media.requests = [] ∧ t.posted.records = []
          ∧ (s.posted.records ≠ [] → flagSet t .postedLost = true)
          ∧ t.journal = { s.journal with writer := .idle }
          ∧ (∀ e, journalingEntry s = some e →
            let issued := ∃ r ∈ s.media.requests, r.requester = .commitLine ∧ r.outstanding = true
            (issued → s.fabric.egress ++ [plainAnswer e.stream e.tag .indoubt] <+: t.fabric.egress
                ∧ flagSet t .indoubt = true)
              ∧ (¬issued → s.fabric.egress ++ [abortedAnswer e.stream e.tag .powerfail] <+: t.fabric.egress
                ∧ flagSet t .abort = true)))
      ∧ (s.modes.mode = .formatting → s.drain.status = .active → Completes .drainBudgetExpiry s fun t =>
        HaltedWith s t .incomplete (owedAtHalt s) ∧ t.media.requests = [])

/-! ## The journal writer and the apply engine -/

/-- JOURNAL_LINE_OK and JOURNAL_LINE_FAIL while other lines of the record are ready or outstanding (R97, R99): the
tag is freed; a failure withdraws the lines not yet issued and is remembered. JOURNAL_LINE_OK of the last line
(R97): with no line failed the commit line is handed over, at the last offset of the extent, with the CRC of the
whole body. -/
def Obligations.JournalLineOutcomes : Prop :=
  (∀ (s : State) (t : MediaTag) (i : Nat) (failed : Bool), Carries s t (.journalLine i) →
      s.journal.writer = .writing failed →
      ((∃ r ∈ requestsWithout s t, r.requester.isJournalLine = true) →
        Answers (.journalLineOk t) s { s with media := { s.media with requests := requestsWithout s t } })
        ∧ ((∃ r ∈ requestsWithout s t, r.requester.isJournalLine = true ∧ r.outstanding = true) →
          Answers (.journalLineFail t) s
            { s with
              journal := { s.journal with writer := .writing true }
              media :=
                { s.media with
                  requests := (requestsWithout s t).filter fun r => r.outstanding || !r.requester.isJournalLine } }))
    ∧ (∀ (s : State) (t : MediaTag) (i : Nat) (e : Entry) (x : Extent) (seq : Seq), Carries s t (.journalLine i) →
      s.journal.writer = .writing false → (∀ r ∈ requestsWithout s t, r.requester.isJournalLine = false) →
      (s.groups.queue.find? fun e => e.state == .journaling) = some e → e.extent = some x → e.seq = some seq →
      (∀ n ∈ e.slots, (slotAt s n).isSome = true) →
      let lines := e.slots.filterMap fun n => (slotAt s n).map fun v => (v.line, v.mask, v.data)
      let n := e.slots.length
      let offset := (x.start + (n + (n + 3) / 4 + 1)) % s.journal.region.ringLength
      Answers (.journalLineOk t) s
        { s with media :=
          { s.media with
            requests := requestsWithout s t
              ++ [{ requester := .commitLine, line := s.journal.region.base + BitVec.ofNat 40 ((2 + offset) * 64),
                    write := some (BitVec.allOnes 64, commitLine n seq (crcLines (recordBody e.stream seq lines))),
                    state := .ready }] } })

/-- The end of a failed record (R15, R99), in the last outcome, with no write held, nothing else SEALED, no
relocation that waits and no drain: JOURNAL_ERROR; ABORTED(JOURNAL_ERROR), counted; the versions aborted; the writer
IDLE with its pointers unchanged. With SEALED entries behind it, in READY, the writer begins the oldest of them that
has slots in the same event, with the same next sequence and head (R95, R96, R99). -/
def Obligations.FailedRecordAbortsItsGroup : Prop :=
  (∀ (s : State) (t : MediaTag) (i : Nat) (e : Entry) (failed : Bool), Carries s t (.journalLine i) →
    s.journal.writer = .writing failed → NoneHeld s → s.reloc.state ≠ .pending → s.modes.mode ≠ .draining →
    (s.groups.queue.find? fun e => e.state == .journaling) = some e → (∀ x ∈ s.groups.queue, x.state ≠ .sealed) →
    let after : State :=
      { s with
        fabric := fabricReplied s (abortedAnswer e.stream e.tag .journalError)
        posted := { s.posted with lossMarks := s.posted.lossMarks.write e.stream false }
        groups := { s.groups with queue := s.groups.queue.filter fun x => x.serial != e.serial }
        staging := stagingAborted s.staging e.slots
        journal := { s.journal with writer := .idle }
        regs := abortCounted (flagged s.regs .journalError)
        media :=
          { s.media with
            requests := (requestsWithout s t).filter fun r => r.outstanding || !r.requester.isJournalLine } }
    ((∀ r ∈ requestsWithout s t, r.requester.isJournalLine = true → r.outstanding = false) →
      Answers (.journalLineFail t) s after)
      ∧ (failed = true → (∀ r ∈ requestsWithout s t, r.requester.isJournalLine = false) →
        Answers (.journalLineOk t) s after))
    ∧ ∀ (s : State) (t : MediaTag) (i : Nat) (e d : Entry) (failed : Bool), Carries s t (.journalLine i) →
      s.journal.writer = .writing failed → NoneHeld s → s.reloc.state ≠ .pending → s.modes.mode = .ready →
      SerialsDistinct s → (s.groups.queue.find? fun e => e.state == .journaling) = some e →
      oldestWith s (fun x => x.state == .sealed) = some d → (∀ n ∈ d.slots, n ∉ e.slots) →
      let left := (requestsWithout s t).filter fun r => r.outstanding || !r.requester.isJournalLine
      let next : State → Prop := fun u =>
        JournalBegun s u d s.journal.nextSeq s.journal.head s.journal.used left
          ∧ s.fabric.egress ++ [abortedAnswer e.stream e.tag .journalError] <+: u.fabric.egress
          ∧ (∀ y ∈ u.groups.queue, y.serial ≠ e.serial)
          ∧ ∃ w, u.journal = { s.journal with writer := w }
      ((∀ r ∈ requestsWithout s t, r.requester.isJournalLine = true → r.outstanding = false) →
        Completes (.journalLineFail t) s next)
        ∧ (failed = true → (∀ r ∈ requestsWithout s t, r.requester.isJournalLine = false) →
          Completes (.journalLineOk t) s next)

/-- COMMIT_LINE_OK (R98, R14, R18): durable-through, next sequence, head, used and the committed count; the entry
leaves JOURNALING; COMMITTED at once, and once, when no barrier is left. The claims that its versions gave are
released in the same event (R14, R47, R48): the first waiting write for such a line is staged and answered STAGED,
before the group's own COMMITTED (that order is the model's reading, log 7), and the other waiting writes, a second
one for that line among them, stay (the idle deadline in whole milliseconds is log 3). With no write held, in READY,
the same event begins what can now begin: the writer takes the oldest SEALED entry that has slots, with the next
sequence and the advanced head, or is IDLE (R95, R96, R97); an idle apply engine takes the oldest DURABLE entry that
has slots (R104, R105), the group itself when no older one waits, and its home writes, one for each slot, are handed
over; the two entries begun are to have no slot in common, as the law of owners in StepsKeepTheSharedLaws keeps it
(R23). COMMIT_LINE_FAIL (R15, R20, R100): its group is answered INDOUBT, the flag is set and no pointer moves; the
entry to FAULTED is FatalCausesEnterFaulted. -/
def Obligations.CommitLineOutcomes : Prop :=
  (∀ (s : State) (t : MediaTag) (e : Entry) (x : Extent) (seq : Seq), Carries s t .commitLine →
      (s.groups.queue.find? fun e => e.state == .journaling) = some e → e.extent = some x → e.seq = some seq →
      SerialsDistinct s → (s.modes.mode = .draining → s.drain.origin = some .ready) →
      let own := if e.barrier = 0 ∧ e.answered = false then
          [committedAnswer e.stream e.tag (e.lossMark || lossMark s e.stream)] else []
      Completes (.commitLineOk t) s fun u =>
        u.journal.durableThrough = seq ∧ u.journal.nextSeq = seq + 1
          ∧ u.journal.head = (s.journal.head + x.length) % s.journal.region.ringLength
          ∧ u.journal.used = s.journal.used + x.length
          ∧ u.journal.appliedThrough = s.journal.appliedThrough ∧ u.journal.region = s.journal.region
          ∧ u.regs.committedCount = s.regs.committedCount + 1
          ∧ (∀ y ∈ u.groups.queue, y.serial = e.serial → y.state = .durable ∨ y.state = .applying)
          ∧ ∃ front back, u.fabric.egress = s.fabric.egress ++ front ++ own ++ back
            ∧ (∀ r ∈ front, r.status = .staged ∨ r.status = .aborted)
            ∧ ∀ r ∈ back, r.status = .committed ∧ ∃ y ∈ s.groups.queue, y.serial ≠ e.serial ∧ y.state = .sealed
              ∧ y.slots = [] ∧ r.stream = y.stream ∧ r.tag = y.tag)
    ∧ (∀ (s : State) (t : MediaTag) (e : Entry) (x : Extent) (seq : Seq) (r : WaitRecord) (rs : List WaitRecord) (c : Nat),
      Carries s t .commitLine → s.modes.mode = .ready →
      (s.groups.queue.find? fun e => e.state == .journaling) = some e → e.extent = some x → e.seq = some seq →
      (s.groups.queue.find? fun y => y.serial == e.serial) = some e →
      let durable : Slot → Slot := fun v => if v.num ∈ e.slots then { v with state := .durable } else v
      let a : State := { s with staging := { s.staging with slots := s.staging.slots.map durable } }
      Released s a (linesReleased s e.slots) r rs c → (∀ y ∈ s.groups.queue, c ∉ y.slots) →
      Completes (.commitLineOk t) s fun u =>
        s.fabric.egress ++ [stagedAnswer r.write] <+: u.fabric.egress ∧ u.claims.waitList = rs
          ∧ recordOf u r.write.stream = recordStaged s r.write c ∧ stagedSlot r.write c ∈ u.staging.slots)
    ∧ (∀ (s : State) (t : MediaTag) (e : Entry) (x : Extent) (seq : Seq), Carries s t .commitLine → NoneHeld s →
      s.modes.mode = .ready → s.reloc.state ≠ .pending → SerialsDistinct s →
      (s.groups.queue.find? fun e => e.state == .journaling) = some e → e.extent = some x → e.seq = some seq →
      e.slots ≠ [] → e.homeDone = false →
      let applied : State → Prop := fun u =>
        (∀ d, s.apply.current = none →
            oldestWith s (fun y => y.state == .durable || y.serial == e.serial) = some d → ApplyBegun s u d)
          ∧ (s.apply.current ≠ none → u.apply = s.apply)
      (oldestWith s (fun y => y.state == .sealed) = none → Completes (.commitLineOk t) s fun u =>
          applied u ∧ u.journal.writer = .idle
            ∧ (s.apply.current ≠ none → u.media.requests = requestsWithout s t)
            ∧ ∀ d, s.apply.current = none →
              oldestWith s (fun y => y.state == .durable || y.serial == e.serial) = some d →
              u.media.requests = requestsWithout s t ++ homeWritesOf s d)
        ∧ ∀ d, oldestWith s (fun y => y.state == .sealed) = some d →
          (∀ f, s.apply.current = none →
            oldestWith s (fun y => y.state == .durable || y.serial == e.serial) = some f → ∀ n ∈ d.slots, n ∉ f.slots) →
          Completes (.commitLineOk t) s fun u =>
            applied u
              ∧ JournalBegun s u d (seq + 1) ((s.journal.head + x.length) % s.journal.region.ringLength)
                (s.journal.used + x.length) (requestsWithout s t))
    ∧ (∀ (s : State) (t : MediaTag) (e : Entry), Carries s t .commitLine →
      (s.groups.queue.find? fun e => e.state == .journaling) = some e →
      Completes (.commitLineFail t) s fun u =>
        s.fabric.egress ++ [plainAnswer e.stream e.tag .indoubt] <+: u.fabric.egress ∧ flagSet u .indoubt = true
          ∧ u.journal = { s.journal with writer := .idle } ∧ u.groups.queue = [])

/-- HOME_WRITE_OK that leaves others outstanding (R106), with no write held and no relocation that waits: the slot
is SPENT, and FREE when no read pins it; in READY with writes that wait for a slot, the freed slot goes to the first
of them in the same event, and the others stay (R34; the idle deadline in whole milliseconds is log 3); in DRAINING
the drain's conditions are tested (R145). HOME_WRITE_OK that empties the outstanding set (R106): applied-through,
the retired tail and the retired span; an answered entry leaves, one that is not yet answered stays. In READY the
engine then begins the oldest DURABLE entry that has slots, and is IDLE when there is none (R104, R105, R106 step
7). In DRAINING, when a home write of the group was withdrawn, the group does not complete: applied-through, the
retired tail and the retired span stay (R108), and the engine is IDLE and the entry stays in the queue (the model's
reading, log 28). -/
def Obligations.HomeWriteOkSpendsAndCompletes : Prop :=
  (∀ (s : State) (t : MediaTag) (n : Nat), Carries s t (.homeWrite n) → NoneHeld s → s.reloc.state ≠ .pending →
      s.modes.mode ≠ .draining → (∃ m ∈ s.apply.outstanding, m ≠ n) →
      Answers (.homeWriteOk t) s
        { s with
          apply := { s.apply with outstanding := s.apply.outstanding.filter fun m => m != n }
          staging :=
            { s.staging with
              slots := s.staging.slots.filterMap fun v =>
                if v.num = n then if v.pins = 0 then none else some { v with state := .spent, owner := none } else some v
              index := s.staging.index.filter fun x => x.slot ≠ n }
          media := { s.media with requests := requestsWithout s t } })
    ∧ (∀ (s : State) (t : MediaTag) (n : Nat), Carries s t (.homeWrite n) → s.reloc.state ≠ .pending →
      s.modes.mode = .ready → (∃ m ∈ s.apply.outstanding, m ≠ n) →
      let spent : Staging :=
        { s.staging with
          slots := s.staging.slots.filterMap fun v =>
            if v.num = n then if v.pins = 0 then none else some { v with state := .spent, owner := none } else some v
          index := s.staging.index.filter fun x => x.slot ≠ n }
      ∀ h hs c, Woken s { s with staging := spent } [] h hs c →
        Answers (.homeWriteOk t) s
          { s with
            apply := { s.apply with outstanding := s.apply.outstanding.filter fun m => m != n }
            staging := { stagingStaged spent h c with slotWait := hs }
            groups := { s.groups with table := s.groups.table.write h.stream (recordStaged s h c) }
            fabric := fabricReplied s (stagedAnswer h)
            media := { s.media with requests := requestsWithout s t } })
    ∧ (∀ (s : State) (t : MediaTag) (n : Nat), Carries s t (.homeWrite n) → NoneHeld s → s.reloc.state ≠ .pending →
      s.modes.mode = .draining → (∃ m ∈ s.apply.outstanding, m ≠ n) →
      DrainsTo (.homeWriteOk t) s
        { s with
          apply := { s.apply with outstanding := s.apply.outstanding.filter fun m => m != n }
          staging :=
            { s.staging with
              slots := s.staging.slots.filterMap fun v =>
                if v.num = n then if v.pins = 0 then none else some { v with state := .spent, owner := none } else some v
              index := s.staging.index.filter fun x => x.slot ≠ n }
          media := { s.media with requests := requestsWithout s t } })
    ∧ (∀ (s : State) (t : MediaTag) (n : Nat) (e : Entry) (x : Extent) (seq : Seq), Carries s t (.homeWrite n) →
      (∀ m ∈ s.apply.outstanding, m = n) → s.apply.current = some e.serial →
      (s.groups.queue.find? fun y => y.serial == e.serial) = some e → e.extent = some x → e.seq = some seq →
      Completes (.homeWriteOk t) s fun u =>
        (s.apply.withdrawn = false →
          u.journal.appliedThrough = seq
            ∧ u.journal.retiredTail = (x.start + x.length) % s.journal.region.ringLength
            ∧ u.journal.retiredSpan = s.journal.retiredSpan + x.length
            ∧ (e.answered = true → ∀ y ∈ u.groups.queue, y.serial ≠ e.serial)
            ∧ (e.answered = false → s.modes.mode ≠ .draining →
              ∃ y ∈ u.groups.queue, y.serial = e.serial ∧ y.homeDone = true)
            ∧ (s.regs.ckptInterval ≤ (seq - s.ckpt.applied).toNat → s.modes.mode ≠ .draining →
              u.ckpt.inFlight.isSome = true))
          ∧ (s.apply.withdrawn = true → s.modes.mode = .draining →
            u.apply = Apply.reset ∧ u.journal.appliedThrough = s.journal.appliedThrough
              ∧ u.journal.retiredTail = s.journal.retiredTail ∧ u.journal.retiredSpan = s.journal.retiredSpan
              ∧ (s.drain.origin = some .ready → u.journal = s.journal ∧ u.groups.queue = s.groups.queue))
          ∧ u.journal.used = s.journal.used ∧ u.journal.releasedTail = s.journal.releasedTail
          ∧ u.journal.durableThrough = s.journal.durableThrough ∧ u.journal.nextSeq = s.journal.nextSeq)
    ∧ (∀ (s : State) (t : MediaTag) (n : Nat) (e : Entry) (x : Extent) (seq : Seq), Carries s t (.homeWrite n) →
      NoneHeld s → s.modes.mode = .ready → s.reloc.state ≠ .pending → SerialsDistinct s →
      (∀ m ∈ s.apply.outstanding, m = n) → s.apply.current = some e.serial → s.apply.withdrawn = false →
      (s.groups.queue.find? fun y => y.serial == e.serial) = some e → e.state = .applying → e.extent = some x →
      e.seq = some seq →
      (oldestWith s (fun y => y.state == .durable) = none → Completes (.homeWriteOk t) s fun u => u.apply = Apply.reset)
        ∧ ∀ d, oldestWith s (fun y => y.state == .durable) = some d → n ∉ d.slots →
          Completes (.homeWriteOk t) s fun u => ApplyBegun s u d ∧ requestsWithout s t <+: u.media.requests)

/-! ## The checkpoint writer -/

/-- CHECKPOINT_OK (R112): the released tail, used and the retired span, the counter, the checkpointed
applied-through, the other slot, no errors. In phase FINAL of a recovery the part enters READY (R130); after the
final drain trigger it enters HALTED with COMPLETE (R145). In READY: a relocation in PENDING enters FORMATTING_NEW
and hands over every clearing line, in offset order (log 11), or, while a plain write to the target is UNISSUED,
none of them yet (R134; all of them waiting is the model's choice, log 34), when the commit queue is empty, the
checkpoint recorded all that is durable and no trigger is pending (R135, R136), and stays where it is when one of
these fails; a writer that waits for space enters WRITING and hands over its record's lines when the record now
fits, and else goes on waiting and asks for the next checkpoint while the tails differ (R96, R112 step 6).
CHECKPOINT_FAIL that is not the third in a row, in READY and in DRAINING (R113): CHECKPOINT_ERROR and the count; the
pointers and the writer's values stay; a kept trigger, and a request of the same event, begin the next checkpoint;
in DRAINING with neither, the drain's conditions are tested again, so that the final trigger is raised again and the
same slot is written with the same counter (R145). The order of the COMMITTED that HALTED owes is the model's
choice (log 8). -/
def Obligations.CheckpointOutcomes : Prop :=
  (∀ (s : State) (t : MediaTag) (f : InFlight), Carries s t .checkpoint → s.ckpt.inFlight = some f →
      Completes (.checkpointOk t) s fun u =>
        u.journal.releasedTail = f.sb.tail ∧ u.journal.used = s.journal.used - f.span
          ∧ u.journal.retiredSpan = s.journal.retiredSpan - f.span ∧ u.journal.head = s.journal.head
          ∧ u.ckpt.counter = f.sb.counter ∧ u.ckpt.applied = f.sb.applied ∧ u.ckpt.nextSlot = s.ckpt.nextSlot.other
          ∧ u.ckpt.errors = 0
          ∧ (s.modes.mode = .ready → (s.ckpt.trigger = true → u.ckpt.inFlight.isSome = true) ∧ u.ckpt.trigger = false)
          ∧ (∀ r, s.modes.mode = .recovering → s.recovery = some r → r.phase = .final →
            u.modes.mode = .ready ∧ u.modes.startStatus = .ok ∧ u.recovery = none ∧ u.staging.scratch = none
              ∧ flagSet u .recoveryDone = true)
          ∧ (s.modes.mode = .draining → s.drain.finalRaised = true → HaltedWith s u .complete (owedAtHalt s)))
    ∧ (∀ (s : State) (t : MediaTag) (f : InFlight), Carries s t .checkpoint → s.ckpt.inFlight = some f →
      s.modes.mode = .ready →
      let journal : Journal :=
        { s.journal with
          releasedTail := f.sb.tail, used := s.journal.used - f.span, retiredSpan := s.journal.retiredSpan - f.span }
      let target := s.reloc.target
      (s.reloc.state = .pending → s.groups.queue = [] → f.sb.applied = s.journal.durableThrough →
        s.ckpt.trigger = false → s.journal.writer = .idle →
        (s.journal.appliedThrough - f.sb.applied).toNat < s.regs.ckptInterval →
        Answers (.checkpointOk t) s
          { s with
            journal
            ckpt :=
              { counter := f.sb.counter, nextSlot := s.ckpt.nextSlot.other, applied := f.sb.applied, errors := 0,
                inFlight := none, trigger := false }
            reloc := { s.reloc with state := .formattingNew .clearing false }
            media :=
              { s.media with
                requests := requestsWithout s t
                  ++ if ∃ p ∈ s.posted.records, p.issued = false ∧ target.contains p.line = true then [] else
                    (List.range (2 ^ target.k.toNat - 2)).map fun o =>
                      { requester := .relocLine, line := target.base + BitVec.ofNat 40 ((2 + o) * 64),
                        write := some (BitVec.allOnes 64, zeroLine), state := .ready } } })
        ∧ ((s.reloc.state ≠ .pending ∨ s.groups.queue ≠ [] ∨ f.sb.applied ≠ s.journal.durableThrough
            ∨ s.ckpt.trigger = true) →
          Completes (.checkpointOk t) s fun u => u.reloc = s.reloc)
        ∧ ∀ e x seq, s.journal.writer = .waitingSpace →
          (s.groups.queue.find? fun e => e.state == .journaling) = some e → e.extent = some x → e.seq = some seq →
          let lines := e.slots.filterMap fun n => (slotAt s n).map fun v => (v.line, v.mask, v.data)
          (x.length ≤ s.journal.region.ringLength - journal.used → Completes (.checkpointOk t) s fun u =>
              u.journal = { journal with writer := .writing false }
                ∧ requestsWithout s t
                    ++ lineRequests s.journal.region x.start 0 (recordBody e.stream seq lines) <+: u.media.requests
                ∧ u.groups = s.groups)
            ∧ (s.journal.region.ringLength - journal.used < x.length → Completes (.checkpointOk t) s fun u =>
              u.journal = journal ∧ (0 < journal.retiredSpan → u.ckpt.inFlight.isSome = true) ∧ u.groups = s.groups))
    ∧ (∀ (s : State) (t : MediaTag), Carries s t .checkpoint → s.modes.mode = .ready → s.ckpt.errors < 2 →
      Completes (.checkpointFail t) s fun u =>
        flagSet u .checkpointError = true ∧ u.ckpt.errors = s.ckpt.errors + 1 ∧ u.journal = s.journal
          ∧ u.ckpt.counter = s.ckpt.counter ∧ u.ckpt.applied = s.ckpt.applied ∧ u.ckpt.nextSlot = s.ckpt.nextSlot
          ∧ u.ckpt.trigger = false ∧ u.modes = s.modes ∧ u.groups = s.groups ∧ u.staging = s.staging
          ∧ u.fabric = s.fabric
          ∧ (u.ckpt.inFlight.isSome = true ↔
            s.ckpt.trigger = true ∨ (s.journal.writer = .waitingSpace ∧ 0 < s.journal.retiredSpan)
              ∨ (s.reloc.state = .pending ∧ s.groups.queue = []))
          ∧ ∀ f, u.ckpt.inFlight = some f → f.sb.counter = s.ckpt.counter + 1 ∧ f.span = s.journal.retiredSpan)
    ∧ (∀ (s : State) (t : MediaTag), Carries s t .checkpoint → s.modes.mode = .draining → s.ckpt.errors < 2 →
      s.reloc.state ≠ .pending →
      let again := s.ckpt.trigger = true ∨ (s.journal.writer = .waitingSpace ∧ 0 < s.journal.retiredSpan)
      let failed : State :=
        { s with
          regs := flagged s.regs .checkpointError
          ckpt := { s.ckpt with errors := s.ckpt.errors + 1, inFlight := none, trigger := false }
          media := { s.media with requests := requestsWithout s t } }
      (again → Answers (.checkpointFail t) s (checkpointBegun failed))
        ∧ (¬again → DrainsTo (.checkpointFail t) s failed))

/-! ## Format -/

/-- FORMAT_LINE_OK and FORMAT_LINE_FAIL outside a drain (R120): others remaining, a success frees its tag and a
failure withdraws the lines not yet issued; the last of the clearing lines hands over both superblocks; the last
superblock enters READY with a format's values; the last line of a failed format returns to IDLE with MEDIA_FAULT.
After PFW_N has ended the format (R148): an outcome, OK or failed, frees its tag and changes no pointer and no start
status, and the last one enters HALTED with COMPLETE (the order of the COMMITTED that HALTED owes is the model's
choice, log 8). -/
def Obligations.FormatLinesRunTheTwoStages : Prop :=
  (∀ (s : State) (t : MediaTag) (f : Format), Carries s t .formatLine → s.format = some f → inDrain s = false →
    let others := ∃ r ∈ requestsWithout s t, r.requester = .formatLine
    let media : Media := { s.media with requests := requestsWithout s t }
    let left := (requestsWithout s t).filter fun r => r.outstanding || !r.requester.isFormat
    let sb : BitVec 64 → Superblock := fun c =>
      { base := s.journal.region.base, counter := c, applied := 0, nextSeq := 1, relocBase := 0, tail := 0,
        k := s.journal.region.k.setWidth 8, relocK := 0, retired := false }
    (others → Answers (.formatLineOk t) s { s with media })
      ∧ ((∃ r ∈ requestsWithout s t, r.requester = .formatLine ∧ r.outstanding = true) →
        Answers (.formatLineFail t) s
          { s with media := { s.media with requests := left }, format := some { stage := f.stage, failed := true } })
      ∧ (¬others → f.failed = false → f.stage = .clearing →
        Answers (.formatLineOk t) s
          { s with
            format := some { stage := .superblocks, failed := false }
            media :=
              { s.media with
                requests := requestsWithout s t
                  ++ [{ requester := .formatLine, line := s.journal.region.base,
                        write := some (BitVec.allOnes 64, superblockLine (sb 1)), state := .ready },
                    { requester := .formatLine, line := s.journal.region.base + 0x40#40,
                      write := some (BitVec.allOnes 64, superblockLine (sb 2)), state := .ready }] } })
      ∧ (¬others → f.failed = false → f.stage = .superblocks → Completes (.formatLineOk t) s fun u =>
        u.modes.mode = .ready ∧ u.modes.startStatus = .ok ∧ u.format = none
          ∧ u.journal =
            { s.journal with
              head := 0, used := 0, retiredTail := 0, releasedTail := 0, retiredSpan := 0, nextSeq := 1,
              durableThrough := 0, appliedThrough := 0 }
          ∧ u.ckpt.counter = 2 ∧ u.ckpt.nextSlot = .a ∧ u.ckpt.applied = 0 ∧ u.ckpt.errors = 0
          ∧ u.regs.flags = s.regs.flags ∧ u.fabric = s.fabric)
      ∧ (f.failed = true → ¬others →
        Answers (.formatLineOk t) s
          { s with
            media, format := none, modes := { s.modes with mode := .idle, startStatus := .mediaFault } })
      ∧ ((∀ r ∈ requestsWithout s t, r.requester = .formatLine → r.outstanding = false) →
        Answers (.formatLineFail t) s
          { s with
            media := { s.media with requests := left }
            format := none
            modes := { s.modes with mode := .idle, startStatus := .mediaFault } }))
    ∧ ∀ (s : State) (t : MediaTag), Carries s t .formatLine → s.format = none → s.modes.mode = .formatting →
      s.drain.status = .active →
      let left : State := { s with media := { s.media with requests := requestsWithout s t } }
      ((∃ r ∈ requestsWithout s t, r.requester.isFormat = true) →
        Answers (.formatLineOk t) s left ∧ Answers (.formatLineFail t) s left)
        ∧ ((∀ r ∈ requestsWithout s t, r.requester.isFormat = false) →
          Completes (.formatLineOk t) s (fun u => HaltedWith s u .complete (owedAtHalt s)
              ∧ u.modes.startStatus = s.modes.startStatus
              ∧ u.journal = { s.journal with writer := .idle })
            ∧ Completes (.formatLineFail t) s (fun u => HaltedWith s u .complete (owedAtHalt s)
              ∧ u.modes.startStatus = s.modes.startStatus
              ∧ u.journal = { s.journal with writer := .idle }))

/-! ## Relocation -/

/-- RELOC_LINE_OK and RELOC_LINE_FAIL outside a drain (R136): the two stages, then HELD with RELOC_READY or
RETIRING_OLD with the first retiring superblock (R138); a failure withdraws the rest, and the last outcome of a
failed preparation ends the relocation FAILED. After a drain has cancelled the relocation (R140): an outcome frees
its tag, changes nothing further, and the drain's conditions are tested (R145). -/
def Obligations.RelocationLinesPrepareTheTarget : Prop :=
  (∀ (s : State) (t : MediaTag) (stage : ClearStage) (failed : Bool), Carries s t .relocLine →
    s.reloc.state = .formattingNew stage failed → s.modes.mode ≠ .draining →
    let others := ∃ r ∈ requestsWithout s t, r.requester = .relocLine
    let media : Media := { s.media with requests := requestsWithout s t }
    let left := (requestsWithout s t).filter fun r => r.outstanding || !r.requester.isRelocLine
    let target := s.reloc.target
    let sb : BitVec 64 → Superblock := fun c =>
      { base := target.base, counter := c, applied := s.journal.appliedThrough, nextSeq := s.journal.nextSeq,
        relocBase := 0, tail := 0, k := target.k.setWidth 8, relocK := 0, retired := false }
    let retiring : Superblock :=
      { base := s.journal.region.base, counter := s.ckpt.counter + 1, applied := s.journal.appliedThrough,
        nextSeq := s.journal.nextSeq, relocBase := s.reloc.target.base, tail := s.journal.head,
        k := s.journal.region.k.setWidth 8, relocK := s.reloc.target.k.setWidth 8, retired := true }
    let ended : Media → State := fun media =>
      { s with
        media
        reloc := { s.reloc with state := .none, result := .failed }
        decoder := { s.decoder with guardTarget := none }
        regs := flagged s.regs .relocDone }
    (others → Answers (.relocLineOk t) s { s with media })
      ∧ ((∃ r ∈ requestsWithout s t, r.requester = .relocLine ∧ r.outstanding = true) →
        Answers (.relocLineFail t) s
          { s with
            media := { s.media with requests := left }, reloc := { s.reloc with state := .formattingNew stage true } })
      ∧ (¬others → failed = false → stage = .clearing →
        Answers (.relocLineOk t) s
          { s with
            reloc := { s.reloc with state := .formattingNew .superblocks false }
            media :=
              { s.media with
                requests := requestsWithout s t
                  ++ [{ requester := .relocLine, line := target.base,
                        write := some (BitVec.allOnes 64, superblockLine (sb 1)), state := .ready },
                    { requester := .relocLine, line := target.base + 0x40#40,
                      write := some (BitVec.allOnes 64, superblockLine (sb 2)), state := .ready }] } })
      ∧ (¬others → failed = false → stage = .superblocks → s.reloc.hold = true →
        Answers (.relocLineOk t) s
          { s with media, reloc := { s.reloc with state := .held }, regs := flagged s.regs .relocReady })
      ∧ (¬others → failed = false → stage = .superblocks → s.reloc.hold = false →
        Answers (.relocLineOk t) s
          { s with
            reloc := { s.reloc with state := .retiringOld .first }
            media :=
              { s.media with
                requests := requestsWithout s t
                  ++ [superblockRequest (.retiringSb s.ckpt.nextSlot) s.journal.region s.ckpt.nextSlot retiring] } })
      ∧ (¬others → failed = true → Answers (.relocLineOk t) s (ended media))
      ∧ ((∀ r ∈ requestsWithout s t, r.requester = .relocLine → r.outstanding = false) →
        Answers (.relocLineFail t) s (ended { s.media with requests := left })))
    ∧ ∀ (s : State) (t : MediaTag), Carries s t .relocLine → s.reloc.state = .none → s.modes.mode = .draining →
      let left : State := { s with media := { s.media with requests := requestsWithout s t } }
      DrainsTo (.relocLineOk t) s left ∧ DrainsTo (.relocLineFail t) s left

/-- RETIRING_SB_OK and RETIRING_SB_FAIL outside a drain (R138, R139): the second retiring superblock with counter c
+ 2 to the other slot; then the four steps that make the target the active region; a failure writes a restoring
superblock with counter c + 3 to the slot that failed. RESTORING_SB_OK and RESTORING_SB_FAIL (R139): the relocation
ends FAILED on the old region, after an OK with the counter at c + 3 (that a failure also enters FAULTED is stated
by FatalCausesEnterFaulted). After a drain has cancelled the relocation (R140), an outcome of either frees its tag,
changes nothing further, and the drain's conditions are tested (R145). -/
def Obligations.RetiringAndRestoringSuperblocks : Prop :=
  (∀ (s : State) (t : MediaTag) (slot : SbSlot) (y : RetireStep), Carries s t (.retiringSb slot) →
      s.reloc.state = .retiringOld y → s.modes.mode ≠ .draining →
      let target := s.reloc.target
      let old : BitVec 64 → Bool → Superblock := fun c retired =>
        { base := s.journal.region.base, counter := c, applied := s.journal.appliedThrough,
          nextSeq := s.journal.nextSeq, relocBase := if retired then target.base else 0, tail := s.journal.head,
          k := s.journal.region.k.setWidth 8, relocK := if retired then target.k.setWidth 8 else 0, retired }
      (y = .first →
        Answers (.retiringSbOk t) s
          { s with
            reloc := { s.reloc with state := .retiringOld .second }
            media :=
              { s.media with
                requests := requestsWithout s t
                  ++ [superblockRequest (.retiringSb s.ckpt.nextSlot.other) s.journal.region s.ckpt.nextSlot.other
                    (old (s.ckpt.counter + 2) true)] } })
        ∧ (y = .second →
          Answers (.retiringSbOk t) s
            { s with
              regs := flagged { s.regs with jnlBase := target.base.extractLsb' 12 28, jnlK := target.k } .relocDone
              decoder := { s.decoder with guardActive := some target, guardTarget := none }
              journal :=
                { s.journal with
                  region := target, head := 0, used := 0, retiredTail := 0, releasedTail := 0, retiredSpan := 0 }
              ckpt :=
                { counter := 2, nextSlot := .a, applied := s.journal.appliedThrough, errors := 0, inFlight := none,
                  trigger := false }
              reloc := { s.reloc with state := .none, result := .done }
              media := { s.media with requests := requestsWithout s t } })
        ∧ Answers (.retiringSbFail t) s
          { s with
            reloc := { s.reloc with state := .retiringOld .restoring }
            media :=
              { s.media with
                requests := requestsWithout s t
                  ++ [superblockRequest (.restoringSb slot) s.journal.region slot (old (s.ckpt.counter + 3) false)] } })
    ∧ (∀ (s : State) (t : MediaTag) (slot : SbSlot) (y : RetireStep), Carries s t (.restoringSb slot) →
      s.reloc.state = .retiringOld y → s.modes.mode ≠ .draining →
      Answers (.restoringSbOk t) s
          { s with
            ckpt := { s.ckpt with counter := s.ckpt.counter + 3, nextSlot := slot.other, errors := 0 }
            reloc := { s.reloc with state := .none, result := .failed }
            decoder := { s.decoder with guardTarget := none }
            regs := flagged s.regs .relocDone
            media := { s.media with requests := requestsWithout s t } }
        ∧ Completes (.restoringSbFail t) s fun u =>
          u.reloc = { s.reloc with state := .none, result := .failed } ∧ u.decoder.guardTarget = none
            ∧ flagSet u .relocDone = true)
    ∧ (∀ (s : State) (t : MediaTag) (slot : SbSlot), s.reloc.state = .none → s.modes.mode = .draining →
      let left : State := { s with media := { s.media with requests := requestsWithout s t } }
      (Carries s t (.retiringSb slot) → DrainsTo (.retiringSbOk t) s left ∧ DrainsTo (.retiringSbFail t) s left)
        ∧ (Carries s t (.restoringSb slot) →
          DrainsTo (.restoringSbOk t) s left ∧ DrainsTo (.restoringSbFail t) s left))

/-- RELOC_GO and RELOC_CANCEL by the relocation state (R137). -/
def Obligations.RelocationCommandsByState : Prop :=
  ∀ s : State,
    let rejected : State := { s with modes := { s.modes with lastCommand := .rejected } }
    let retiring : Superblock :=
      { base := s.journal.region.base, counter := s.ckpt.counter + 1, applied := s.journal.appliedThrough,
        nextSeq := s.journal.nextSeq, relocBase := s.reloc.target.base, tail := s.journal.head,
        k := s.journal.region.k.setWidth 8, relocK := s.reloc.target.k.setWidth 8, retired := true }
    (s.reloc.state = .held →
        Answers .relocGo s
          { s with
            modes := { s.modes with lastCommand := .accepted }
            reloc := { s.reloc with state := .retiringOld .first }
            media :=
              { s.media with
                requests := s.media.requests
                  ++ [superblockRequest (.retiringSb s.ckpt.nextSlot) s.journal.region s.ckpt.nextSlot retiring] } })
      ∧ (s.reloc.state ≠ .held → Answers .relocGo s rejected)
      ∧ ((s.reloc.state = .pending ∨ s.reloc.state = .held) →
        Answers .relocCancel s
          { s with
            modes := { s.modes with lastCommand := .accepted }
            reloc := { s.reloc with state := .none, result := .cancelled }
            decoder := { s.decoder with guardTarget := none }
            regs := flagged s.regs .relocDone })
      ∧ (s.reloc.state ≠ .pending → s.reloc.state ≠ .held → Answers .relocCancel s rejected)

/-- RELOC_REQUEST (R134, R135): RELOC_CTRL holds the written fields (log 16); an acceptable request captures the
target, guards it and enters PENDING, and with the commit queue empty its trigger begins a checkpoint or is kept;
any other is REJECTED. -/
def Obligations.RelocationRequestIsJudged : Prop :=
  ∀ (s : State) (k : BitVec 5) (hold : Bool),
    let regs := { s.regs with relocK := k, relocHold := hold }
    let target : Region := { base := s.regs.relocBase ++ 0#12, k }
    let lines := s.staging.index.map IndexEntry.line ++ s.claims.waitList.map (fun r => r.write.line)
      ++ s.staging.slotWait.map HeldWrite.line
    let size : Region → Nat := fun r => 2 ^ r.k.toNat * 64
    let ok := s.modes.mode = .ready ∧ s.reloc.state = .none ∧ (12 ≤ k.toNat ∧ k.toNat ≤ 20)
      ∧ target.base.toNat % size target = 0
      ∧ (target.base.toNat + size target ≤ s.journal.region.base.toNat
        ∨ s.journal.region.base.toNat + size s.journal.region ≤ target.base.toNat)
      ∧ ∀ l ∈ lines, ¬(target.base.toNat ≤ l.toNat ∧ l.toNat < target.base.toNat + size target)
    let taken : State :=
      { s with
        regs
        modes := { s.modes with lastCommand := .accepted }
        reloc := { state := .pending, result := .none, target, hold }
        decoder := { s.decoder with guardTarget := some target } }
    (¬ok → Answers (.relocRequest k hold) s { s with regs, modes := { s.modes with lastCommand := .rejected } })
      ∧ (ok → s.groups.queue ≠ [] → Answers (.relocRequest k hold) s taken)
      ∧ (ok → s.groups.queue = [] → s.ckpt.inFlight.isSome = true →
        Answers (.relocRequest k hold) s { taken with ckpt := { s.ckpt with trigger := true } })
      ∧ (ok → s.groups.queue = [] → s.ckpt.inFlight = none → Completes (.relocRequest k hold) s fun u =>
        u.reloc = taken.reloc ∧ u.decoder = taken.decoder ∧ u.modes = taken.modes ∧ u.ckpt.inFlight.isSome = true)

/-! ## Recovery -/

/-- SUPERBLOCK_READ_OK (R126): the first copy is kept; with both, neither valid is UNFORMATTED in IDLE; else the
valid copy with the higher counter, slot A when equal, decides: retired is RELOCATED with its readout, another
region is MISMATCH, else the scan begins from it, in a ring of at least four lines. The relocated-to readout as the
low five bits of the copy's k, a retired flag that is any nonzero byte, and a tail that is not tested are the
model's reading of copies that no KX416 wrote (log 23). In DRAINING, after the recovery has stopped (R131, R144),
the outcome, OK or failed, frees its tag, its data is not used, and the drain's conditions are tested (R145); that a
failed read only ends there is the model's reading (log 14). -/
def Obligations.SuperblockCopiesDecideTheRecovery : Prop :=
  (∀ (s : State) (t : MediaTag) (slot : SbSlot) (data : Line) (r : Recovery) (a b : Option Line),
    Carries s t (.superblockRead slot) → s.recovery = some r → r.phase = .superblocks a b →
    let copies : Option Line × Option Line := if slot = .a then (some data, b) else (a, some data)
    let media : Media := { s.media with requests := requestsWithout s t }
    ((copies.1 = none ∨ copies.2 = none) →
      Answers (.superblockReadOk t data) s
        { s with media, recovery := some { r with phase := .superblocks copies.1 copies.2 } })
      ∧ ∀ x y, copies = (some x, some y) →
        let pick : Line × SbSlot :=
          if superblockValid x = true ∧
              (superblockValid y = false ∨ (readSuperblock y).counter.toNat ≤ (readSuperblock x).counter.toNat) then
            (x, .a)
          else (y, .b)
        let sb := readSuperblock pick.1
        let valid := superblockValid x = true ∨ superblockValid y = true
        let idle : StartStatus → Regs → State := fun v regs =>
          { s with
            media
            recovery := none
            staging := { s.staging with scratch := none }
            regs := flagged regs .recoveryDone
            modes := { s.modes with mode := .idle, startStatus := v } }
        (¬valid → Answers (.superblockReadOk t data) s (idle .unformatted s.regs))
          ∧ (valid → sb.retired = true →
            Answers (.superblockReadOk t data) s
              (idle .relocated
                { s.regs with
                  relocatedBase := sb.relocBase.extractLsb' 12 28, relocatedK := sb.relocK.setWidth 5 }))
          ∧ (valid → sb.retired = false →
            (sb.base ≠ s.journal.region.base ∨ sb.k ≠ s.journal.region.k.setWidth 8) →
            Answers (.superblockReadOk t data) s (idle .mismatch s.regs))
          ∧ (valid → sb.retired = false → sb.base = s.journal.region.base →
            sb.k = s.journal.region.k.setWidth 8 → 4 ≤ s.journal.region.ringLength →
            Answers (.superblockReadOk t data) s
              { s with
                media :=
                  { s.media with
                    requests := requestsWithout s t
                      ++ [{ requester := .headerRead, line := s.journal.region.ringAddr sb.tail, write := none,
                            state := .ready }] }
                journal :=
                  { s.journal with
                    head := sb.tail, appliedThrough := sb.applied, durableThrough := sb.applied,
                    nextSeq := sb.applied + 1 }
                ckpt :=
                  { s.ckpt with counter := sb.counter, applied := sb.applied, nextSlot := pick.2.other }
                recovery := some
                  { r with
                    phase := .header, selected := some (pick.2, sb), scanOffset := sb.tail,
                    expected := sb.applied + 1, scanned := 0 } }))
    ∧ ∀ (s : State) (t : MediaTag) (slot : SbSlot) (data : Line), Carries s t (.superblockRead slot) → s.recovery = none → s.modes.mode = .draining →
      let left : State := { s with media := { s.media with requests := requestsWithout s t } }
      DrainsTo (.superblockReadOk t data) s left ∧ DrainsTo (.recoveryMediaFail t) s left

/-- HEADER_READ_OK (R127, R128, R130): a header that passes the five tests is followed by the reads of the rest of
its record; any other ends the scan in phase FINAL, with the pointers at the scan offset and the final checkpoint.
In DRAINING, after the recovery has stopped (R131, R144), the outcome, OK or failed, frees its tag, its data is not
used, and the drain's conditions are tested (R145); that a failed read only ends there is the model's reading (log
14). That the reads of the record are handed over in record order is the model's choice (log 11), and that all eight
bytes of the sequence field are tested is its reading (log 23). -/
def Obligations.HeaderReadContinuesOrEndsTheScan : Prop :=
  (∀ (s : State) (t : MediaTag) (data : Line) (r : Recovery), Carries s t .headerRead → s.recovery = some r →
    r.phase = .header →
    let n := field data 6 2
    let length := n + (n + 3) / 4 + 2
    let ok := field data 0 4 = 0x47520001 ∧ field data 8 8 = r.expected.toNat ∧ (1 ≤ n ∧ n ≤ 256)
      ∧ field data 16 2 = length ∧ r.scanned + length ≤ s.journal.region.ringLength
    (ok →
      Answers (.headerReadOk t data) s
        { s with
          recovery := some { r with phase := .record, lines := n, length }
          staging := { s.staging with scratch := some [(0, data)] }
          media :=
            { s.media with
              requests := requestsWithout s t
                ++ (List.range (length - 1)).map fun i =>
                  { requester := .recordRead (i + 1),
                    line := s.journal.region.ringAddr
                      ((r.scanOffset + (i + 1)) % s.journal.region.ringLength),
                    write := none, state := .ready } } })
      ∧ (¬ok → Completes (.headerReadOk t data) s fun u =>
        u.recovery = some { r with phase := .final }
          ∧ u.journal =
            { s.journal with
              head := r.scanOffset, retiredTail := r.scanOffset, releasedTail := r.scanOffset, used := 0,
              retiredSpan := 0, durableThrough := s.journal.appliedThrough,
              nextSeq := s.journal.appliedThrough + 1 }
          ∧ u.ckpt.inFlight.isSome = true ∧ u.modes = s.modes ∧ u.regs = s.regs))
    ∧ ∀ (s : State) (t : MediaTag) (data : Line), Carries s t .headerRead → s.recovery = none → s.modes.mode = .draining →
      let left : State := { s with media := { s.media with requests := requestsWithout s t } }
      DrainsTo (.headerReadOk t data) s left ∧ DrainsTo (.recoveryMediaFail t) s left

/-- RECORD_READ_OK (R128): the line is kept; with the last, a whole commit line begins the replay of every entry of
the descriptors, and any other is a torn group, which ends the scan with TORN_GROUP. In DRAINING, after the recovery
has stopped (R131, R144), the outcome, OK or failed, frees its tag, its data is not used, and the drain's conditions
are tested (R145); that a failed read only ends there is the model's reading (log 14). That all eight bytes of the
commit line's sequence field are tested, and that a descriptor's address is the low 40 bits of its field, is the
model's reading (log 23); that the replay writes are handed over in the order of the entries is its choice (log 11). -/
def Obligations.RecordReadReplaysOrFindsTorn : Prop :=
  (∀ (s : State) (t : MediaTag) (i : Nat) (data : Line) (r : Recovery) (ls : List (Nat × Line)),
    Carries s t (.recordRead i) → s.recovery = some r → r.phase = .record → s.staging.scratch = some ls →
    let kept := ls ++ [(i, data)]
    let line : Nat → Line := fun j => ((kept.find? fun p => p.1 == j).map Prod.snd).getD zeroLine
    let others := ∃ q ∈ requestsWithout s t, q.requester.isRecordRead = true
    let body := (List.range (r.length - 1)).map line
    let last := line (r.length - 1)
    let whole := field last 0 4 = 0x47520002 ∧ field last 8 8 = r.expected.toNat ∧ field last 6 2 = r.lines
      ∧ field last 16 4 = (crcLines body).toNat
    (others →
      Answers (.recordReadOk t data) s
        { s with
          staging := { s.staging with scratch := some kept }
          media := { s.media with requests := requestsWithout s t } })
      ∧ (¬others → whole → Completes (.recordReadOk t data) s fun u =>
        u.recovery = some { r with phase := .replay } ∧ u.staging.scratch = some kept ∧ u.regs = s.regs
          ∧ u.journal = s.journal
          ∧ ∃ rs, u.media.requests = requestsWithout s t ++ rs ∧ rs.length = r.lines
            ∧ ∀ j q, rs[j]? = some q →
              let d := line (1 + j / 4)
              q.requester = .replayWrite j ∧ q.state = .ready
                ∧ q.line = BitVec.ofNat 40 (field d (16 * (j % 4)) 8)
                ∧ q.write = some (BitVec.ofNat 64 (field d (16 * (j % 4) + 8) 8), line (1 + (r.lines + 3) / 4 + j)))
      ∧ (¬others → ¬whole → Completes (.recordReadOk t data) s fun u =>
        u.recovery = some { r with phase := .final } ∧ flagSet u .tornGroup = true
          ∧ u.journal.head = r.scanOffset ∧ u.journal.used = 0
          ∧ u.journal.nextSeq = s.journal.appliedThrough + 1 ∧ u.ckpt.inFlight.isSome = true))
    ∧ ∀ (s : State) (t : MediaTag) (i : Nat) (data : Line), Carries s t (.recordRead i) → s.recovery = none → s.modes.mode = .draining →
      let left : State := { s with media := { s.media with requests := requestsWithout s t } }
      DrainsTo (.recordReadOk t data) s left ∧ DrainsTo (.recoveryMediaFail t) s left

/-- REPLAY_WRITE_OK (R129, R127): with the last home write of the record, the five steps; then the next header is
read, or the scan ends when fewer than four lines of ring remain. In DRAINING, after the recovery has stopped (R131,
R144), the outcome frees its tag, and the drain's conditions are tested (R145). -/
def Obligations.ReplayWriteOkAdvancesTheScan : Prop :=
  (∀ (s : State) (t : MediaTag) (i : Nat) (r : Recovery), Carries s t (.replayWrite i) → s.recovery = some r →
    r.phase = .replay →
    let others := ∃ q ∈ requestsWithout s t, q.requester.isReplay = true
    let next := (r.scanOffset + r.length) % s.journal.region.ringLength
    (others →
      Answers (.replayWriteOk t) s { s with media := { s.media with requests := requestsWithout s t } })
      ∧ (¬others → Completes (.replayWriteOk t) s fun u =>
        u.journal.appliedThrough = r.expected ∧ u.journal.durableThrough = r.expected
          ∧ u.journal.nextSeq = r.expected + 1 ∧ u.journal.head = next
          ∧ (r.scanned + r.length + 4 ≤ s.journal.region.ringLength →
            u.recovery = some
                { r with
                  phase := .header, scanOffset := next, scanned := r.scanned + r.length, expected := r.expected + 1 }
              ∧ u.media.requests = requestsWithout s t
                ++ [{ requester := .headerRead, line := s.journal.region.ringAddr next, write := none,
                      state := .ready }])
          ∧ (s.journal.region.ringLength < r.scanned + r.length + 4 →
            u.ckpt.inFlight.isSome = true ∧ ∃ q, u.recovery = some q ∧ q.phase = .final)))
    ∧ ∀ (s : State) (t : MediaTag) (i : Nat), Carries s t (.replayWrite i) → s.recovery = none → s.modes.mode = .draining →
      let left : State := { s with media := { s.media with requests := requestsWithout s t } }
      DrainsTo (.replayWriteOk t) s left

/-- LINK_RESET_ACK (R157, R125): discarded when no reset is owed; else the port returns to its reset values, and a
recovery that awaits it reads both superblocks; in DRAINING, after the recovery has stopped, the drain's conditions
are tested (R157 step 5, R145), so that a drain of origin RECOVERING enters HALTED with COMPLETE (the order of the
COMMITTED that HALTED owes is the model's choice, log 8). -/
def Obligations.LinkResetAckClearsThePort : Prop :=
  ∀ (s : State) (r : Recovery),
    (s.media.linkOwed = false → Answers .linkResetAck s s)
      ∧ (s.media.linkOwed = true → s.recovery = none → s.modes.mode ≠ .draining →
        Answers .linkResetAck s { s with media := Media.reset })
      ∧ (s.media.linkOwed = true → s.recovery = some r → r.phase = .linkReset →
        Answers .linkResetAck s
          { s with
            media :=
              { Media.reset with
                requests :=
                  [{ requester := .superblockRead .a, line := s.journal.region.base, write := none, state := .ready },
                    { requester := .superblockRead .b, line := s.journal.region.base + 0x40#40, write := none,
                      state := .ready }] }
            recovery := some { r with phase := .superblocks none none } })
      ∧ (s.media.linkOwed = true → s.recovery = none → s.modes.mode = .draining →
        DrainsTo .linkResetAck s { s with media := Media.reset })

/-! ## Commands -/

/-- START and FORMAT (R118 to R120, R124, R57, R84): REJECTED outside IDLE; ACCEPTED with BAD_CONFIG for an invalid
base or k; else the procedure begins on the region that the registers name. The recovery items that the spec gives
no value before the scan begins are 0, and the clearing lines are in offset order: the model's choices (logs 33 and
11). -/
def Obligations.StartAndFormatBeginTheirProcedures : Prop :=
  ∀ s : State,
    let region : Region := { base := s.regs.jnlBase ++ 0#12, k := s.regs.jnlK }
    let valid := (12 ≤ s.regs.jnlK.toNat ∧ s.regs.jnlK.toNat ≤ 20)
      ∧ region.base.toNat % (2 ^ s.regs.jnlK.toNat * 64) = 0
    let rejected : State := { s with modes := { s.modes with lastCommand := .rejected } }
    let badConfig : State := { s with modes := { s.modes with lastCommand := .accepted, startStatus := .badConfig } }
    let begun : Mode → ModeCtl := fun m => { mode := m, startStatus := .none, lastCommand := .accepted }
    let decoder : Decoder := { s.decoder with guardActive := some region, guardTarget := none }
    (s.modes.mode ≠ .idle → Answers .start s rejected ∧ Answers .format s rejected)
      ∧ (s.modes.mode = .idle → ¬valid → Answers .start s badConfig ∧ Answers .format s badConfig)
      ∧ (s.modes.mode = .idle → valid →
        Answers .start s
          { s with
            modes := begun .recovering
            decoder
            journal := { s.journal with region }
            staging := { s.staging with scratch := some [] }
            ckpt := { s.ckpt with inFlight := none, trigger := false, errors := 0 }
            recovery := some
              { phase := .superblocks none none, cause := .start, selected := none, scanOffset := 0, expected := 0,
                scanned := 0, lines := 0, length := 0 }
            media :=
              { s.media with
                requests := s.media.requests
                  ++ [{ requester := .superblockRead .a, line := region.base, write := none, state := .ready },
                    { requester := .superblockRead .b, line := region.base + 0x40#40, write := none,
                      state := .ready }] } })
      ∧ (s.modes.mode = .idle → valid →
        Answers .format s
          { s with
            modes := begun .formatting
            decoder
            journal := { s.journal with region }
            format := some { stage := .clearing, failed := false }
            media :=
              { s.media with
                requests := s.media.requests
                  ++ (List.range (2 ^ s.regs.jnlK.toNat - 2)).map fun o =>
                    { requester := .formatLine, line := region.base + BitVec.ofNat 40 ((2 + o) * 64),
                      write := some (BitVec.allOnes 64, zeroLine), state := .ready } } })

/-- RESTART (R122, R118): accepted in READY and FAULTED alone; with a valid configuration nothing of the old work is
left and the recovery waits for a link reset with a deadline; the answers are, in this order, those of the mass
abort (R21, R22), to held writes, to SEALED and JOURNALING entries, to DURABLE and APPLYING ones, then NOT_READY for
reads (R82) and NOT_READY for every request left in an ingress queue (the order among the held writes, among the
COMMITTED and among the reads is the model's choice, log 8). RESUME (R123, R118): accepted in HALTED with PFW_N
deasserted alone; DRAIN_DONE falls, the drain status stays, the level of PFW_N is remembered (the model's field, log
4), and the recovery waits for a link reset with a deadline. -/
def Obligations.RestartAndResumeGoThroughRecovery : Prop :=
  (∀ s : State,
      let valid := (configRegion s).valid = true
      (s.modes.mode ≠ .ready → s.modes.mode ≠ .faulted →
        Answers .restart s { s with modes := { s.modes with lastCommand := .rejected } })
        ∧ ((s.modes.mode = .ready ∨ s.modes.mode = .faulted) → ¬valid →
          Answers .restart s
            { s with modes := { s.modes with lastCommand := .accepted, startStatus := .badConfig } })
        ∧ ((s.modes.mode = .ready ∨ s.modes.mode = .faulted) → valid → Completes .restart s fun u =>
          u.modes = { mode := .recovering, startStatus := .none, lastCommand := .accepted }
            ∧ u.groups.queue = [] ∧ (∀ st, recordOf u st = .absent) ∧ NoneHeld u ∧ u.reads = []
            ∧ u.posted.records = [] ∧ (s.posted.records ≠ [] → flagSet u .postedLost = true)
            ∧ u.staging = { Staging.reset with scratch := some [] }
            ∧ u.journal = { s.journal with writer := .idle, region := configRegion s } ∧ u.apply = Apply.reset
            ∧ u.ckpt.inFlight = none ∧ u.ckpt.trigger = false ∧ u.ckpt.errors = 0 ∧ u.reloc.state = .none
            ∧ u.media.requests = [] ∧ u.media.linkOwed = true
            ∧ u.media.linkDeadline = some (s.now + s.regs.mediaTimeout)
            ∧ (∃ r, u.recovery = some r ∧ r.phase = .linkReset ∧ r.cause = .restart)
            ∧ u.regs.config = s.regs.config
            ∧ ∃ front, QueuesAnswered s u front .notReady
              ∧ (SerialsDistinct s →
                front = closingAnswers s s.media.requests s.groups.queue .restart .notReady)))
    ∧ (∀ (s : State) (b : Bool),
      let drain : Drain := { s.drain with pfwAsserted := b }
      let valid := (configRegion s).valid = true
      ((s.modes.mode ≠ .halted ∨ b = true) →
        Answers (.resume b) s { s with drain, modes := { s.modes with lastCommand := .rejected } })
        ∧ (s.modes.mode = .halted → b = false → ¬valid →
          Answers (.resume b) s
            { s with drain, modes := { s.modes with lastCommand := .accepted, startStatus := .badConfig } })
        ∧ (s.modes.mode = .halted → b = false → valid → Completes (.resume b) s fun u =>
          u.modes = { mode := .recovering, startStatus := .none, lastCommand := .accepted }
            ∧ u.drain = { drain with doneOut := false } ∧ u.media.linkOwed = true
            ∧ u.media.linkDeadline = some (s.now + s.regs.mediaTimeout)
            ∧ (∃ r, u.recovery = some r ∧ r.phase = .linkReset ∧ r.cause = .resume)
            ∧ u.staging.scratch = some [] ∧ u.decoder.guardActive = some (configRegion s)
            ∧ u.journal = { s.journal with region := configRegion s } ∧ u.fabric = s.fabric ∧ u.posted = s.posted))

/-- CLEAR_COUNTERS (R167) in every mode, and a value of COMMAND that names no command (R118). -/
def Obligations.ClearCountersAndUnknownCommands : Prop :=
  ∀ (s : State) (v : Word),
    Answers .clearCounters s
        { s with
          modes := { s.modes with lastCommand := .accepted }
          regs := { s.regs with committedCount := 0, abortedCount := 0, lostCount := 0 } }
      ∧ ((v = 0 ∨ 7 < v.toNat) →
        Answers (.unknownCommand v) s { s with modes := { s.modes with lastCommand := .rejected } })

/-! ## Registers, flags and frames -/

/-- Event flags, enables and ALERT_N (R166): no command but EVENT_FLAGS_CLEAR and HARD_RESET clears a flag;
EVENT_FLAGS_CLEAR clears each flag written as one and changes nothing else; EVENT_ENABLE_WRITE replaces the enables
and changes nothing else; ALERT_N is asserted exactly when a flag and its enable are both set; all are clear after
hard reset. -/
def Obligations.EventFlagsEnablesAndAlert : Prop :=
  (∀ (s : State) (v : Word),
      (Completes (.eventFlagsClear v) s fun t =>
        (∀ i : Fin 12, t.regs.flags.getLsbD i = (s.regs.flags.getLsbD i && !v.getLsbD i))
          ∧ t = { s with regs := { s.regs with flags := t.regs.flags } })
        ∧ (Completes (.eventEnableWrite v) s fun t =>
          (∀ i : Fin 12, t.regs.enables.getLsbD i = v.getLsbD i)
            ∧ t = { s with regs := { s.regs with enables := t.regs.enables } })
        ∧ (alertAsserted s = true ↔ ∃ i : Fin 12, s.regs.flags.getLsbD i = true ∧ s.regs.enables.getLsbD i = true))
    ∧ (∀ (c : Instr) (s t : State), (∀ b, c ≠ .hardReset b) → (∀ v, c ≠ .eventFlagsClear v) → exec c s = .next t →
      ∀ f, flagSet s f = true → flagSet t f = true)
    ∧ State.reset.regs.flags = 0 ∧ State.reset.regs.enables = 0 ∧ alertAsserted State.reset = false

/-- IDLE_TIMEOUT_WRITE (R8, R165): out of range it is ignored whole; 0 removes every idle deadline; another value
leaves the deadlines that run. -/
def Obligations.IdleTimeoutWriteKeepsOrRemovesDeadlines : Prop :=
  ∀ (s : State) (v : Word),
    (65535 < v.toNat → Answers (.idleTimeoutWrite v) s s)
      ∧ (0 < v.toNat → v.toNat ≤ 65535 →
        Answers (.idleTimeoutWrite v) s { s with regs := { s.regs with idleTimeout := v.toNat } })
      ∧ (v = 0 → Completes (.idleTimeoutWrite v) s fun t =>
        t.regs = { s.regs with idleTimeout := 0 } ∧ t.groups.queue = s.groups.queue
          ∧ (∀ st, recordOf t st =
            match recordOf s st with
            | .opened slots _ => .opened slots none
            | .absent => .absent
            | .doomed reason => .doomed reason)
          ∧ t.staging = s.staging ∧ t.fabric = s.fabric)

/-- READ_48_LOW (R165): the low 32 bits are shifted out and the whole value latched, so that the high word read
later belongs to the same value. What a read of each other register returns (R164, R165, the register table and the
MODE layout of 12.4), field by field, bits not named zero, and zero for COMMAND and for an index with no register.
Which command a frame is, by its opcode, index and data (R164, R165): six bytes make a write, two a read; a write
cut short, an unknown opcode and a read without effect are no command. MISO sends the register's value in bytes 2 to
5 of a read frame, and 00h in every other byte of every frame, after byte 5 too. A whole frame put to the part runs
its command in the next step; the value of a register read that is no command goes to MISO. How a frame stands for a
command, its bytes whole at once, is the model's choice (log 19). -/
def Obligations.Read48LowLatchesTheWholeValue : Prop :=
  (∀ s : State,
    (Answers (.read48Low .applied) s
      { s with
        regs := { s.regs with latchApplied := s.journal.appliedThrough }
        wires := { s.wires with misoOut := s.wires.misoOut ++ [s.journal.appliedThrough.setWidth 32] } })
      ∧ (Answers (.read48Low .durable) s
        { s with
          regs := { s.regs with latchDurable := s.journal.durableThrough }
          wires := { s.wires with misoOut := s.wires.misoOut ++ [s.journal.durableThrough.setWidth 32] } })
      ∧ (Answers (.read48Low .nextSeq) s
        { s with
          regs := { s.regs with latchNextSeq := s.journal.nextSeq }
          wires := { s.wires with misoOut := s.wires.misoOut ++ [s.journal.nextSeq.setWidth 32] } })
      ∧ readRegister s 0x44#8 = (s.regs.latchApplied >>> 32).setWidth 32
      ∧ readRegister s 0x46#8 = (s.regs.latchDurable >>> 32).setWidth 32
      ∧ readRegister s 0x48#8 = (s.regs.latchNextSeq >>> 32).setWidth 32)
    ∧ (∀ s : State,
      let read := readRegister s
      let number : Nat → Word := BitVec.ofNat 32
      let mode := read 0x01#8
      read 0x00#8 = 0x4B580416#32
        ∧ (mode.extractLsb' 0 4 =
            match s.modes.mode with
            | .idle => 0#4 | .formatting => 1#4 | .recovering => 2#4 | .ready => 3#4 | .draining => 4#4 | .halted => 5#4
            | .faulted => 6#4)
        ∧ (mode.extractLsb' 4 4 =
            match s.modes.startStatus with
            | .none => 0#4 | .ok => 1#4 | .unformatted => 2#4 | .mismatch => 3#4 | .relocated => 4#4
            | .badConfig => 5#4 | .mediaFault => 6#4 | .interrupted => 7#4)
        ∧ (mode.extractLsb' 8 4 = match s.modes.lastCommand with | .none => 0#4 | .accepted => 1#4 | .rejected => 2#4)
        ∧ (mode.extractLsb' 12 4 =
            match s.reloc.state with
            | .none => 0#4 | .pending => 1#4 | .formattingNew _ _ => 2#4 | .held => 3#4 | .retiringOld _ => 4#4)
        ∧ (mode.extractLsb' 16 4 =
            match s.reloc.result with | .none => 0#4 | .done => 1#4 | .failed => 2#4 | .cancelled => 3#4)
        ∧ (mode.extractLsb' 20 12 =
            match s.drain.status with | .none => 0#12 | .active => 1#12 | .complete => 2#12 | .incomplete => 3#12)
        ∧ read 0x02#8 = 0 ∧ read 0x03#8 = s.regs.flags.setWidth 32 ∧ read 0x04#8 = s.regs.enables.setWidth 32
        ∧ read 0x05#8 = s.regs.jnlBase.setWidth 32 ∧ read 0x06#8 = s.regs.jnlK.setWidth 32
        ∧ read 0x07#8 = s.regs.relocBase.setWidth 32
        ∧ ((read 0x08#8).extractLsb' 0 8 = s.regs.relocK.setWidth 8
          ∧ (read 0x08#8).extractLsb' 8 24 = if s.regs.relocHold then 1#24 else 0#24)
        ∧ read 0x09#8 = s.regs.relocatedBase.setWidth 32 ∧ read 0x0A#8 = s.regs.relocatedK.setWidth 32
        ∧ read 0x10#8 = number s.regs.groupLimit ∧ read 0x11#8 = number s.regs.conflictTimeout
        ∧ read 0x12#8 = number s.regs.idleTimeout ∧ read 0x13#8 = number s.regs.mediaTimeout
        ∧ read 0x14#8 = number s.regs.retryLimit ∧ read 0x15#8 = number s.regs.drainBudget
        ∧ read 0x16#8 = number s.regs.arbQuota ∧ read 0x17#8 = number s.regs.ckptInterval
        ∧ (read 0x18#8 = match s.decoder.defaultKind with | .deny => 0 | .plain => 1)
        ∧ read 0x40#8 = number s.journal.head ∧ read 0x41#8 = number s.journal.used
        ∧ read 0x42#8 = number s.journal.releasedTail
        ∧ read 0x43#8 = s.journal.appliedThrough.setWidth 32 ∧ read 0x45#8 = s.journal.durableThrough.setWidth 32
        ∧ read 0x47#8 = s.journal.nextSeq.setWidth 32
        ∧ read 0x49#8 = number (s.staging.slots.length + if s.staging.scratch.isSome then 322 else 0)
        ∧ read 0x4A#8 = number (s.staging.slots.filter fun v => v.state == .opened).length
        ∧ read 0x4B#8 = number s.groups.queue.length
        ∧ read 0x50#8 = s.regs.committedCount ∧ read 0x51#8 = s.regs.abortedCount
        ∧ read 0x52#8 = s.regs.lostCount.setWidth 32
        ∧ (∀ w : Fin 8,
          let index : Nat → BitVec 8 := fun part => BitVec.ofNat 8 (0x20 + 3 * w.val + part)
          let attr := read (index 2)
          read (index 0) = s.decoder.table[w].base.setWidth 32 ∧ read (index 1) = s.decoder.table[w].limit.setWidth 32
            ∧ attr.extractLsb' 0 16 = s.decoder.table[w].mask
            ∧ (attr.extractLsb' 16 15 =
              match s.decoder.table[w].kind with | .plain => 0#15 | .guarded => 1#15 | .readOnly => 2#15)
            ∧ attr.getLsbD 31 = s.decoder.table[w].enabled)
        ∧ ∀ i : BitVec 8, (0x0A < i.toNat ∧ i.toNat < 0x10 ∨ 0x18 < i.toNat ∧ i.toNat < 0x20
            ∨ 0x37 < i.toNat ∧ i.toNat < 0x40 ∨ 0x4B < i.toNat ∧ i.toNat < 0x50 ∨ 0x52 < i.toNat) → read i = 0)
    ∧ (∀ (i b2 b3 b4 b5 : Byte) (more : List Byte) (pfw : Bool),
      let v : Word := b2 ++ b3 ++ b4 ++ b5
      let command := frameCommand (0xA3#8 :: i :: b2 :: b3 :: b4 :: b5 :: more) pfw
      (i = 0x02#8 →
          command = some
            (if v = 1 then .start else if v = 2 then .format else if v = 3 then .restart
            else if v = 4 then .resume pfw else if v = 5 then .relocGo else if v = 6 then .relocCancel
            else if v = 7 then .clearCounters else .unknownCommand v))
        ∧ (i = 0x03#8 → command = some (.eventFlagsClear v)) ∧ (i = 0x04#8 → command = some (.eventEnableWrite v))
        ∧ (i = 0x12#8 → command = some (.idleTimeoutWrite v))
        ∧ (i = 0x08#8 →
          command = some
            (if v.getLsbD 9 then .relocRequest (v.extractLsb' 0 5) (v.getLsbD 8) else .registerWrite i v))
        ∧ (i ≠ 0x02#8 → i ≠ 0x03#8 → i ≠ 0x04#8 → i ≠ 0x08#8 → i ≠ 0x12#8 → command = some (.registerWrite i v)))
    ∧ (∀ (i : Byte) (more : List Byte) (pfw : Bool),
      frameCommand (0x5C#8 :: i :: more) pfw =
        if i = 0x43#8 then some (.read48Low .applied) else if i = 0x45#8 then some (.read48Low .durable)
        else if i = 0x47#8 then some (.read48Low .nextSeq) else none)
    ∧ (∀ (s : State) (bytes : List Byte) (pfw : Bool),
      ((bytes.length < 2 ∨ (bytes[0]? = some 0xA3#8 ∧ bytes.length < 6)
          ∨ (bytes[0]? ≠ some 0x5C#8 ∧ bytes[0]? ≠ some 0xA3#8)) →
          frameCommand bytes pfw = none ∧ s.withFrame bytes pfw = s)
        ∧ (∀ c, frameCommand bytes pfw = some c → step (s.withFrame bytes pfw) = exec c s)
        ∧ (∀ i more, bytes = 0x5C#8 :: i :: more → i ≠ 0x43#8 → i ≠ 0x45#8 → i ≠ 0x47#8 →
          s.withFrame bytes pfw
            = { s with wires := { s.wires with misoOut := s.wires.misoOut ++ [readRegister s i] } })
        ∧ (frameAnswer s bytes).length = bytes.length
        ∧ ∀ n b, (frameAnswer s bytes)[n]? = some b →
          (n < 2 ∨ 5 < n ∨ bytes[0]? ≠ some 0x5C#8 → b = 0)
            ∧ (∀ i : Byte, bytes[0]? = some 0x5C#8 → bytes[1]? = some i → 2 ≤ n → n ≤ 5 →
              b = (readRegister s i).extractLsb' (8 * (5 - n)) 8))

/-- REGISTER_WRITE of a register with a range (R165): a value of the range is held, any other is ignored whole.
REGISTER_WRITE of the other registers (R165, the register table of 12.4): the fields of their width; read-only
registers and indexes with no register ignore the write; a window word changes its window alone, and a kind encoding
of 3 is ignored whole. -/
def Obligations.RegisterWritesHoldRangesAndFields : Prop :=
  (∀ (s : State) (v : Word),
      let within : Nat → Nat → Regs → State := fun low high regs =>
        if low ≤ v.toNat ∧ v.toNat ≤ high then { s with regs } else s
      Answers (.registerWrite 0x10#8 v) s (within 1 256 { s.regs with groupLimit := v.toNat })
        ∧ Answers (.registerWrite 0x11#8 v) s (within 1 65535 { s.regs with conflictTimeout := v.toNat })
        ∧ Answers (.registerWrite 0x13#8 v) s (within 1 4095 { s.regs with mediaTimeout := v.toNat })
        ∧ Answers (.registerWrite 0x14#8 v) s (within 0 15 { s.regs with retryLimit := v.toNat })
        ∧ Answers (.registerWrite 0x15#8 v) s (within 1 65535 { s.regs with drainBudget := v.toNat })
        ∧ Answers (.registerWrite 0x16#8 v) s (within 2 16 { s.regs with arbQuota := v.toNat })
        ∧ Answers (.registerWrite 0x17#8 v) s (within 1 64 { s.regs with ckptInterval := v.toNat })
        ∧ Answers (.registerWrite 0x18#8 v) s
          (if v = 0 then { s with decoder := { s.decoder with defaultKind := .deny } }
          else if v = 1 then { s with decoder := { s.decoder with defaultKind := .plain } } else s))
    ∧ (∀ (s : State) (v : Word),
      Answers (.registerWrite 0x05#8 v) s { s with regs := { s.regs with jnlBase := v.setWidth 28 } }
        ∧ Answers (.registerWrite 0x06#8 v) s { s with regs := { s.regs with jnlK := v.setWidth 5 } }
        ∧ Answers (.registerWrite 0x07#8 v) s { s with regs := { s.regs with relocBase := v.setWidth 28 } }
        ∧ (v.getLsbD 9 = false →
          Answers (.registerWrite 0x08#8 v) s
            { s with regs := { s.regs with relocK := v.setWidth 5, relocHold := v.getLsbD 8 } })
        ∧ (∀ i : BitVec 8, (i.toNat ≤ 0x01 ∨ 0x09 ≤ i.toNat) → (i.toNat < 0x10 ∨ 0x18 < i.toNat) →
          (i.toNat < 0x20 ∨ 0x37 < i.toNat) → Answers (.registerWrite i v) s s)
        ∧ ∀ w : Fin 8,
          let index : Nat → BitVec 8 := fun part => BitVec.ofNat 8 (0x20 + 3 * w.val + part)
          let set : Window → State := fun x => { s with decoder := { s.decoder with table := s.decoder.table.set w x } }
          let old := s.decoder.table[w]
          let attr : WindowKind → Window := fun kind =>
            { old with mask := v.setWidth 16, kind, enabled := v.getLsbD 31 }
          Answers (.registerWrite (index 0) v) s (set { old with base := v.setWidth 28 })
            ∧ Answers (.registerWrite (index 1) v) s (set { old with limit := v.setWidth 28 })
            ∧ (v.extractLsb' 16 2 = 0#2 → Answers (.registerWrite (index 2) v) s (set (attr .plain)))
            ∧ (v.extractLsb' 16 2 = 1#2 → Answers (.registerWrite (index 2) v) s (set (attr .guarded)))
            ∧ (v.extractLsb' 16 2 = 2#2 → Answers (.registerWrite (index 2) v) s (set (attr .readOnly)))
            ∧ (v.extractLsb' 16 2 = 3#2 → Answers (.registerWrite (index 2) v) s s))

/-! ## Layouts -/

/-- The CRC of the journal (R89), step for step, with its two check values; it is stored little-endian, in a commit
line and, over bytes 0..59, in a superblock. -/
def Obligations.CrcFollowsItsDefinition : Prop :=
  (∀ bs : List Byte,
    crc bs = ~~~ (bs.foldl (fun c b =>
      (List.range 8).foldl (fun c _ => if c.getLsbD 0 then (c >>> 1) ^^^ 0xEDB88320#32 else c >>> 1)
        (c ^^^ b.setWidth 32)) 0xFFFFFFFF#32))
    ∧ crc ([0x31, 0x32, 0x33, 0x34, 0x35, 0x36, 0x37, 0x38, 0x39] : List Byte) = 0xCBF43926#32
    ∧ crc [] = 0#32
    ∧ (∀ (n : Nat) (seq : Seq) (c : BitVec 32) (i : Fin 4),
      (commitLine n seq c)[16 + i.val] = c.extractLsb' (8 * i.val) 8)
    ∧ ∀ (sb : Superblock) (i : Fin 4),
      (superblockLine sb)[60 + i.val] = (crc ((superblockLine sb).toList.take 60)).extractLsb' (8 * i.val) 8

/-- The header line (R87), the commit line (R88), a descriptor line's entries and the superblock line (R90), field
by field, every other byte zero; the order of a record's lines (R86): header, descriptor lines, data lines; the byte
address of a ring offset (R85); and the requests for a record's lines, one at each ring offset from its start on,
modulo R (R85, R97). -/
def Obligations.RecordLinesHaveTheirLayouts : Prop :=
  (∀ (st : Stream) (n : Nat) (seq : Seq) (c : BitVec 32), n ≤ 256 →
    (let h := headerLine st n seq;
      field h 0 4 = 0x47520001 ∧ field h 4 1 = st.val ∧ field h 5 1 = 0 ∧ field h 6 2 = n
        ∧ field h 8 8 = seq.toNat ∧ field h 16 2 = n + (n + 3) / 4 + 2 ∧ field h 18 46 = 0)
      ∧ (let l := commitLine n seq c;
        field l 0 4 = 0x47520002 ∧ field l 4 2 = 0 ∧ field l 6 2 = n ∧ field l 8 8 = seq.toNat
          ∧ field l 16 4 = c.toNat ∧ field l 20 44 = 0)
      ∧ ∀ (vs : List (Addr × Mask)) (j : Nat) (i : Fin 4),
        let d := descriptorLine vs j
        match vs[4 * j + i.val]? with
        | some v => field d (16 * i.val) 8 = v.1.toNat ∧ field d (16 * i.val + 8) 8 = v.2.toNat
        | none => field d (16 * i.val) 16 = 0)
    ∧ (∀ sb : Superblock, sb.tail < 2 ^ 32 →
      let l := superblockLine sb
      bytesOf l 0 8 = ([0x4B, 0x58, 0x4A, 0x52, 0x4E, 0x4C, 0x53, 0x42] : List Byte)
        ∧ field l 8 8 = sb.base.toNat ∧ field l 16 8 = sb.counter.toNat ∧ field l 24 8 = sb.applied.toNat
        ∧ field l 32 8 = sb.nextSeq.toNat ∧ field l 40 8 = sb.relocBase.toNat ∧ field l 48 4 = sb.tail
        ∧ field l 52 2 = 1 ∧ field l 54 1 = sb.k.toNat ∧ field l 55 1 = sb.relocK.toNat
        ∧ field l 56 1 = (if sb.retired then 1 else 0) ∧ field l 57 3 = 0 ∧ field l 60 4 = (crc (bytesOf l 0 60)).toNat)
    ∧ (∀ (st : Stream) (seq : Seq) (vs : List (Addr × Mask × Line)),
      let d := (vs.length + 3) / 4
      let body := recordBody st seq vs
      body.length = 1 + d + vs.length ∧ body[0]? = some (headerLine st vs.length seq)
        ∧ (∀ j, j < d → body[1 + j]? = some (descriptorLine (vs.map fun v => (v.1, v.2.1)) j))
        ∧ ∀ (i : Nat) (v : Addr × Mask × Line), vs[i]? = some v → body[1 + d + i]? = some v.2.2)
    ∧ (∀ r : Region, r.ringLength = 2 ^ r.k.toNat - 2
        ∧ (r.valid = true → ∀ o, o < r.ringLength → (r.ringAddr o).toNat = r.base.toNat + (2 + o) * 64))
    ∧ ∀ (r : Region) (start i : Nat) (ls : List Line) (j : Nat),
      (lineRequests r start i ls)[j]? = ls[j]?.map fun l =>
        { requester := .journalLine (i + j), line := r.ringAddr ((start + (i + j)) % r.ringLength),
          write := some (BitVec.allOnes 64, l), state := .ready }

/-- What recovery reads back from lines that the part wrote (R87, R88, R90, R126 to R129): a superblock is valid and
gives its fields; a header is accepted with its n; a commit line is whole for its body; descriptor entries give
their line and mask. -/
def Obligations.WrittenLinesReadBack : Prop :=
  (∀ sb : Superblock, sb.tail < 2 ^ 32 →
    superblockValid (superblockLine sb) = true ∧ readSuperblock (superblockLine sb) = sb)
    ∧ (∀ (st : Stream) (n : Nat) (seq : Seq), 1 ≤ n → n ≤ 256 →
      acceptedHeader? (headerLine st n seq) seq = some n)
    ∧ (∀ (n : Nat) (seq : Seq) (body : List Line), n ≤ 256 →
      commitWhole (commitLine n seq (crcLines body)) seq n body = true)
    ∧ ∀ (vs : List (Addr × Mask)) (i : Nat) (v : Addr × Mask), vs[i]? = some v →
      readDescriptor ((List.range (descriptorCount vs.length)).map (descriptorLine vs)) i = v

/-! ## Laws that every step keeps -/

/-- The laws hold right after reset. -/
def Obligations.LawsHoldAtReset : Prop :=
  CreditLaw State.reset ∧ SameLineLaw State.reset ∧ TagLaw State.reset ∧ StagingLaw State.reset
    ∧ DepthLaw State.reset ∧ RangeLaw State.reset ∧ SharedLaws State.reset ∧ FreshSerial State.reset

/-- Every step keeps the credits (R159). -/
def Obligations.StepsKeepCredits : Prop :=
 ∀ s t, step s = .next t → CreditLaw s → CreditLaw t

/-- Every step keeps the same-line rule of the media port (R152). Every step keeps each tag at one request (R151). -/
def Obligations.StepsKeepTheMediaRules : Prop :=
  (∀ s t, step s = .next t → SameLineLaw s → SameLineLaw t)
    ∧ (∀ s t, step s = .next t → TagLaw s → TagLaw t)

/-- Every step keeps the staging bounds (R25, R32), the depths of the queues (R10, R61, R70), the law of slot freeing (R36)
and at most one held write for each stream, so that the wait list has at most 16 records (R43). -/
def Obligations.StepsKeepBoundsAndDepths : Prop :=
  (∀ s t, step s = .next t → StagingLaw s → StagingLaw t)
    ∧ (∀ s t, step s = .next t → DepthLaw s → DepthLaw t)
    ∧ (∀ s t, step s = .next t → StagingLaw s → FreeingLaw s → FreeingLaw t)
    ∧ (∀ s t, step s = .next t → HeldLaw s → HeldLaw t)
    ∧ ∀ s, HeldLaw s → s.claims.waitList.length + s.staging.slotWait.length ≤ 16

/-- Every step keeps the configuration registers in their ranges (R165). -/
def Obligations.StepsKeepRegisterRanges : Prop :=
 ∀ s t, step s = .next t → RangeLaw s → RangeLaw t

/-- Every step, where the take it may make gets a fresh serial (R65), keeps, with the depths, the laws that hold
together: one response for each request and room for it (R160, R163), one stream per line (R39), the owners and the
index of the versions (R23, R26), the home writes (R104), the writer's lines (R97), the space of the journal (R93),
the pins of the reads (R35), the order of the queue and of the sequences (R91, R14, R16), the guard of a
relocation's target (R57, R134), whose lines are at the port only when every plain write posted to it has been
issued (R134 orders such a write only before the clearing of its own line: that the other lines wait too is the
model's choice, log 34), and what each mode runs and holds. Where they hold, slots in use are at most 1024 with the scratch (R25,
R37), a line has one claimant (R29, R39), every slot is FREE or in a group or listed by a read that pins it (R36), a
slot has at most 48 pins (R35), and applied-through is at most durable-through, which is below next sequence, while
the sequences are not within 33 of their end (R91; that they wrap there is the model's choice, log 21). -/
def Obligations.StepsKeepTheSharedLaws : Prop :=
  (∀ s t, step s = .next t → FreshSerial s → DepthLaw s → SharedLaws s → SharedLaws t)
    ∧ ∀ s, SharedLaws s →
      slotsInUse s ≤ Config.slotCount
        ∧ s.fabric.egress.length + s.fabric.takenUnanswered ≤ 128
        ∧ (∀ v ∈ s.staging.slots, ∀ st, v.claimant? = some st → claimant s v.line = some st)
        ∧ (s.modes.mode = .ready → s.journal.used ≤ s.journal.region.ringLength)
        ∧ (∀ v ∈ s.staging.slots, v.owner = none → ∃ e ∈ s.reads, v.num ∈ e.pinned)
        ∧ (DepthLaw s → ∀ v ∈ s.staging.slots, v.pins ≤ 48)
        ∧ (s.journal.appliedThrough.toNat + 33 < 2 ^ 48 →
          s.journal.appliedThrough.toNat ≤ s.journal.durableThrough.toNat
            ∧ s.journal.durableThrough.toNat < s.journal.nextSeq.toNat)
end

