-- ==== Sys2Proof/Laws/Bounds.lean ====
section
/-! SUPPORT. What the laws of the buffer, of owners, of pins, of sequences and of held writes say about single slots and about numbers. -/

namespace Sys2Proof.Machine

/-- A slot of the list is the one that its number finds. -/
theorem StagingLaw.slotAt_of_mem {s : State} (h : StagingLaw s) {v : Slot} (hv : v ∈ s.staging.slots) :
    slotAt s v.num = some v := by
  obtain ⟨h1, -, -⟩ := h
  unfold slotAt
  revert hv h1
  generalize s.staging.slots = l
  intro hv h1
  induction l with
  | nil => simp at hv
  | cons a l ih =>
    simp only [List.map_cons, List.pairwise_cons] at h1
    rcases List.mem_cons.1 hv with rfl | hv
    · simp
    · have := h1.1 v.num (List.mem_map_of_mem hv)
      rw [List.find?_cons_of_neg (by simp; omega)]
      exact ih hv h1.2

/-- At most 1024 slots are not FREE. -/
theorem StagingLaw.length_le {s : State} (h : StagingLaw s) : s.staging.slots.length ≤ Config.slotCount := by
  obtain ⟨h1, h2, -⟩ := h
  have hn : (s.staging.slots.map Slot.num).Nodup := h1.imp fun h => Nat.ne_of_lt h
  have hs : s.staging.slots.map Slot.num ⊆ List.range Config.slotCount := by
    intro x hx
    obtain ⟨v, hv, rfl⟩ := List.mem_map.1 hx
    exact List.mem_range.2 (h2 v hv)
  simpa using (hn.subperm hs).length_le

/-- The streams of a list without repetition are at most 16. -/
theorem streams_length_le {l : List Stream} (h : l.Nodup) : l.length ≤ 16 := by
  simpa using h.length_le_card

/-- A claiming version of an indexed buffer stands in its line's list. -/
theorem IndexLaw.mem_versions {s : State} (hi : IndexLaw s) (hs : StagingLaw s) {v : Slot} (hv : v ∈ s.staging.slots)
    (hc : v.state.claims = true) : v ∈ versions s v.line := by
  unfold versions
  refine List.mem_filterMap.2 ⟨_, List.mem_filter.2 ⟨hi.2.2 v hv ?_ ?_, by simp⟩, hs.slotAt_of_mem hv⟩ <;>
    (intro h; rw [h] at hc; cases hc)

/-- Two entries of the queue that are not APPLYING, told apart by their serials, have no slot in common. -/
theorem OwnerLaw.slots_disjoint {s : State} (h : OwnerLaw s) (hs : StagingLaw s) {d f : Entry} (hd : d ∈ s.groups.queue)
    (hf : f ∈ s.groups.queue) (hda : d.state ≠ .applying) (hfa : f.state ≠ .applying) (hdf : d.serial ≠ f.serial) :
    ∀ n ∈ d.slots, n ∉ f.slots := by
  intro n hn hn'
  obtain ⟨v, hv, rfl, ho, -⟩ := (h.2.1 d hd).2 hda n hn
  obtain ⟨w, hw, hwn, ho', -⟩ := (h.2.1 f hf).2 hfa v.num hn'
  have hvw : v = w := by
    have := hs.slotAt_of_mem hw
    rw [hwn, hs.slotAt_of_mem hv] at this
    exact Option.some.inj this
  subst hvw
  simp_all

/-- A pinned slot is listed by a read. -/
theorem PinLaw.listed {s : State} (h : PinLaw s) {v : Slot} (hv : v ∈ s.staging.slots) (hp : 0 < v.pins) :
    ∃ e ∈ s.reads, v.num ∈ e.pinned := by
  rw [h.2 v hv, List.countP_pos_iff] at hp
  simpa using hp

/-- A slot has at most as many pins as there are reads. -/
theorem PinLaw.pins_le {s : State} (h : PinLaw s) {v : Slot} (hv : v ∈ s.staging.slots) : v.pins ≤ s.reads.length := by
  rw [h.2 v hv]
  exact List.countP_le_length

/-- Away from the end of the sequences, durable-through is at most 32 above applied-through. -/
theorem SequenceLaw.durable_eq {s : State} (h : SequenceLaw s) (hn : s.journal.appliedThrough.toNat + 33 < 2 ^ 48) :
    ∃ d ≤ 32, s.journal.durableThrough.toNat = s.journal.appliedThrough.toNat + d := by
  have h2 : (s.journal.durableThrough - s.journal.appliedThrough).toNat ≤ 32 := h.2.1
  have h3 := s.journal.durableThrough.isLt
  rw [BitVec.toNat_sub] at h2
  exact ⟨_, h2, by omega⟩

end Sys2Proof.Machine
end

