-- ==== Sys2Proof/Laws/Moves.lean ====
section
/-! SUPPORT. What a part of an event can do to the state, said once: every meaning is a chain of the moves below
(Sys2Proof/Laws/Paths.lean), so that a law of the state is proved by looking at each kind of move. -/

namespace Sys2Proof.Machine

/-- A change of the slots: none is added, numbers are kept, and no slot becomes OPEN. -/
def SlotsShrink (a b : List Slot) : Prop :=
  (b.map Slot.num).Sublist (a.map Slot.num)
    ∧ (b.countP fun v => v.state == .opened) ≤ a.countP fun v => v.state == .opened

/-- A change of the slots by one new slot of a FREE number; the OPEN slots grow by one only below the quota (R32). -/
def SlotsGrow (a b : List Slot) : Prop :=
  ∃ (v : Slot) (c : List Slot),
    v.num < Config.slotCount ∧ c.map Slot.num = a.map Slot.num ∧ v.num ∉ a.map Slot.num ∧ b = insertSlot v c
      ∧ ((b.countP fun u => u.state == .opened) ≤ (a.countP fun u => u.state == .opened)
        ∨ (a.countP fun u => u.state == .opened) < Config.openQuota
          ∧ (b.countP fun u => u.state == .opened) ≤ (a.countP fun u => u.state == .opened) + 1)

/-- Every flag that was set is set. -/
def FlagsKept (a b : Regs) : Prop := ∀ i, a.flags.getLsbD i = true → b.flags.getLsbD i = true

/-- One primitive change of the state, with what its place in the meanings guarantees. -/
inductive Move : State → State → Prop where
  /-- Responses enter the egress queue; the taken-unanswered count, the arbiter's pointer and the serial. -/
  | fabric (s : State) (f : Fabric) (hi : f.ingress = s.fabric.ingress) (hc : f.credits = s.fabric.credits)
      (he : s.fabric.egress <+: f.egress) :
      Move s { s with fabric := f }
  /-- A head entry is freed. -/
  | freeHead (s : State) (st : Stream) (h : ingressOf s st ≠ []) : Move s (freeHead s st)
  /-- Requests in the queues are given their answers. -/
  | answered (s : State) (status : Status) :
      Move s { s with fabric := { s.fabric with ingress := s.fabric.ingress.map (List.map (answerEntry status)) } }
  /-- A request arrives with a credit. -/
  | arrival (s : State) (e : IngressEntry) (st : Stream) (n : Nat)
      (h : (ingressOf s st).length < Config.ingressDepth) :
      Move s
        { s with fabric :=
          { s.fabric with
            ingress := s.fabric.ingress.write st (ingressOf s st ++ [e])
            credits := s.fabric.credits.write st (s.fabric.credits.read st - 1)
            arrivals := n } }
  | decoder (s : State) (d : Decoder) : Move s { s with decoder := d }
  /-- The group table, and a commit queue that does not grow. -/
  | groups (s : State) (g : Groups) (h : g.queue.length ≤ s.groups.queue.length) : Move s { s with groups := g }
  /-- A group is sealed into a queue that has room. -/
  | sealed (s : State) (g : Groups) (h : s.groups.queue.length < Config.commitDepth)
      (hq : g.queue.length = s.groups.queue.length + 1) : Move s { s with groups := g }
  /-- Slots change state, are freed, or are pinned; the index, the slot-wait list and the scratch area change. -/
  | slots (s : State) (g : Staging) (h : SlotsShrink s.staging.slots g.slots) : Move s { s with staging := g }
  /-- A FREE slot is allocated. -/
  | slotAdded (s : State) (g : Staging) (h : SlotsGrow s.staging.slots g.slots) : Move s { s with staging := g }
  | claims (s : State) (c : Claims) : Move s { s with claims := c }
  | posted (s : State) (p : Posted) (h : p.records.length ≤ s.posted.records.length) : Move s { s with posted := p }
  | postedAdded (s : State) (p : Posted) (h : s.posted.records.length < Config.postedDepth)
      (hp : p.records.length = s.posted.records.length + 1) : Move s { s with posted := p }
  | reads (s : State) (es : List TrackerEntry) (h : es.length ≤ s.reads.length) : Move s { s with reads := es }
  | readAdded (s : State) (e : TrackerEntry) (h : s.reads.length < Config.trackerDepth) :
      Move s { s with reads := s.reads ++ [e] }
  | journal (s : State) (j : Journal) : Move s { s with journal := j }
  | apply (s : State) (a : Apply) : Move s { s with apply := a }
  | ckpt (s : State) (c : Checkpoint) : Move s { s with ckpt := c }
  /-- The mode, the start procedures, the relocation unit and the drain controller. -/
  | control (s : State) (m : ModeCtl) (r : Option Recovery) (f : Option Format) (x : Reloc) (d : Drain) :
      Move s { s with modes := m, recovery := r, format := f, reloc := x, drain := d }
  /-- Requests leave the hazard table; the arbiter and the link-reset flag change. -/
  | media (s : State) (m : Media) (h : m.requests.Sublist s.media.requests) : Move s { s with media := m }
  /-- Requests become ready. -/
  | handed (s : State) (rs : List MediaReq) (h : ∀ r ∈ rs, r.state = .ready) : Move s (handOver s rs)
  /-- An eligible request, ready or awaiting its reissue, is issued under its own tag or a FREE one (R152, R153). -/
  | issued (s : State) (i : Nat) (r : MediaReq) (t : MediaTag) (n d : Nat) (hi : s.media.requests[i]? = some r)
      (ht : r.tag? = some t ∨ (r.tag? = none ∧ tagRecord s t = none))
      (hl : ∀ q ∈ s.media.requests.eraseIdx i,
        q.outstanding = true → q.line ≠ r.line ∨ (q.isRead = true ∧ r.isRead = true)) :
      Move s
        { s with media := { s.media with requests := s.media.requests.set i { r with state := .issued t n d } } }
  /-- Requests change their state but not their tag, line or kind. -/
  | restated (s : State) (f : MediaReq → MediaReq) (ht : ∀ r, (f r).tag? = r.tag?) (hl : ∀ r, (f r).line = r.line)
      (hw : ∀ r, (f r).write = r.write) :
      Move s { s with media := { s.media with requests := s.media.requests.map f } }
  /-- Flags are set; enables, counters, latches and the registers that take any value change. -/
  | regs (s : State) (r : Regs) (h : r.config = s.regs.config) (hf : FlagsKept s.regs r) : Move s { s with regs := r }
  /-- A configuration register takes a value of its range (R165). -/
  | ranged (s : State) (r : Regs)
      (h : ∀ (i : Nat) (v : Nat), r.config[i]? = some v → s.regs.config[i]? = some v ∨
        ∃ low high, [(1, 256), (1, 65535), (0, 65535), (1, 4095), (0, 15), (1, 65535), (2, 16), (1, 64)][i]?
          = some (low, high) ∧ low ≤ v ∧ v ≤ high) (hf : FlagsKept s.regs r) :
      Move s { s with regs := r }
  | wires (s : State) (w : Wires) : Move s { s with wires := w }

/-- A chain of moves. -/
abbrev Path : State → State → Prop := Relation.ReflTransGen Move

end Sys2Proof.Machine
end

