-- ==== Sys2Proof/Laws/State.lean ====
section
/-! SUPPORT. What each update of the state leaves in each field, true by unfolding: one conjunct for each field, so that no
proof unfolds a record update. -/

namespace Sys2Proof.Machine

@[simp] theorem tick_fields (s : State) :
    (tick s).pending = s.pending ∧ (tick s).fabric = s.fabric ∧ (tick s).decoder = s.decoder
    ∧ (tick s).groups = s.groups ∧ (tick s).staging = s.staging ∧ (tick s).claims = s.claims
    ∧ (tick s).posted = s.posted ∧ (tick s).reads = s.reads ∧ (tick s).journal = s.journal ∧ (tick s).apply = s.apply
    ∧ (tick s).ckpt = s.ckpt ∧ (tick s).modes = s.modes ∧ (tick s).recovery = s.recovery ∧ (tick s).format = s.format
    ∧ (tick s).reloc = s.reloc ∧ (tick s).drain = s.drain ∧ (tick s).media = s.media ∧ (tick s).regs = s.regs
    ∧ (tick s).wires = s.wires ∧ (tick s).now = s.now + 1 :=
  ⟨rfl, rfl, rfl, rfl, rfl, rfl, rfl, rfl, rfl, rfl, rfl, rfl, rfl, rfl, rfl, rfl, rfl, rfl, rfl, rfl⟩

@[simp] theorem setMode_fields (s : State) (m : Mode) :
    (setMode s m).pending = s.pending ∧ (setMode s m).now = s.now ∧ (setMode s m).fabric = s.fabric
    ∧ (setMode s m).decoder = s.decoder ∧ (setMode s m).groups = s.groups ∧ (setMode s m).staging = s.staging
    ∧ (setMode s m).claims = s.claims ∧ (setMode s m).posted = s.posted ∧ (setMode s m).reads = s.reads
    ∧ (setMode s m).journal = s.journal ∧ (setMode s m).apply = s.apply ∧ (setMode s m).ckpt = s.ckpt
    ∧ (setMode s m).recovery = s.recovery ∧ (setMode s m).format = s.format ∧ (setMode s m).reloc = s.reloc
    ∧ (setMode s m).drain = s.drain ∧ (setMode s m).media = s.media ∧ (setMode s m).regs = s.regs
    ∧ (setMode s m).wires = s.wires ∧ (setMode s m).modes = { s.modes with mode := m } :=
  ⟨rfl, rfl, rfl, rfl, rfl, rfl, rfl, rfl, rfl, rfl, rfl, rfl, rfl, rfl, rfl, rfl, rfl, rfl, rfl, rfl⟩

@[simp] theorem setStart_fields (s : State) (v : StartStatus) :
    (setStart s v).pending = s.pending ∧ (setStart s v).now = s.now ∧ (setStart s v).fabric = s.fabric
    ∧ (setStart s v).decoder = s.decoder ∧ (setStart s v).groups = s.groups ∧ (setStart s v).staging = s.staging
    ∧ (setStart s v).claims = s.claims ∧ (setStart s v).posted = s.posted ∧ (setStart s v).reads = s.reads
    ∧ (setStart s v).journal = s.journal ∧ (setStart s v).apply = s.apply ∧ (setStart s v).ckpt = s.ckpt
    ∧ (setStart s v).recovery = s.recovery ∧ (setStart s v).format = s.format ∧ (setStart s v).reloc = s.reloc
    ∧ (setStart s v).drain = s.drain ∧ (setStart s v).media = s.media ∧ (setStart s v).regs = s.regs
    ∧ (setStart s v).wires = s.wires ∧ (setStart s v).modes = { s.modes with startStatus := v } :=
  ⟨rfl, rfl, rfl, rfl, rfl, rfl, rfl, rfl, rfl, rfl, rfl, rfl, rfl, rfl, rfl, rfl, rfl, rfl, rfl, rfl⟩

@[simp] theorem setCommand_fields (s : State) (v : CommandStatus) :
    (setCommand s v).pending = s.pending ∧ (setCommand s v).now = s.now ∧ (setCommand s v).fabric = s.fabric
    ∧ (setCommand s v).decoder = s.decoder ∧ (setCommand s v).groups = s.groups ∧ (setCommand s v).staging = s.staging
    ∧ (setCommand s v).claims = s.claims ∧ (setCommand s v).posted = s.posted ∧ (setCommand s v).reads = s.reads
    ∧ (setCommand s v).journal = s.journal ∧ (setCommand s v).apply = s.apply ∧ (setCommand s v).ckpt = s.ckpt
    ∧ (setCommand s v).recovery = s.recovery ∧ (setCommand s v).format = s.format ∧ (setCommand s v).reloc = s.reloc
    ∧ (setCommand s v).drain = s.drain ∧ (setCommand s v).media = s.media ∧ (setCommand s v).regs = s.regs
    ∧ (setCommand s v).wires = s.wires ∧ (setCommand s v).modes = { s.modes with lastCommand := v } :=
  ⟨rfl, rfl, rfl, rfl, rfl, rfl, rfl, rfl, rfl, rfl, rfl, rfl, rfl, rfl, rfl, rfl, rfl, rfl, rfl, rfl⟩

@[simp] theorem setFlag_fields (s : State) (f : EventFlag) :
    (setFlag s f).pending = s.pending ∧ (setFlag s f).now = s.now ∧ (setFlag s f).fabric = s.fabric
    ∧ (setFlag s f).decoder = s.decoder ∧ (setFlag s f).groups = s.groups ∧ (setFlag s f).staging = s.staging
    ∧ (setFlag s f).claims = s.claims ∧ (setFlag s f).posted = s.posted ∧ (setFlag s f).reads = s.reads
    ∧ (setFlag s f).journal = s.journal ∧ (setFlag s f).apply = s.apply ∧ (setFlag s f).ckpt = s.ckpt
    ∧ (setFlag s f).modes = s.modes ∧ (setFlag s f).recovery = s.recovery ∧ (setFlag s f).format = s.format
    ∧ (setFlag s f).reloc = s.reloc ∧ (setFlag s f).drain = s.drain ∧ (setFlag s f).media = s.media
    ∧ (setFlag s f).wires = s.wires ∧ (setFlag s f).regs = { s.regs with flags := s.regs.flags ||| f.bit } :=
  ⟨rfl, rfl, rfl, rfl, rfl, rfl, rfl, rfl, rfl, rfl, rfl, rfl, rfl, rfl, rfl, rfl, rfl, rfl, rfl, rfl⟩

@[simp] theorem clearFlags_fields (s : State) (v : BitVec 12) :
    (clearFlags s v).pending = s.pending ∧ (clearFlags s v).now = s.now ∧ (clearFlags s v).fabric = s.fabric
    ∧ (clearFlags s v).decoder = s.decoder ∧ (clearFlags s v).groups = s.groups ∧ (clearFlags s v).staging = s.staging
    ∧ (clearFlags s v).claims = s.claims ∧ (clearFlags s v).posted = s.posted ∧ (clearFlags s v).reads = s.reads
    ∧ (clearFlags s v).journal = s.journal ∧ (clearFlags s v).apply = s.apply ∧ (clearFlags s v).ckpt = s.ckpt
    ∧ (clearFlags s v).modes = s.modes ∧ (clearFlags s v).recovery = s.recovery ∧ (clearFlags s v).format = s.format
    ∧ (clearFlags s v).reloc = s.reloc ∧ (clearFlags s v).drain = s.drain ∧ (clearFlags s v).media = s.media
    ∧ (clearFlags s v).wires = s.wires ∧ (clearFlags s v).regs = { s.regs with flags := s.regs.flags &&& ~~~ v } :=
  ⟨rfl, rfl, rfl, rfl, rfl, rfl, rfl, rfl, rfl, rfl, rfl, rfl, rfl, rfl, rfl, rfl, rfl, rfl, rfl, rfl⟩

@[simp] theorem writeEnables_fields (s : State) (v : BitVec 12) :
    (writeEnables s v).pending = s.pending ∧ (writeEnables s v).now = s.now ∧ (writeEnables s v).fabric = s.fabric
    ∧ (writeEnables s v).decoder = s.decoder ∧ (writeEnables s v).groups = s.groups
    ∧ (writeEnables s v).staging = s.staging ∧ (writeEnables s v).claims = s.claims
    ∧ (writeEnables s v).posted = s.posted ∧ (writeEnables s v).reads = s.reads
    ∧ (writeEnables s v).journal = s.journal ∧ (writeEnables s v).apply = s.apply ∧ (writeEnables s v).ckpt = s.ckpt
    ∧ (writeEnables s v).modes = s.modes ∧ (writeEnables s v).recovery = s.recovery
    ∧ (writeEnables s v).format = s.format ∧ (writeEnables s v).reloc = s.reloc ∧ (writeEnables s v).drain = s.drain
    ∧ (writeEnables s v).media = s.media ∧ (writeEnables s v).wires = s.wires
    ∧ (writeEnables s v).regs = { s.regs with enables := v } :=
  ⟨rfl, rfl, rfl, rfl, rfl, rfl, rfl, rfl, rfl, rfl, rfl, rfl, rfl, rfl, rfl, rfl, rfl, rfl, rfl, rfl⟩

@[simp] theorem countAborted_fields (s : State) :
    (countAborted s).pending = s.pending ∧ (countAborted s).now = s.now ∧ (countAborted s).fabric = s.fabric
    ∧ (countAborted s).decoder = s.decoder ∧ (countAborted s).groups = s.groups ∧ (countAborted s).staging = s.staging
    ∧ (countAborted s).claims = s.claims ∧ (countAborted s).posted = s.posted ∧ (countAborted s).reads = s.reads
    ∧ (countAborted s).journal = s.journal ∧ (countAborted s).apply = s.apply ∧ (countAborted s).ckpt = s.ckpt
    ∧ (countAborted s).modes = s.modes ∧ (countAborted s).recovery = s.recovery ∧ (countAborted s).format = s.format
    ∧ (countAborted s).reloc = s.reloc ∧ (countAborted s).drain = s.drain ∧ (countAborted s).media = s.media
    ∧ (countAborted s).wires = s.wires
    ∧ (countAborted s).regs = { s.regs with abortedCount := s.regs.abortedCount + 1, flags := s.regs.flags ||| EventFlag.abort.bit } :=
  ⟨rfl, rfl, rfl, rfl, rfl, rfl, rfl, rfl, rfl, rfl, rfl, rfl, rfl, rfl, rfl, rfl, rfl, rfl, rfl, rfl⟩

@[simp] theorem countCommitted_fields (s : State) :
    (countCommitted s).pending = s.pending ∧ (countCommitted s).now = s.now ∧ (countCommitted s).fabric = s.fabric
    ∧ (countCommitted s).decoder = s.decoder ∧ (countCommitted s).groups = s.groups
    ∧ (countCommitted s).staging = s.staging ∧ (countCommitted s).claims = s.claims
    ∧ (countCommitted s).posted = s.posted ∧ (countCommitted s).reads = s.reads
    ∧ (countCommitted s).journal = s.journal ∧ (countCommitted s).apply = s.apply ∧ (countCommitted s).ckpt = s.ckpt
    ∧ (countCommitted s).modes = s.modes ∧ (countCommitted s).recovery = s.recovery
    ∧ (countCommitted s).format = s.format ∧ (countCommitted s).reloc = s.reloc ∧ (countCommitted s).drain = s.drain
    ∧ (countCommitted s).media = s.media ∧ (countCommitted s).wires = s.wires
    ∧ (countCommitted s).regs = { s.regs with committedCount := s.regs.committedCount + 1 } :=
  ⟨rfl, rfl, rfl, rfl, rfl, rfl, rfl, rfl, rfl, rfl, rfl, rfl, rfl, rfl, rfl, rfl, rfl, rfl, rfl, rfl⟩

@[simp] theorem countLost_fields (s : State) (st : Stream) :
    (countLost s st).pending = s.pending ∧ (countLost s st).now = s.now ∧ (countLost s st).fabric = s.fabric
    ∧ (countLost s st).decoder = s.decoder ∧ (countLost s st).groups = s.groups ∧ (countLost s st).staging = s.staging
    ∧ (countLost s st).claims = s.claims ∧ (countLost s st).reads = s.reads ∧ (countLost s st).journal = s.journal
    ∧ (countLost s st).apply = s.apply ∧ (countLost s st).ckpt = s.ckpt ∧ (countLost s st).modes = s.modes
    ∧ (countLost s st).recovery = s.recovery ∧ (countLost s st).format = s.format ∧ (countLost s st).reloc = s.reloc
    ∧ (countLost s st).drain = s.drain ∧ (countLost s st).media = s.media ∧ (countLost s st).wires = s.wires
    ∧ (countLost s st).regs = { s.regs with flags := s.regs.flags ||| EventFlag.postedLost.bit, lostCount := lostAfter s.regs.lostCount }
    ∧ (countLost s st).posted = { s.posted with lossMarks := s.posted.lossMarks.write st true } :=
  ⟨rfl, rfl, rfl, rfl, rfl, rfl, rfl, rfl, rfl, rfl, rfl, rfl, rfl, rfl, rfl, rfl, rfl, rfl, rfl, rfl⟩

@[simp] theorem zeroCounters_fields (s : State) :
    (zeroCounters s).pending = s.pending ∧ (zeroCounters s).now = s.now ∧ (zeroCounters s).fabric = s.fabric
    ∧ (zeroCounters s).decoder = s.decoder ∧ (zeroCounters s).groups = s.groups ∧ (zeroCounters s).staging = s.staging
    ∧ (zeroCounters s).claims = s.claims ∧ (zeroCounters s).posted = s.posted ∧ (zeroCounters s).reads = s.reads
    ∧ (zeroCounters s).journal = s.journal ∧ (zeroCounters s).apply = s.apply ∧ (zeroCounters s).ckpt = s.ckpt
    ∧ (zeroCounters s).modes = s.modes ∧ (zeroCounters s).recovery = s.recovery ∧ (zeroCounters s).format = s.format
    ∧ (zeroCounters s).reloc = s.reloc ∧ (zeroCounters s).drain = s.drain ∧ (zeroCounters s).media = s.media
    ∧ (zeroCounters s).wires = s.wires
    ∧ (zeroCounters s).regs = { s.regs with committedCount := 0, abortedCount := 0, lostCount := 0 } :=
  ⟨rfl, rfl, rfl, rfl, rfl, rfl, rfl, rfl, rfl, rfl, rfl, rfl, rfl, rfl, rfl, rfl, rfl, rfl, rfl, rfl⟩

@[simp] theorem enterEgress_fields (s : State) (r : Response) :
    (enterEgress s r).pending = s.pending ∧ (enterEgress s r).now = s.now ∧ (enterEgress s r).decoder = s.decoder
    ∧ (enterEgress s r).groups = s.groups ∧ (enterEgress s r).staging = s.staging
    ∧ (enterEgress s r).claims = s.claims ∧ (enterEgress s r).posted = s.posted ∧ (enterEgress s r).reads = s.reads
    ∧ (enterEgress s r).journal = s.journal ∧ (enterEgress s r).apply = s.apply ∧ (enterEgress s r).ckpt = s.ckpt
    ∧ (enterEgress s r).modes = s.modes ∧ (enterEgress s r).recovery = s.recovery
    ∧ (enterEgress s r).format = s.format ∧ (enterEgress s r).reloc = s.reloc ∧ (enterEgress s r).drain = s.drain
    ∧ (enterEgress s r).media = s.media ∧ (enterEgress s r).regs = s.regs ∧ (enterEgress s r).wires = s.wires
    ∧ (enterEgress s r).fabric = { s.fabric with egress := s.fabric.egress ++ [r] } :=
  ⟨rfl, rfl, rfl, rfl, rfl, rfl, rfl, rfl, rfl, rfl, rfl, rfl, rfl, rfl, rfl, rfl, rfl, rfl, rfl, rfl⟩

@[simp] theorem answerTaken_fields (s : State) (r : Response) :
    (answerTaken s r).pending = s.pending ∧ (answerTaken s r).now = s.now ∧ (answerTaken s r).decoder = s.decoder
    ∧ (answerTaken s r).groups = s.groups ∧ (answerTaken s r).staging = s.staging
    ∧ (answerTaken s r).claims = s.claims ∧ (answerTaken s r).posted = s.posted ∧ (answerTaken s r).reads = s.reads
    ∧ (answerTaken s r).journal = s.journal ∧ (answerTaken s r).apply = s.apply ∧ (answerTaken s r).ckpt = s.ckpt
    ∧ (answerTaken s r).modes = s.modes ∧ (answerTaken s r).recovery = s.recovery
    ∧ (answerTaken s r).format = s.format ∧ (answerTaken s r).reloc = s.reloc ∧ (answerTaken s r).drain = s.drain
    ∧ (answerTaken s r).media = s.media ∧ (answerTaken s r).regs = s.regs ∧ (answerTaken s r).wires = s.wires
    ∧ (answerTaken s r).fabric = { s.fabric with egress := s.fabric.egress ++ [r], takenUnanswered := s.fabric.takenUnanswered - 1 } :=
  ⟨rfl, rfl, rfl, rfl, rfl, rfl, rfl, rfl, rfl, rfl, rfl, rfl, rfl, rfl, rfl, rfl, rfl, rfl, rfl, rfl⟩

@[simp] theorem freeHead_fields (s : State) (st : Stream) :
    (freeHead s st).pending = s.pending ∧ (freeHead s st).now = s.now ∧ (freeHead s st).decoder = s.decoder
    ∧ (freeHead s st).groups = s.groups ∧ (freeHead s st).staging = s.staging ∧ (freeHead s st).claims = s.claims
    ∧ (freeHead s st).posted = s.posted ∧ (freeHead s st).reads = s.reads ∧ (freeHead s st).journal = s.journal
    ∧ (freeHead s st).apply = s.apply ∧ (freeHead s st).ckpt = s.ckpt ∧ (freeHead s st).modes = s.modes
    ∧ (freeHead s st).recovery = s.recovery ∧ (freeHead s st).format = s.format ∧ (freeHead s st).reloc = s.reloc
    ∧ (freeHead s st).drain = s.drain ∧ (freeHead s st).media = s.media ∧ (freeHead s st).regs = s.regs
    ∧ (freeHead s st).fabric = { s.fabric with ingress := s.fabric.ingress.write st (ingressOf s st).tail, credits := s.fabric.credits.write st (s.fabric.credits.read st + 1) }
    ∧ (freeHead s st).wires = { s.wires with fabricOut := s.wires.fabricOut ++ [.credit st] } :=
  ⟨rfl, rfl, rfl, rfl, rfl, rfl, rfl, rfl, rfl, rfl, rfl, rfl, rfl, rfl, rfl, rfl, rfl, rfl, rfl, rfl⟩

@[simp] theorem takeHead_fields (s : State) (st : Stream) :
    (takeHead s st).pending = s.pending ∧ (takeHead s st).now = s.now ∧ (takeHead s st).decoder = s.decoder
    ∧ (takeHead s st).groups = s.groups ∧ (takeHead s st).staging = s.staging ∧ (takeHead s st).claims = s.claims
    ∧ (takeHead s st).posted = s.posted ∧ (takeHead s st).reads = s.reads ∧ (takeHead s st).journal = s.journal
    ∧ (takeHead s st).apply = s.apply ∧ (takeHead s st).ckpt = s.ckpt ∧ (takeHead s st).modes = s.modes
    ∧ (takeHead s st).recovery = s.recovery ∧ (takeHead s st).format = s.format ∧ (takeHead s st).reloc = s.reloc
    ∧ (takeHead s st).drain = s.drain ∧ (takeHead s st).media = s.media ∧ (takeHead s st).regs = s.regs
    ∧ (takeHead s st).wires = { s.wires with fabricOut := s.wires.fabricOut ++ [.credit st] } :=
  ⟨rfl, rfl, rfl, rfl, rfl, rfl, rfl, rfl, rfl, rfl, rfl, rfl, rfl, rfl, rfl, rfl, rfl, rfl, rfl⟩

@[simp] theorem mapSlots_fields (s : State) (ns : List Nat) (f : Slot → Slot) :
    (mapSlots s ns f).pending = s.pending ∧ (mapSlots s ns f).now = s.now ∧ (mapSlots s ns f).fabric = s.fabric
    ∧ (mapSlots s ns f).decoder = s.decoder ∧ (mapSlots s ns f).groups = s.groups
    ∧ (mapSlots s ns f).claims = s.claims ∧ (mapSlots s ns f).posted = s.posted ∧ (mapSlots s ns f).reads = s.reads
    ∧ (mapSlots s ns f).journal = s.journal ∧ (mapSlots s ns f).apply = s.apply ∧ (mapSlots s ns f).ckpt = s.ckpt
    ∧ (mapSlots s ns f).modes = s.modes ∧ (mapSlots s ns f).recovery = s.recovery
    ∧ (mapSlots s ns f).format = s.format ∧ (mapSlots s ns f).reloc = s.reloc ∧ (mapSlots s ns f).drain = s.drain
    ∧ (mapSlots s ns f).media = s.media ∧ (mapSlots s ns f).regs = s.regs ∧ (mapSlots s ns f).wires = s.wires
    ∧ (mapSlots s ns f).staging = { s.staging with slots := s.staging.slots.map fun v => if v.num ∈ ns then f v else v } :=
  ⟨rfl, rfl, rfl, rfl, rfl, rfl, rfl, rfl, rfl, rfl, rfl, rfl, rfl, rfl, rfl, rfl, rfl, rfl, rfl, rfl⟩

@[simp] theorem addVersion_fields (s : State) (v : Slot) :
    (addVersion s v).pending = s.pending ∧ (addVersion s v).now = s.now ∧ (addVersion s v).fabric = s.fabric
    ∧ (addVersion s v).decoder = s.decoder ∧ (addVersion s v).groups = s.groups ∧ (addVersion s v).claims = s.claims
    ∧ (addVersion s v).posted = s.posted ∧ (addVersion s v).reads = s.reads ∧ (addVersion s v).journal = s.journal
    ∧ (addVersion s v).apply = s.apply ∧ (addVersion s v).ckpt = s.ckpt ∧ (addVersion s v).modes = s.modes
    ∧ (addVersion s v).recovery = s.recovery ∧ (addVersion s v).format = s.format ∧ (addVersion s v).reloc = s.reloc
    ∧ (addVersion s v).drain = s.drain ∧ (addVersion s v).media = s.media ∧ (addVersion s v).regs = s.regs
    ∧ (addVersion s v).wires = s.wires
    ∧ (addVersion s v).staging = { s.staging with slots := insertSlot v s.staging.slots, index := s.staging.index ++ [{ line := v.line, slot := v.num }] } :=
  ⟨rfl, rfl, rfl, rfl, rfl, rfl, rfl, rfl, rfl, rfl, rfl, rfl, rfl, rfl, rfl, rfl, rfl, rfl, rfl, rfl⟩

@[simp] theorem pin_fields (s : State) (ns : List Nat) :
    (pin s ns).pending = s.pending ∧ (pin s ns).now = s.now ∧ (pin s ns).fabric = s.fabric
    ∧ (pin s ns).decoder = s.decoder ∧ (pin s ns).groups = s.groups ∧ (pin s ns).claims = s.claims
    ∧ (pin s ns).posted = s.posted ∧ (pin s ns).reads = s.reads ∧ (pin s ns).journal = s.journal
    ∧ (pin s ns).apply = s.apply ∧ (pin s ns).ckpt = s.ckpt ∧ (pin s ns).modes = s.modes
    ∧ (pin s ns).recovery = s.recovery ∧ (pin s ns).format = s.format ∧ (pin s ns).reloc = s.reloc
    ∧ (pin s ns).drain = s.drain ∧ (pin s ns).media = s.media ∧ (pin s ns).regs = s.regs ∧ (pin s ns).wires = s.wires :=
  ⟨rfl, rfl, rfl, rfl, rfl, rfl, rfl, rfl, rfl, rfl, rfl, rfl, rfl, rfl, rfl, rfl, rfl, rfl, rfl⟩

@[simp] theorem setRecord_fields (s : State) (st : Stream) (r : GroupRecord) :
    (setRecord s st r).pending = s.pending ∧ (setRecord s st r).now = s.now ∧ (setRecord s st r).fabric = s.fabric
    ∧ (setRecord s st r).decoder = s.decoder ∧ (setRecord s st r).staging = s.staging
    ∧ (setRecord s st r).claims = s.claims ∧ (setRecord s st r).posted = s.posted ∧ (setRecord s st r).reads = s.reads
    ∧ (setRecord s st r).journal = s.journal ∧ (setRecord s st r).apply = s.apply ∧ (setRecord s st r).ckpt = s.ckpt
    ∧ (setRecord s st r).modes = s.modes ∧ (setRecord s st r).recovery = s.recovery
    ∧ (setRecord s st r).format = s.format ∧ (setRecord s st r).reloc = s.reloc ∧ (setRecord s st r).drain = s.drain
    ∧ (setRecord s st r).media = s.media ∧ (setRecord s st r).regs = s.regs ∧ (setRecord s st r).wires = s.wires
    ∧ (setRecord s st r).groups = { s.groups with table := s.groups.table.write st r } :=
  ⟨rfl, rfl, rfl, rfl, rfl, rfl, rfl, rfl, rfl, rfl, rfl, rfl, rfl, rfl, rfl, rfl, rfl, rfl, rfl, rfl⟩

@[simp] theorem mapEntry_fields (s : State) (n : Serial) (f : Entry → Entry) :
    (mapEntry s n f).pending = s.pending ∧ (mapEntry s n f).now = s.now ∧ (mapEntry s n f).fabric = s.fabric
    ∧ (mapEntry s n f).decoder = s.decoder ∧ (mapEntry s n f).staging = s.staging ∧ (mapEntry s n f).claims = s.claims
    ∧ (mapEntry s n f).posted = s.posted ∧ (mapEntry s n f).reads = s.reads ∧ (mapEntry s n f).journal = s.journal
    ∧ (mapEntry s n f).apply = s.apply ∧ (mapEntry s n f).ckpt = s.ckpt ∧ (mapEntry s n f).modes = s.modes
    ∧ (mapEntry s n f).recovery = s.recovery ∧ (mapEntry s n f).format = s.format ∧ (mapEntry s n f).reloc = s.reloc
    ∧ (mapEntry s n f).drain = s.drain ∧ (mapEntry s n f).media = s.media ∧ (mapEntry s n f).regs = s.regs
    ∧ (mapEntry s n f).wires = s.wires
    ∧ (mapEntry s n f).groups = { s.groups with queue := s.groups.queue.map fun e => if e.serial = n then f e else e } :=
  ⟨rfl, rfl, rfl, rfl, rfl, rfl, rfl, rfl, rfl, rfl, rfl, rfl, rfl, rfl, rfl, rfl, rfl, rfl, rfl, rfl⟩

@[simp] theorem removeEntry_fields (s : State) (n : Serial) :
    (removeEntry s n).pending = s.pending ∧ (removeEntry s n).now = s.now ∧ (removeEntry s n).fabric = s.fabric
    ∧ (removeEntry s n).decoder = s.decoder ∧ (removeEntry s n).staging = s.staging
    ∧ (removeEntry s n).claims = s.claims ∧ (removeEntry s n).posted = s.posted ∧ (removeEntry s n).reads = s.reads
    ∧ (removeEntry s n).journal = s.journal ∧ (removeEntry s n).apply = s.apply ∧ (removeEntry s n).ckpt = s.ckpt
    ∧ (removeEntry s n).modes = s.modes ∧ (removeEntry s n).recovery = s.recovery
    ∧ (removeEntry s n).format = s.format ∧ (removeEntry s n).reloc = s.reloc ∧ (removeEntry s n).drain = s.drain
    ∧ (removeEntry s n).media = s.media ∧ (removeEntry s n).regs = s.regs ∧ (removeEntry s n).wires = s.wires
    ∧ (removeEntry s n).groups = { s.groups with queue := s.groups.queue.filter fun e => e.serial != n } :=
  ⟨rfl, rfl, rfl, rfl, rfl, rfl, rfl, rfl, rfl, rfl, rfl, rfl, rfl, rfl, rfl, rfl, rfl, rfl, rfl, rfl⟩

@[simp] theorem clearLossMark_fields (s : State) (st : Stream) :
    (clearLossMark s st).pending = s.pending ∧ (clearLossMark s st).now = s.now
    ∧ (clearLossMark s st).fabric = s.fabric ∧ (clearLossMark s st).decoder = s.decoder
    ∧ (clearLossMark s st).groups = s.groups ∧ (clearLossMark s st).staging = s.staging
    ∧ (clearLossMark s st).claims = s.claims ∧ (clearLossMark s st).reads = s.reads
    ∧ (clearLossMark s st).journal = s.journal ∧ (clearLossMark s st).apply = s.apply
    ∧ (clearLossMark s st).ckpt = s.ckpt ∧ (clearLossMark s st).modes = s.modes
    ∧ (clearLossMark s st).recovery = s.recovery ∧ (clearLossMark s st).format = s.format
    ∧ (clearLossMark s st).reloc = s.reloc ∧ (clearLossMark s st).drain = s.drain
    ∧ (clearLossMark s st).media = s.media ∧ (clearLossMark s st).regs = s.regs ∧ (clearLossMark s st).wires = s.wires
    ∧ (clearLossMark s st).posted = { s.posted with lossMarks := s.posted.lossMarks.write st false } :=
  ⟨rfl, rfl, rfl, rfl, rfl, rfl, rfl, rfl, rfl, rfl, rfl, rfl, rfl, rfl, rfl, rfl, rfl, rfl, rfl, rfl⟩

@[simp] theorem answerCommitAborted_fields (s : State) (st : Stream) (t : FabricTag) (r : Reason) :
    (answerCommitAborted s st t r).pending = s.pending ∧ (answerCommitAborted s st t r).now = s.now
    ∧ (answerCommitAborted s st t r).decoder = s.decoder ∧ (answerCommitAborted s st t r).groups = s.groups
    ∧ (answerCommitAborted s st t r).staging = s.staging ∧ (answerCommitAborted s st t r).claims = s.claims
    ∧ (answerCommitAborted s st t r).reads = s.reads ∧ (answerCommitAborted s st t r).journal = s.journal
    ∧ (answerCommitAborted s st t r).apply = s.apply ∧ (answerCommitAborted s st t r).ckpt = s.ckpt
    ∧ (answerCommitAborted s st t r).modes = s.modes ∧ (answerCommitAborted s st t r).recovery = s.recovery
    ∧ (answerCommitAborted s st t r).format = s.format ∧ (answerCommitAborted s st t r).reloc = s.reloc
    ∧ (answerCommitAborted s st t r).drain = s.drain ∧ (answerCommitAborted s st t r).media = s.media
    ∧ (answerCommitAborted s st t r).regs = s.regs ∧ (answerCommitAborted s st t r).wires = s.wires
    ∧ (answerCommitAborted s st t r).fabric = (answerTaken s (abortedAnswer st t r)).fabric
    ∧ (answerCommitAborted s st t r).posted = { s.posted with lossMarks := s.posted.lossMarks.write st false } :=
  ⟨rfl, rfl, rfl, rfl, rfl, rfl, rfl, rfl, rfl, rfl, rfl, rfl, rfl, rfl, rfl, rfl, rfl, rfl, rfl, rfl⟩

@[simp] theorem sendCommitted_fields (s : State) (e : Entry) (b : Bool) :
    (sendCommitted s e b).pending = s.pending ∧ (sendCommitted s e b).now = s.now
    ∧ (sendCommitted s e b).decoder = s.decoder ∧ (sendCommitted s e b).groups = s.groups
    ∧ (sendCommitted s e b).staging = s.staging ∧ (sendCommitted s e b).claims = s.claims
    ∧ (sendCommitted s e b).reads = s.reads ∧ (sendCommitted s e b).journal = s.journal
    ∧ (sendCommitted s e b).apply = s.apply ∧ (sendCommitted s e b).ckpt = s.ckpt
    ∧ (sendCommitted s e b).modes = s.modes ∧ (sendCommitted s e b).recovery = s.recovery
    ∧ (sendCommitted s e b).format = s.format ∧ (sendCommitted s e b).reloc = s.reloc
    ∧ (sendCommitted s e b).drain = s.drain ∧ (sendCommitted s e b).media = s.media
    ∧ (sendCommitted s e b).regs = s.regs ∧ (sendCommitted s e b).wires = s.wires
    ∧ (sendCommitted s e b).posted = { s.posted with lossMarks := s.posted.lossMarks.write e.stream false } :=
  ⟨rfl, rfl, rfl, rfl, rfl, rfl, rfl, rfl, rfl, rfl, rfl, rfl, rfl, rfl, rfl, rfl, rfl, rfl, rfl⟩

@[simp] theorem sendIndoubt_fields (s : State) (e : Entry) :
    (sendIndoubt s e).pending = s.pending ∧ (sendIndoubt s e).now = s.now ∧ (sendIndoubt s e).decoder = s.decoder
    ∧ (sendIndoubt s e).groups = s.groups ∧ (sendIndoubt s e).staging = s.staging
    ∧ (sendIndoubt s e).claims = s.claims ∧ (sendIndoubt s e).posted = s.posted ∧ (sendIndoubt s e).reads = s.reads
    ∧ (sendIndoubt s e).journal = s.journal ∧ (sendIndoubt s e).apply = s.apply ∧ (sendIndoubt s e).ckpt = s.ckpt
    ∧ (sendIndoubt s e).modes = s.modes ∧ (sendIndoubt s e).recovery = s.recovery
    ∧ (sendIndoubt s e).format = s.format ∧ (sendIndoubt s e).reloc = s.reloc ∧ (sendIndoubt s e).drain = s.drain
    ∧ (sendIndoubt s e).media = s.media ∧ (sendIndoubt s e).wires = s.wires
    ∧ (sendIndoubt s e).fabric = (answerTaken s (plainAnswer e.stream e.tag .indoubt)).fabric
    ∧ (sendIndoubt s e).regs = { s.regs with flags := s.regs.flags ||| EventFlag.indoubt.bit } :=
  ⟨rfl, rfl, rfl, rfl, rfl, rfl, rfl, rfl, rfl, rfl, rfl, rfl, rfl, rfl, rfl, rfl, rfl, rfl, rfl, rfl⟩

@[simp] theorem handOver_fields (s : State) (rs : List MediaReq) :
    (handOver s rs).pending = s.pending ∧ (handOver s rs).now = s.now ∧ (handOver s rs).fabric = s.fabric
    ∧ (handOver s rs).decoder = s.decoder ∧ (handOver s rs).groups = s.groups ∧ (handOver s rs).staging = s.staging
    ∧ (handOver s rs).claims = s.claims ∧ (handOver s rs).posted = s.posted ∧ (handOver s rs).reads = s.reads
    ∧ (handOver s rs).journal = s.journal ∧ (handOver s rs).apply = s.apply ∧ (handOver s rs).ckpt = s.ckpt
    ∧ (handOver s rs).modes = s.modes ∧ (handOver s rs).recovery = s.recovery ∧ (handOver s rs).format = s.format
    ∧ (handOver s rs).reloc = s.reloc ∧ (handOver s rs).drain = s.drain ∧ (handOver s rs).regs = s.regs
    ∧ (handOver s rs).wires = s.wires ∧ (handOver s rs).media = { s.media with requests := s.media.requests ++ rs } :=
  ⟨rfl, rfl, rfl, rfl, rfl, rfl, rfl, rfl, rfl, rfl, rfl, rfl, rfl, rfl, rfl, rfl, rfl, rfl, rfl, rfl⟩

@[simp] theorem dropTag_fields (s : State) (t : MediaTag) :
    (dropTag s t).pending = s.pending ∧ (dropTag s t).now = s.now ∧ (dropTag s t).fabric = s.fabric
    ∧ (dropTag s t).decoder = s.decoder ∧ (dropTag s t).groups = s.groups ∧ (dropTag s t).staging = s.staging
    ∧ (dropTag s t).claims = s.claims ∧ (dropTag s t).posted = s.posted ∧ (dropTag s t).reads = s.reads
    ∧ (dropTag s t).journal = s.journal ∧ (dropTag s t).apply = s.apply ∧ (dropTag s t).ckpt = s.ckpt
    ∧ (dropTag s t).modes = s.modes ∧ (dropTag s t).recovery = s.recovery ∧ (dropTag s t).format = s.format
    ∧ (dropTag s t).reloc = s.reloc ∧ (dropTag s t).drain = s.drain ∧ (dropTag s t).regs = s.regs
    ∧ (dropTag s t).wires = s.wires
    ∧ (dropTag s t).media = { s.media with requests := s.media.requests.filter fun r => r.tag? != some t } :=
  ⟨rfl, rfl, rfl, rfl, rfl, rfl, rfl, rfl, rfl, rfl, rfl, rfl, rfl, rfl, rfl, rfl, rfl, rfl, rfl, rfl⟩

@[simp] theorem withdraw_fields (s : State) (p : Requester → Bool) :
    (withdraw s p).pending = s.pending ∧ (withdraw s p).now = s.now ∧ (withdraw s p).fabric = s.fabric
    ∧ (withdraw s p).decoder = s.decoder ∧ (withdraw s p).groups = s.groups ∧ (withdraw s p).staging = s.staging
    ∧ (withdraw s p).claims = s.claims ∧ (withdraw s p).posted = s.posted ∧ (withdraw s p).reads = s.reads
    ∧ (withdraw s p).journal = s.journal ∧ (withdraw s p).apply = s.apply ∧ (withdraw s p).ckpt = s.ckpt
    ∧ (withdraw s p).modes = s.modes ∧ (withdraw s p).recovery = s.recovery ∧ (withdraw s p).format = s.format
    ∧ (withdraw s p).reloc = s.reloc ∧ (withdraw s p).drain = s.drain ∧ (withdraw s p).regs = s.regs
    ∧ (withdraw s p).wires = s.wires
    ∧ (withdraw s p).media = { s.media with requests := s.media.requests.filter fun r => r.outstanding || !p r.requester } :=
  ⟨rfl, rfl, rfl, rfl, rfl, rfl, rfl, rfl, rfl, rfl, rfl, rfl, rfl, rfl, rfl, rfl, rfl, rfl, rfl, rfl⟩

@[simp] theorem abandonAll_fields (s : State) :
    (abandonAll s).pending = s.pending ∧ (abandonAll s).now = s.now ∧ (abandonAll s).fabric = s.fabric
    ∧ (abandonAll s).decoder = s.decoder ∧ (abandonAll s).groups = s.groups ∧ (abandonAll s).staging = s.staging
    ∧ (abandonAll s).claims = s.claims ∧ (abandonAll s).posted = s.posted ∧ (abandonAll s).reads = s.reads
    ∧ (abandonAll s).journal = s.journal ∧ (abandonAll s).apply = s.apply ∧ (abandonAll s).ckpt = s.ckpt
    ∧ (abandonAll s).modes = s.modes ∧ (abandonAll s).recovery = s.recovery ∧ (abandonAll s).format = s.format
    ∧ (abandonAll s).reloc = s.reloc ∧ (abandonAll s).drain = s.drain ∧ (abandonAll s).regs = s.regs
    ∧ (abandonAll s).wires = s.wires ∧ (abandonAll s).media = { s.media with requests := [] } :=
  ⟨rfl, rfl, rfl, rfl, rfl, rfl, rfl, rfl, rfl, rfl, rfl, rfl, rfl, rfl, rfl, rfl, rfl, rfl, rfl, rfl⟩

@[simp] theorem startLinkDeadline_fields (s : State) :
    (startLinkDeadline s).pending = s.pending ∧ (startLinkDeadline s).now = s.now
    ∧ (startLinkDeadline s).fabric = s.fabric ∧ (startLinkDeadline s).decoder = s.decoder
    ∧ (startLinkDeadline s).groups = s.groups ∧ (startLinkDeadline s).staging = s.staging
    ∧ (startLinkDeadline s).claims = s.claims ∧ (startLinkDeadline s).posted = s.posted
    ∧ (startLinkDeadline s).reads = s.reads ∧ (startLinkDeadline s).journal = s.journal
    ∧ (startLinkDeadline s).apply = s.apply ∧ (startLinkDeadline s).ckpt = s.ckpt
    ∧ (startLinkDeadline s).modes = s.modes ∧ (startLinkDeadline s).recovery = s.recovery
    ∧ (startLinkDeadline s).format = s.format ∧ (startLinkDeadline s).reloc = s.reloc
    ∧ (startLinkDeadline s).drain = s.drain ∧ (startLinkDeadline s).regs = s.regs
    ∧ (startLinkDeadline s).wires = s.wires
    ∧ (startLinkDeadline s).media = { s.media with linkDeadline := some (s.now + s.regs.mediaTimeout) } :=
  ⟨rfl, rfl, rfl, rfl, rfl, rfl, rfl, rfl, rfl, rfl, rfl, rfl, rfl, rfl, rfl, rfl, rfl, rfl, rfl, rfl⟩

@[simp] theorem keepTrigger_fields (s : State) :
    (keepTrigger s).pending = s.pending ∧ (keepTrigger s).now = s.now ∧ (keepTrigger s).fabric = s.fabric
    ∧ (keepTrigger s).decoder = s.decoder ∧ (keepTrigger s).groups = s.groups ∧ (keepTrigger s).staging = s.staging
    ∧ (keepTrigger s).claims = s.claims ∧ (keepTrigger s).posted = s.posted ∧ (keepTrigger s).reads = s.reads
    ∧ (keepTrigger s).journal = s.journal ∧ (keepTrigger s).apply = s.apply ∧ (keepTrigger s).modes = s.modes
    ∧ (keepTrigger s).recovery = s.recovery ∧ (keepTrigger s).format = s.format ∧ (keepTrigger s).reloc = s.reloc
    ∧ (keepTrigger s).drain = s.drain ∧ (keepTrigger s).media = s.media ∧ (keepTrigger s).regs = s.regs
    ∧ (keepTrigger s).wires = s.wires ∧ (keepTrigger s).ckpt = { s.ckpt with trigger := true } :=
  ⟨rfl, rfl, rfl, rfl, rfl, rfl, rfl, rfl, rfl, rfl, rfl, rfl, rfl, rfl, rfl, rfl, rfl, rfl, rfl, rfl⟩

@[simp] theorem dropCheckpoint_fields (s : State) :
    (dropCheckpoint s).pending = s.pending ∧ (dropCheckpoint s).now = s.now ∧ (dropCheckpoint s).fabric = s.fabric
    ∧ (dropCheckpoint s).decoder = s.decoder ∧ (dropCheckpoint s).groups = s.groups
    ∧ (dropCheckpoint s).staging = s.staging ∧ (dropCheckpoint s).claims = s.claims
    ∧ (dropCheckpoint s).posted = s.posted ∧ (dropCheckpoint s).reads = s.reads
    ∧ (dropCheckpoint s).journal = s.journal ∧ (dropCheckpoint s).apply = s.apply ∧ (dropCheckpoint s).modes = s.modes
    ∧ (dropCheckpoint s).recovery = s.recovery ∧ (dropCheckpoint s).format = s.format
    ∧ (dropCheckpoint s).reloc = s.reloc ∧ (dropCheckpoint s).drain = s.drain ∧ (dropCheckpoint s).media = s.media
    ∧ (dropCheckpoint s).regs = s.regs ∧ (dropCheckpoint s).wires = s.wires
    ∧ (dropCheckpoint s).ckpt = { s.ckpt with inFlight := none, trigger := false } :=
  ⟨rfl, rfl, rfl, rfl, rfl, rfl, rfl, rfl, rfl, rfl, rfl, rfl, rfl, rfl, rfl, rfl, rfl, rfl, rfl, rfl⟩

@[simp] theorem beginCheckpoint_fields (s : State) :
    (beginCheckpoint s).pending = s.pending ∧ (beginCheckpoint s).now = s.now ∧ (beginCheckpoint s).fabric = s.fabric
    ∧ (beginCheckpoint s).decoder = s.decoder ∧ (beginCheckpoint s).groups = s.groups
    ∧ (beginCheckpoint s).staging = s.staging ∧ (beginCheckpoint s).claims = s.claims
    ∧ (beginCheckpoint s).posted = s.posted ∧ (beginCheckpoint s).reads = s.reads
    ∧ (beginCheckpoint s).journal = s.journal ∧ (beginCheckpoint s).apply = s.apply
    ∧ (beginCheckpoint s).modes = s.modes ∧ (beginCheckpoint s).recovery = s.recovery
    ∧ (beginCheckpoint s).format = s.format ∧ (beginCheckpoint s).reloc = s.reloc
    ∧ (beginCheckpoint s).drain = s.drain ∧ (beginCheckpoint s).regs = s.regs ∧ (beginCheckpoint s).wires = s.wires
    ∧ (beginCheckpoint s).ckpt = { s.ckpt with inFlight := some { sb := currentSuperblock s, span := s.journal.retiredSpan } } :=
  ⟨rfl, rfl, rfl, rfl, rfl, rfl, rfl, rfl, rfl, rfl, rfl, rfl, rfl, rfl, rfl, rfl, rfl, rfl, rfl⟩

@[simp] theorem setWriter_fields (s : State) (w : Writer) :
    (setWriter s w).pending = s.pending ∧ (setWriter s w).now = s.now ∧ (setWriter s w).fabric = s.fabric
    ∧ (setWriter s w).decoder = s.decoder ∧ (setWriter s w).groups = s.groups ∧ (setWriter s w).staging = s.staging
    ∧ (setWriter s w).claims = s.claims ∧ (setWriter s w).posted = s.posted ∧ (setWriter s w).reads = s.reads
    ∧ (setWriter s w).apply = s.apply ∧ (setWriter s w).ckpt = s.ckpt ∧ (setWriter s w).modes = s.modes
    ∧ (setWriter s w).recovery = s.recovery ∧ (setWriter s w).format = s.format ∧ (setWriter s w).reloc = s.reloc
    ∧ (setWriter s w).drain = s.drain ∧ (setWriter s w).media = s.media ∧ (setWriter s w).regs = s.regs
    ∧ (setWriter s w).wires = s.wires ∧ (setWriter s w).journal = { s.journal with writer := w } :=
  ⟨rfl, rfl, rfl, rfl, rfl, rfl, rfl, rfl, rfl, rfl, rfl, rfl, rfl, rfl, rfl, rfl, rfl, rfl, rfl, rfl⟩

@[simp] theorem enterWriting_fields (s : State) (e : Entry) :
    (enterWriting s e).pending = s.pending ∧ (enterWriting s e).now = s.now ∧ (enterWriting s e).fabric = s.fabric
    ∧ (enterWriting s e).decoder = s.decoder ∧ (enterWriting s e).groups = s.groups
    ∧ (enterWriting s e).staging = s.staging ∧ (enterWriting s e).claims = s.claims
    ∧ (enterWriting s e).posted = s.posted ∧ (enterWriting s e).reads = s.reads ∧ (enterWriting s e).apply = s.apply
    ∧ (enterWriting s e).ckpt = s.ckpt ∧ (enterWriting s e).modes = s.modes ∧ (enterWriting s e).recovery = s.recovery
    ∧ (enterWriting s e).format = s.format ∧ (enterWriting s e).reloc = s.reloc ∧ (enterWriting s e).drain = s.drain
    ∧ (enterWriting s e).regs = s.regs ∧ (enterWriting s e).wires = s.wires
    ∧ (enterWriting s e).journal = { s.journal with writer := .writing false } :=
  ⟨rfl, rfl, rfl, rfl, rfl, rfl, rfl, rfl, rfl, rfl, rfl, rfl, rfl, rfl, rfl, rfl, rfl, rfl, rfl⟩

@[simp] theorem applyIdle_fields (s : State) :
    (applyIdle s).pending = s.pending ∧ (applyIdle s).now = s.now ∧ (applyIdle s).fabric = s.fabric
    ∧ (applyIdle s).decoder = s.decoder ∧ (applyIdle s).groups = s.groups ∧ (applyIdle s).staging = s.staging
    ∧ (applyIdle s).claims = s.claims ∧ (applyIdle s).posted = s.posted ∧ (applyIdle s).reads = s.reads
    ∧ (applyIdle s).journal = s.journal ∧ (applyIdle s).ckpt = s.ckpt ∧ (applyIdle s).modes = s.modes
    ∧ (applyIdle s).recovery = s.recovery ∧ (applyIdle s).format = s.format ∧ (applyIdle s).reloc = s.reloc
    ∧ (applyIdle s).drain = s.drain ∧ (applyIdle s).media = s.media ∧ (applyIdle s).regs = s.regs
    ∧ (applyIdle s).wires = s.wires ∧ (applyIdle s).apply = Apply.reset :=
  ⟨rfl, rfl, rfl, rfl, rfl, rfl, rfl, rfl, rfl, rfl, rfl, rfl, rfl, rfl, rfl, rfl, rfl, rfl, rfl, rfl⟩

@[simp] theorem advanceApplied_fields (s : State) (q : Seq) (x : Extent) :
    (advanceApplied s q x).pending = s.pending ∧ (advanceApplied s q x).now = s.now
    ∧ (advanceApplied s q x).fabric = s.fabric ∧ (advanceApplied s q x).decoder = s.decoder
    ∧ (advanceApplied s q x).groups = s.groups ∧ (advanceApplied s q x).staging = s.staging
    ∧ (advanceApplied s q x).claims = s.claims ∧ (advanceApplied s q x).posted = s.posted
    ∧ (advanceApplied s q x).reads = s.reads ∧ (advanceApplied s q x).apply = s.apply
    ∧ (advanceApplied s q x).ckpt = s.ckpt ∧ (advanceApplied s q x).modes = s.modes
    ∧ (advanceApplied s q x).recovery = s.recovery ∧ (advanceApplied s q x).format = s.format
    ∧ (advanceApplied s q x).reloc = s.reloc ∧ (advanceApplied s q x).drain = s.drain
    ∧ (advanceApplied s q x).media = s.media ∧ (advanceApplied s q x).regs = s.regs
    ∧ (advanceApplied s q x).wires = s.wires :=
  ⟨rfl, rfl, rfl, rfl, rfl, rfl, rfl, rfl, rfl, rfl, rfl, rfl, rfl, rfl, rfl, rfl, rfl, rfl, rfl⟩

@[simp] theorem takeRegion_fields (s : State) :
    (takeRegion s).pending = s.pending ∧ (takeRegion s).now = s.now ∧ (takeRegion s).fabric = s.fabric
    ∧ (takeRegion s).groups = s.groups ∧ (takeRegion s).staging = s.staging ∧ (takeRegion s).claims = s.claims
    ∧ (takeRegion s).posted = s.posted ∧ (takeRegion s).reads = s.reads ∧ (takeRegion s).apply = s.apply
    ∧ (takeRegion s).ckpt = s.ckpt ∧ (takeRegion s).modes = s.modes ∧ (takeRegion s).recovery = s.recovery
    ∧ (takeRegion s).format = s.format ∧ (takeRegion s).reloc = s.reloc ∧ (takeRegion s).drain = s.drain
    ∧ (takeRegion s).media = s.media ∧ (takeRegion s).regs = s.regs ∧ (takeRegion s).wires = s.wires
    ∧ (takeRegion s).journal = { s.journal with region := configRegion s }
    ∧ (takeRegion s).decoder = { s.decoder with guardActive := some (configRegion s), guardTarget := none } :=
  ⟨rfl, rfl, rfl, rfl, rfl, rfl, rfl, rfl, rfl, rfl, rfl, rfl, rfl, rfl, rfl, rfl, rfl, rfl, rfl, rfl⟩

@[simp] theorem endReloc_fields (s : State) (x : RelocResult) :
    (endReloc s x).pending = s.pending ∧ (endReloc s x).now = s.now ∧ (endReloc s x).fabric = s.fabric
    ∧ (endReloc s x).groups = s.groups ∧ (endReloc s x).staging = s.staging ∧ (endReloc s x).claims = s.claims
    ∧ (endReloc s x).posted = s.posted ∧ (endReloc s x).reads = s.reads ∧ (endReloc s x).journal = s.journal
    ∧ (endReloc s x).apply = s.apply ∧ (endReloc s x).ckpt = s.ckpt ∧ (endReloc s x).modes = s.modes
    ∧ (endReloc s x).recovery = s.recovery ∧ (endReloc s x).format = s.format ∧ (endReloc s x).drain = s.drain
    ∧ (endReloc s x).media = s.media ∧ (endReloc s x).wires = s.wires
    ∧ (endReloc s x).reloc = { s.reloc with state := .none, result := x }
    ∧ (endReloc s x).decoder = { s.decoder with guardTarget := none }
    ∧ (endReloc s x).regs = { s.regs with flags := s.regs.flags ||| EventFlag.relocDone.bit } :=
  ⟨rfl, rfl, rfl, rfl, rfl, rfl, rfl, rfl, rfl, rfl, rfl, rfl, rfl, rfl, rfl, rfl, rfl, rfl, rfl, rfl⟩

@[simp] theorem reinitStaging_fields (s : State) :
    (reinitStaging s).pending = s.pending ∧ (reinitStaging s).now = s.now ∧ (reinitStaging s).fabric = s.fabric
    ∧ (reinitStaging s).decoder = s.decoder ∧ (reinitStaging s).groups = s.groups
    ∧ (reinitStaging s).claims = s.claims ∧ (reinitStaging s).posted = s.posted ∧ (reinitStaging s).reads = s.reads
    ∧ (reinitStaging s).journal = s.journal ∧ (reinitStaging s).apply = s.apply ∧ (reinitStaging s).ckpt = s.ckpt
    ∧ (reinitStaging s).modes = s.modes ∧ (reinitStaging s).recovery = s.recovery
    ∧ (reinitStaging s).format = s.format ∧ (reinitStaging s).reloc = s.reloc ∧ (reinitStaging s).drain = s.drain
    ∧ (reinitStaging s).media = s.media ∧ (reinitStaging s).regs = s.regs ∧ (reinitStaging s).wires = s.wires
    ∧ (reinitStaging s).staging = Staging.reset :=
  ⟨rfl, rfl, rfl, rfl, rfl, rfl, rfl, rfl, rfl, rfl, rfl, rfl, rfl, rfl, rfl, rfl, rfl, rfl, rfl, rfl⟩

@[simp] theorem idleWorkers_fields (s : State) :
    (idleWorkers s).pending = s.pending ∧ (idleWorkers s).now = s.now ∧ (idleWorkers s).fabric = s.fabric
    ∧ (idleWorkers s).decoder = s.decoder ∧ (idleWorkers s).groups = s.groups ∧ (idleWorkers s).staging = s.staging
    ∧ (idleWorkers s).claims = s.claims ∧ (idleWorkers s).posted = s.posted ∧ (idleWorkers s).reads = s.reads
    ∧ (idleWorkers s).modes = s.modes ∧ (idleWorkers s).recovery = s.recovery ∧ (idleWorkers s).format = s.format
    ∧ (idleWorkers s).reloc = s.reloc ∧ (idleWorkers s).drain = s.drain ∧ (idleWorkers s).media = s.media
    ∧ (idleWorkers s).regs = s.regs ∧ (idleWorkers s).wires = s.wires
    ∧ (idleWorkers s).journal = { s.journal with writer := .idle } ∧ (idleWorkers s).apply = Apply.reset
    ∧ (idleWorkers s).ckpt = { s.ckpt with inFlight := none, trigger := false } :=
  ⟨rfl, rfl, rfl, rfl, rfl, rfl, rfl, rfl, rfl, rfl, rfl, rfl, rfl, rfl, rfl, rfl, rfl, rfl, rfl, rfl⟩

@[simp] theorem beginDrain_fields (s : State) (o : DrainOrigin) :
    (beginDrain s o).pending = s.pending ∧ (beginDrain s o).now = s.now ∧ (beginDrain s o).fabric = s.fabric
    ∧ (beginDrain s o).decoder = s.decoder ∧ (beginDrain s o).groups = s.groups ∧ (beginDrain s o).staging = s.staging
    ∧ (beginDrain s o).claims = s.claims ∧ (beginDrain s o).posted = s.posted ∧ (beginDrain s o).reads = s.reads
    ∧ (beginDrain s o).journal = s.journal ∧ (beginDrain s o).apply = s.apply ∧ (beginDrain s o).ckpt = s.ckpt
    ∧ (beginDrain s o).modes = s.modes ∧ (beginDrain s o).recovery = s.recovery ∧ (beginDrain s o).format = s.format
    ∧ (beginDrain s o).reloc = s.reloc ∧ (beginDrain s o).media = s.media ∧ (beginDrain s o).regs = s.regs
    ∧ (beginDrain s o).wires = s.wires
    ∧ (beginDrain s o).drain = { s.drain with status := .active, origin := some o, deadline := some (s.now + s.regs.drainBudget), finalRaised := false } :=
  ⟨rfl, rfl, rfl, rfl, rfl, rfl, rfl, rfl, rfl, rfl, rfl, rfl, rfl, rfl, rfl, rfl, rfl, rfl, rfl, rfl⟩

@[simp] theorem samplePfw_fields (s : State) (b : Bool) :
    (samplePfw s b).pending = s.pending ∧ (samplePfw s b).now = s.now ∧ (samplePfw s b).fabric = s.fabric
    ∧ (samplePfw s b).decoder = s.decoder ∧ (samplePfw s b).groups = s.groups ∧ (samplePfw s b).staging = s.staging
    ∧ (samplePfw s b).claims = s.claims ∧ (samplePfw s b).posted = s.posted ∧ (samplePfw s b).reads = s.reads
    ∧ (samplePfw s b).journal = s.journal ∧ (samplePfw s b).apply = s.apply ∧ (samplePfw s b).ckpt = s.ckpt
    ∧ (samplePfw s b).modes = s.modes ∧ (samplePfw s b).recovery = s.recovery ∧ (samplePfw s b).format = s.format
    ∧ (samplePfw s b).reloc = s.reloc ∧ (samplePfw s b).media = s.media ∧ (samplePfw s b).regs = s.regs
    ∧ (samplePfw s b).wires = s.wires ∧ (samplePfw s b).drain = { s.drain with pfwAsserted := b } :=
  ⟨rfl, rfl, rfl, rfl, rfl, rfl, rfl, rfl, rfl, rfl, rfl, rfl, rfl, rfl, rfl, rfl, rfl, rfl, rfl, rfl⟩

@[simp] theorem setRecovery_fields (s : State) (r : Recovery) :
    (setRecovery s r).pending = s.pending ∧ (setRecovery s r).now = s.now ∧ (setRecovery s r).fabric = s.fabric
    ∧ (setRecovery s r).decoder = s.decoder ∧ (setRecovery s r).groups = s.groups
    ∧ (setRecovery s r).staging = s.staging ∧ (setRecovery s r).claims = s.claims
    ∧ (setRecovery s r).posted = s.posted ∧ (setRecovery s r).reads = s.reads ∧ (setRecovery s r).journal = s.journal
    ∧ (setRecovery s r).apply = s.apply ∧ (setRecovery s r).ckpt = s.ckpt ∧ (setRecovery s r).modes = s.modes
    ∧ (setRecovery s r).format = s.format ∧ (setRecovery s r).reloc = s.reloc ∧ (setRecovery s r).drain = s.drain
    ∧ (setRecovery s r).media = s.media ∧ (setRecovery s r).regs = s.regs ∧ (setRecovery s r).wires = s.wires
    ∧ (setRecovery s r).recovery = some r :=
  ⟨rfl, rfl, rfl, rfl, rfl, rfl, rfl, rfl, rfl, rfl, rfl, rfl, rfl, rfl, rfl, rfl, rfl, rfl, rfl, rfl⟩

@[simp] theorem setScratch_fields (s : State) (ls : List (Nat × Line)) :
    (setScratch s ls).pending = s.pending ∧ (setScratch s ls).now = s.now ∧ (setScratch s ls).fabric = s.fabric
    ∧ (setScratch s ls).decoder = s.decoder ∧ (setScratch s ls).groups = s.groups
    ∧ (setScratch s ls).claims = s.claims ∧ (setScratch s ls).posted = s.posted ∧ (setScratch s ls).reads = s.reads
    ∧ (setScratch s ls).journal = s.journal ∧ (setScratch s ls).apply = s.apply ∧ (setScratch s ls).ckpt = s.ckpt
    ∧ (setScratch s ls).modes = s.modes ∧ (setScratch s ls).recovery = s.recovery
    ∧ (setScratch s ls).format = s.format ∧ (setScratch s ls).reloc = s.reloc ∧ (setScratch s ls).drain = s.drain
    ∧ (setScratch s ls).media = s.media ∧ (setScratch s ls).regs = s.regs ∧ (setScratch s ls).wires = s.wires
    ∧ (setScratch s ls).staging = { s.staging with scratch := some ls } :=
  ⟨rfl, rfl, rfl, rfl, rfl, rfl, rfl, rfl, rfl, rfl, rfl, rfl, rfl, rfl, rfl, rfl, rfl, rfl, rfl, rfl⟩

@[simp] theorem setReloc_fields (s : State) (x : RelocState) :
    (setReloc s x).pending = s.pending ∧ (setReloc s x).now = s.now ∧ (setReloc s x).fabric = s.fabric
    ∧ (setReloc s x).decoder = s.decoder ∧ (setReloc s x).groups = s.groups ∧ (setReloc s x).staging = s.staging
    ∧ (setReloc s x).claims = s.claims ∧ (setReloc s x).posted = s.posted ∧ (setReloc s x).reads = s.reads
    ∧ (setReloc s x).journal = s.journal ∧ (setReloc s x).apply = s.apply ∧ (setReloc s x).ckpt = s.ckpt
    ∧ (setReloc s x).modes = s.modes ∧ (setReloc s x).recovery = s.recovery ∧ (setReloc s x).format = s.format
    ∧ (setReloc s x).drain = s.drain ∧ (setReloc s x).media = s.media ∧ (setReloc s x).regs = s.regs
    ∧ (setReloc s x).wires = s.wires ∧ (setReloc s x).reloc = { s.reloc with state := x } :=
  ⟨rfl, rfl, rfl, rfl, rfl, rfl, rfl, rfl, rfl, rfl, rfl, rfl, rfl, rfl, rfl, rfl, rfl, rfl, rfl, rfl⟩

@[simp] theorem setFormat_fields (s : State) (g : ClearStage) (b : Bool) :
    (setFormat s g b).pending = s.pending ∧ (setFormat s g b).now = s.now ∧ (setFormat s g b).fabric = s.fabric
    ∧ (setFormat s g b).decoder = s.decoder ∧ (setFormat s g b).groups = s.groups
    ∧ (setFormat s g b).staging = s.staging ∧ (setFormat s g b).claims = s.claims
    ∧ (setFormat s g b).posted = s.posted ∧ (setFormat s g b).reads = s.reads ∧ (setFormat s g b).journal = s.journal
    ∧ (setFormat s g b).apply = s.apply ∧ (setFormat s g b).ckpt = s.ckpt ∧ (setFormat s g b).modes = s.modes
    ∧ (setFormat s g b).recovery = s.recovery ∧ (setFormat s g b).reloc = s.reloc ∧ (setFormat s g b).drain = s.drain
    ∧ (setFormat s g b).media = s.media ∧ (setFormat s g b).regs = s.regs ∧ (setFormat s g b).wires = s.wires
    ∧ (setFormat s g b).format = some { stage := g, failed := b } :=
  ⟨rfl, rfl, rfl, rfl, rfl, rfl, rfl, rfl, rfl, rfl, rfl, rfl, rfl, rfl, rfl, rfl, rfl, rfl, rfl, rfl⟩

@[simp] theorem leaveSlotWait_fields (s : State) (st : Stream) :
    (leaveSlotWait s st).pending = s.pending ∧ (leaveSlotWait s st).now = s.now
    ∧ (leaveSlotWait s st).fabric = s.fabric ∧ (leaveSlotWait s st).decoder = s.decoder
    ∧ (leaveSlotWait s st).groups = s.groups ∧ (leaveSlotWait s st).claims = s.claims
    ∧ (leaveSlotWait s st).posted = s.posted ∧ (leaveSlotWait s st).reads = s.reads
    ∧ (leaveSlotWait s st).journal = s.journal ∧ (leaveSlotWait s st).apply = s.apply
    ∧ (leaveSlotWait s st).ckpt = s.ckpt ∧ (leaveSlotWait s st).modes = s.modes
    ∧ (leaveSlotWait s st).recovery = s.recovery ∧ (leaveSlotWait s st).format = s.format
    ∧ (leaveSlotWait s st).reloc = s.reloc ∧ (leaveSlotWait s st).drain = s.drain
    ∧ (leaveSlotWait s st).media = s.media ∧ (leaveSlotWait s st).regs = s.regs ∧ (leaveSlotWait s st).wires = s.wires :=
  ⟨rfl, rfl, rfl, rfl, rfl, rfl, rfl, rfl, rfl, rfl, rfl, rfl, rfl, rfl, rfl, rfl, rfl, rfl, rfl⟩

@[simp] theorem leaveWaitList_fields (s : State) (st : Stream) :
    (leaveWaitList s st).pending = s.pending ∧ (leaveWaitList s st).now = s.now
    ∧ (leaveWaitList s st).fabric = s.fabric ∧ (leaveWaitList s st).decoder = s.decoder
    ∧ (leaveWaitList s st).groups = s.groups ∧ (leaveWaitList s st).staging = s.staging
    ∧ (leaveWaitList s st).posted = s.posted ∧ (leaveWaitList s st).reads = s.reads
    ∧ (leaveWaitList s st).journal = s.journal ∧ (leaveWaitList s st).apply = s.apply
    ∧ (leaveWaitList s st).ckpt = s.ckpt ∧ (leaveWaitList s st).modes = s.modes
    ∧ (leaveWaitList s st).recovery = s.recovery ∧ (leaveWaitList s st).format = s.format
    ∧ (leaveWaitList s st).reloc = s.reloc ∧ (leaveWaitList s st).drain = s.drain
    ∧ (leaveWaitList s st).media = s.media ∧ (leaveWaitList s st).regs = s.regs ∧ (leaveWaitList s st).wires = s.wires :=
  ⟨rfl, rfl, rfl, rfl, rfl, rfl, rfl, rfl, rfl, rfl, rfl, rfl, rfl, rfl, rfl, rfl, rfl, rfl, rfl⟩

@[simp] theorem joinWaitList_fields (s : State) (h : HeldWrite) :
    (joinWaitList s h).pending = s.pending ∧ (joinWaitList s h).now = s.now ∧ (joinWaitList s h).fabric = s.fabric
    ∧ (joinWaitList s h).decoder = s.decoder ∧ (joinWaitList s h).groups = s.groups
    ∧ (joinWaitList s h).staging = s.staging ∧ (joinWaitList s h).posted = s.posted
    ∧ (joinWaitList s h).reads = s.reads ∧ (joinWaitList s h).journal = s.journal ∧ (joinWaitList s h).apply = s.apply
    ∧ (joinWaitList s h).ckpt = s.ckpt ∧ (joinWaitList s h).modes = s.modes ∧ (joinWaitList s h).recovery = s.recovery
    ∧ (joinWaitList s h).format = s.format ∧ (joinWaitList s h).reloc = s.reloc ∧ (joinWaitList s h).drain = s.drain
    ∧ (joinWaitList s h).media = s.media ∧ (joinWaitList s h).regs = s.regs ∧ (joinWaitList s h).wires = s.wires :=
  ⟨rfl, rfl, rfl, rfl, rfl, rfl, rfl, rfl, rfl, rfl, rfl, rfl, rfl, rfl, rfl, rfl, rfl, rfl, rfl⟩

@[simp] theorem answerStaged_fields (s : State) (h : HeldWrite) :
    (answerStaged s h).pending = s.pending ∧ (answerStaged s h).now = s.now ∧ (answerStaged s h).decoder = s.decoder
    ∧ (answerStaged s h).groups = s.groups ∧ (answerStaged s h).claims = s.claims
    ∧ (answerStaged s h).posted = s.posted ∧ (answerStaged s h).reads = s.reads
    ∧ (answerStaged s h).journal = s.journal ∧ (answerStaged s h).apply = s.apply ∧ (answerStaged s h).ckpt = s.ckpt
    ∧ (answerStaged s h).modes = s.modes ∧ (answerStaged s h).recovery = s.recovery
    ∧ (answerStaged s h).format = s.format ∧ (answerStaged s h).reloc = s.reloc ∧ (answerStaged s h).drain = s.drain
    ∧ (answerStaged s h).media = s.media ∧ (answerStaged s h).regs = s.regs ∧ (answerStaged s h).wires = s.wires :=
  ⟨rfl, rfl, rfl, rfl, rfl, rfl, rfl, rfl, rfl, rfl, rfl, rfl, rfl, rfl, rfl, rfl, rfl, rfl⟩

@[simp] theorem track_fields (s : State) (e : TrackerEntry) :
    (track s e).pending = s.pending ∧ (track s e).now = s.now ∧ (track s e).fabric = s.fabric
    ∧ (track s e).decoder = s.decoder ∧ (track s e).groups = s.groups ∧ (track s e).staging = s.staging
    ∧ (track s e).claims = s.claims ∧ (track s e).posted = s.posted ∧ (track s e).journal = s.journal
    ∧ (track s e).apply = s.apply ∧ (track s e).ckpt = s.ckpt ∧ (track s e).modes = s.modes
    ∧ (track s e).recovery = s.recovery ∧ (track s e).format = s.format ∧ (track s e).reloc = s.reloc
    ∧ (track s e).drain = s.drain ∧ (track s e).media = s.media ∧ (track s e).regs = s.regs
    ∧ (track s e).wires = s.wires ∧ (track s e).reads = s.reads ++ [e] :=
  ⟨rfl, rfl, rfl, rfl, rfl, rfl, rfl, rfl, rfl, rfl, rfl, rfl, rfl, rfl, rfl, rfl, rfl, rfl, rfl, rfl⟩

@[simp] theorem untrack_fields (s : State) (e : TrackerEntry) :
    (untrack s e).pending = s.pending ∧ (untrack s e).now = s.now ∧ (untrack s e).fabric = s.fabric
    ∧ (untrack s e).decoder = s.decoder ∧ (untrack s e).groups = s.groups ∧ (untrack s e).staging = s.staging
    ∧ (untrack s e).claims = s.claims ∧ (untrack s e).posted = s.posted ∧ (untrack s e).journal = s.journal
    ∧ (untrack s e).apply = s.apply ∧ (untrack s e).ckpt = s.ckpt ∧ (untrack s e).modes = s.modes
    ∧ (untrack s e).recovery = s.recovery ∧ (untrack s e).format = s.format ∧ (untrack s e).reloc = s.reloc
    ∧ (untrack s e).drain = s.drain ∧ (untrack s e).media = s.media ∧ (untrack s e).regs = s.regs
    ∧ (untrack s e).wires = s.wires ∧ (untrack s e).reads = s.reads.filter fun x => x.serial != e.serial :=
  ⟨rfl, rfl, rfl, rfl, rfl, rfl, rfl, rfl, rfl, rfl, rfl, rfl, rfl, rfl, rfl, rfl, rfl, rfl, rfl, rfl⟩

@[simp] theorem removePosted_fields (s : State) (n : Serial) :
    (removePosted s n).pending = s.pending ∧ (removePosted s n).now = s.now ∧ (removePosted s n).fabric = s.fabric
    ∧ (removePosted s n).decoder = s.decoder ∧ (removePosted s n).groups = s.groups
    ∧ (removePosted s n).staging = s.staging ∧ (removePosted s n).claims = s.claims
    ∧ (removePosted s n).reads = s.reads ∧ (removePosted s n).journal = s.journal ∧ (removePosted s n).apply = s.apply
    ∧ (removePosted s n).ckpt = s.ckpt ∧ (removePosted s n).modes = s.modes ∧ (removePosted s n).recovery = s.recovery
    ∧ (removePosted s n).format = s.format ∧ (removePosted s n).reloc = s.reloc ∧ (removePosted s n).drain = s.drain
    ∧ (removePosted s n).media = s.media ∧ (removePosted s n).regs = s.regs ∧ (removePosted s n).wires = s.wires
    ∧ (removePosted s n).posted = { s.posted with records := s.posted.records.filter fun p => p.serial != n } :=
  ⟨rfl, rfl, rfl, rfl, rfl, rfl, rfl, rfl, rfl, rfl, rfl, rfl, rfl, rfl, rfl, rfl, rfl, rfl, rfl, rfl⟩

@[simp] theorem leaveOutstanding_fields (s : State) (n : Nat) :
    (leaveOutstanding s n).pending = s.pending ∧ (leaveOutstanding s n).now = s.now
    ∧ (leaveOutstanding s n).fabric = s.fabric ∧ (leaveOutstanding s n).decoder = s.decoder
    ∧ (leaveOutstanding s n).groups = s.groups ∧ (leaveOutstanding s n).staging = s.staging
    ∧ (leaveOutstanding s n).claims = s.claims ∧ (leaveOutstanding s n).posted = s.posted
    ∧ (leaveOutstanding s n).reads = s.reads ∧ (leaveOutstanding s n).journal = s.journal
    ∧ (leaveOutstanding s n).ckpt = s.ckpt ∧ (leaveOutstanding s n).modes = s.modes
    ∧ (leaveOutstanding s n).recovery = s.recovery ∧ (leaveOutstanding s n).format = s.format
    ∧ (leaveOutstanding s n).reloc = s.reloc ∧ (leaveOutstanding s n).drain = s.drain
    ∧ (leaveOutstanding s n).media = s.media ∧ (leaveOutstanding s n).regs = s.regs
    ∧ (leaveOutstanding s n).wires = s.wires :=
  ⟨rfl, rfl, rfl, rfl, rfl, rfl, rfl, rfl, rfl, rfl, rfl, rfl, rfl, rfl, rfl, rfl, rfl, rfl, rfl⟩

@[simp] theorem setArbiter_fields (s : State) (g : MediaGrant) :
    (setArbiter s g).pending = s.pending ∧ (setArbiter s g).now = s.now ∧ (setArbiter s g).fabric = s.fabric
    ∧ (setArbiter s g).decoder = s.decoder ∧ (setArbiter s g).groups = s.groups ∧ (setArbiter s g).staging = s.staging
    ∧ (setArbiter s g).claims = s.claims ∧ (setArbiter s g).posted = s.posted ∧ (setArbiter s g).reads = s.reads
    ∧ (setArbiter s g).journal = s.journal ∧ (setArbiter s g).apply = s.apply ∧ (setArbiter s g).ckpt = s.ckpt
    ∧ (setArbiter s g).modes = s.modes ∧ (setArbiter s g).recovery = s.recovery ∧ (setArbiter s g).format = s.format
    ∧ (setArbiter s g).reloc = s.reloc ∧ (setArbiter s g).drain = s.drain ∧ (setArbiter s g).regs = s.regs
    ∧ (setArbiter s g).wires = s.wires
    ∧ (setArbiter s g).media = { s.media with readTurn := g.readTurn, foreground := g.foreground } :=
  ⟨rfl, rfl, rfl, rfl, rfl, rfl, rfl, rfl, rfl, rfl, rfl, rfl, rfl, rfl, rfl, rfl, rfl, rfl, rfl, rfl⟩

@[simp] theorem clearLink_fields (s : State) :
    (clearLink s).pending = s.pending ∧ (clearLink s).now = s.now ∧ (clearLink s).fabric = s.fabric
    ∧ (clearLink s).decoder = s.decoder ∧ (clearLink s).groups = s.groups ∧ (clearLink s).staging = s.staging
    ∧ (clearLink s).claims = s.claims ∧ (clearLink s).posted = s.posted ∧ (clearLink s).reads = s.reads
    ∧ (clearLink s).journal = s.journal ∧ (clearLink s).apply = s.apply ∧ (clearLink s).ckpt = s.ckpt
    ∧ (clearLink s).modes = s.modes ∧ (clearLink s).recovery = s.recovery ∧ (clearLink s).format = s.format
    ∧ (clearLink s).reloc = s.reloc ∧ (clearLink s).drain = s.drain ∧ (clearLink s).regs = s.regs
    ∧ (clearLink s).wires = s.wires ∧ (clearLink s).media = Media.reset :=
  ⟨rfl, rfl, rfl, rfl, rfl, rfl, rfl, rfl, rfl, rfl, rfl, rfl, rfl, rfl, rfl, rfl, rfl, rfl, rfl, rfl⟩

@[simp] theorem setIdleTimeout_fields (s : State) (v : Nat) :
    (setIdleTimeout s v).pending = s.pending ∧ (setIdleTimeout s v).now = s.now
    ∧ (setIdleTimeout s v).fabric = s.fabric ∧ (setIdleTimeout s v).decoder = s.decoder
    ∧ (setIdleTimeout s v).groups = s.groups ∧ (setIdleTimeout s v).staging = s.staging
    ∧ (setIdleTimeout s v).claims = s.claims ∧ (setIdleTimeout s v).posted = s.posted
    ∧ (setIdleTimeout s v).reads = s.reads ∧ (setIdleTimeout s v).journal = s.journal
    ∧ (setIdleTimeout s v).apply = s.apply ∧ (setIdleTimeout s v).ckpt = s.ckpt ∧ (setIdleTimeout s v).modes = s.modes
    ∧ (setIdleTimeout s v).recovery = s.recovery ∧ (setIdleTimeout s v).format = s.format
    ∧ (setIdleTimeout s v).reloc = s.reloc ∧ (setIdleTimeout s v).drain = s.drain
    ∧ (setIdleTimeout s v).media = s.media ∧ (setIdleTimeout s v).wires = s.wires
    ∧ (setIdleTimeout s v).regs = { s.regs with idleTimeout := v } :=
  ⟨rfl, rfl, rfl, rfl, rfl, rfl, rfl, rfl, rfl, rfl, rfl, rfl, rfl, rfl, rfl, rfl, rfl, rfl, rfl, rfl⟩

@[simp] theorem writeRelocCtrl_fields (s : State) (k : BitVec 5) (b : Bool) :
    (writeRelocCtrl s k b).pending = s.pending ∧ (writeRelocCtrl s k b).now = s.now
    ∧ (writeRelocCtrl s k b).fabric = s.fabric ∧ (writeRelocCtrl s k b).decoder = s.decoder
    ∧ (writeRelocCtrl s k b).groups = s.groups ∧ (writeRelocCtrl s k b).staging = s.staging
    ∧ (writeRelocCtrl s k b).claims = s.claims ∧ (writeRelocCtrl s k b).posted = s.posted
    ∧ (writeRelocCtrl s k b).reads = s.reads ∧ (writeRelocCtrl s k b).journal = s.journal
    ∧ (writeRelocCtrl s k b).apply = s.apply ∧ (writeRelocCtrl s k b).ckpt = s.ckpt
    ∧ (writeRelocCtrl s k b).modes = s.modes ∧ (writeRelocCtrl s k b).recovery = s.recovery
    ∧ (writeRelocCtrl s k b).format = s.format ∧ (writeRelocCtrl s k b).reloc = s.reloc
    ∧ (writeRelocCtrl s k b).drain = s.drain ∧ (writeRelocCtrl s k b).media = s.media
    ∧ (writeRelocCtrl s k b).wires = s.wires
    ∧ (writeRelocCtrl s k b).regs = { s.regs with relocK := k, relocHold := b } :=
  ⟨rfl, rfl, rfl, rfl, rfl, rfl, rfl, rfl, rfl, rfl, rfl, rfl, rfl, rfl, rfl, rfl, rfl, rfl, rfl, rfl⟩

/-- A trigger touches the checkpoint writer and the media port alone. -/
@[simp] theorem raiseTrigger_fields (s : State) :
    (raiseTrigger s).pending = s.pending ∧ (raiseTrigger s).now = s.now ∧ (raiseTrigger s).fabric = s.fabric
    ∧ (raiseTrigger s).decoder = s.decoder ∧ (raiseTrigger s).groups = s.groups ∧ (raiseTrigger s).staging = s.staging
    ∧ (raiseTrigger s).claims = s.claims ∧ (raiseTrigger s).posted = s.posted ∧ (raiseTrigger s).reads = s.reads
    ∧ (raiseTrigger s).journal = s.journal ∧ (raiseTrigger s).apply = s.apply ∧ (raiseTrigger s).modes = s.modes
    ∧ (raiseTrigger s).recovery = s.recovery ∧ (raiseTrigger s).format = s.format ∧ (raiseTrigger s).reloc = s.reloc
    ∧ (raiseTrigger s).drain = s.drain ∧ (raiseTrigger s).regs = s.regs ∧ (raiseTrigger s).wires = s.wires := by
  unfold raiseTrigger
  split
  all_goals exact ⟨rfl, rfl, rfl, rfl, rfl, rfl, rfl, rfl, rfl, rfl, rfl, rfl, rfl, rfl, rfl, rfl, rfl, rfl⟩

/-- A link reset that is asked for touches the media port and its channel alone. -/
@[simp] theorem askLinkReset_fields (s : State) :
    (askLinkReset s).pending = s.pending ∧ (askLinkReset s).now = s.now ∧ (askLinkReset s).fabric = s.fabric
    ∧ (askLinkReset s).decoder = s.decoder ∧ (askLinkReset s).groups = s.groups ∧ (askLinkReset s).staging = s.staging
    ∧ (askLinkReset s).claims = s.claims ∧ (askLinkReset s).posted = s.posted ∧ (askLinkReset s).reads = s.reads
    ∧ (askLinkReset s).journal = s.journal ∧ (askLinkReset s).apply = s.apply ∧ (askLinkReset s).ckpt = s.ckpt
    ∧ (askLinkReset s).modes = s.modes ∧ (askLinkReset s).recovery = s.recovery ∧ (askLinkReset s).format = s.format
    ∧ (askLinkReset s).reloc = s.reloc ∧ (askLinkReset s).drain = s.drain ∧ (askLinkReset s).regs = s.regs := by
  unfold askLinkReset
  split
  all_goals exact ⟨rfl, rfl, rfl, rfl, rfl, rfl, rfl, rfl, rfl, rfl, rfl, rfl, rfl, rfl, rfl, rfl, rfl, rfl⟩

/-! ## What a stream has after an update -/

@[simp] theorem PerStream.read_write {α : Type} (v : PerStream α) (i j : Stream) (x : α) :
    (v.write i x).read j = if i = j then x else v.read j := by
  unfold PerStream.write PerStream.read
  rw [Vector.getElem_set]
  simp only [Fin.ext_iff]

@[simp] theorem recordOf_setRecord (s : State) (i j : Stream) (r : GroupRecord) :
    recordOf (setRecord s i r) j = if i = j then r else recordOf s j := PerStream.read_write _ _ _ _

@[simp] theorem lossMark_clearLossMark (s : State) (i j : Stream) :
    lossMark (clearLossMark s i) j = if i = j then false else lossMark s j := PerStream.read_write _ _ _ _

end Sys2Proof.Machine
end

