-- ==== Sys2Proof/Laws/Cascade.lean ====
section
/-! SUPPORT. What a cascade of refusals, re-examinations and wake passes leaves alone: everything but the fabric port's egress,
the group table, the buffer's slots and lists, the wait list, and the flags and the count of aborted groups. -/

namespace Sys2Proof.Machine

/-- The fields that no part of a cascade changes. -/
structure Quiet (s t : State) : Prop where
  pending : t.pending = s.pending
  now : t.now = s.now
  decoder : t.decoder = s.decoder
  queue : t.groups.queue = s.groups.queue
  ingress : t.fabric.ingress = s.fabric.ingress
  credits : t.fabric.credits = s.fabric.credits
  egress : s.fabric.egress <+: t.fabric.egress
  scratch : t.staging.scratch = s.staging.scratch
  posted : t.posted = s.posted
  reads : t.reads = s.reads
  journal : t.journal = s.journal
  apply : t.apply = s.apply
  ckpt : t.ckpt = s.ckpt
  modes : t.modes = s.modes
  recovery : t.recovery = s.recovery
  format : t.format = s.format
  reloc : t.reloc = s.reloc
  drain : t.drain = s.drain
  media : t.media = s.media
  config : t.regs.config = s.regs.config
  flags : FlagsKept s.regs t.regs
  committed : t.regs.committedCount = s.regs.committedCount
  lost : t.regs.lostCount = s.regs.lostCount
  enables : t.regs.enables = s.regs.enables
  wires : t.wires = s.wires

theorem Quiet.rfl' (s : State) : Quiet s s := by
  constructor <;> first | rfl | exact fun _ h => h

theorem Quiet.trans {s t u : State} (h : Quiet s t) (k : Quiet t u) : Quiet s u := by
  constructor
  · exact k.pending.trans h.pending
  · exact k.now.trans h.now
  · exact k.decoder.trans h.decoder
  · exact k.queue.trans h.queue
  · exact k.ingress.trans h.ingress
  · exact k.credits.trans h.credits
  · exact h.egress.trans k.egress
  · exact k.scratch.trans h.scratch
  · exact k.posted.trans h.posted
  · exact k.reads.trans h.reads
  · exact k.journal.trans h.journal
  · exact k.apply.trans h.apply
  · exact k.ckpt.trans h.ckpt
  · exact k.modes.trans h.modes
  · exact k.recovery.trans h.recovery
  · exact k.format.trans h.format
  · exact k.reloc.trans h.reloc
  · exact k.drain.trans h.drain
  · exact k.media.trans h.media
  · exact k.config.trans h.config
  · exact fun i hi => k.flags i (h.flags i hi)
  · exact k.committed.trans h.committed
  · exact k.lost.trans h.lost
  · exact k.enables.trans h.enables
  · exact k.wires.trans h.wires

theorem Quiet.foldl {α : Type} {f : Work → α → Work} (h : ∀ w a, Quiet w.s (f w a).s) (l : List α) (w : Work) :
    Quiet w.s (l.foldl f w).s := by
  induction l generalizing w with
  | nil => exact .rfl' _
  | cons a l ih => exact (h w a).trans (ih (f w a))

theorem answerTaken_quiet (s : State) (r : Response) : Quiet s (answerTaken s r) := by
  constructor <;> first | rfl | exact List.prefix_append _ _ | exact fun _ h => h
theorem setRecord_quiet (s : State) (st : Stream) (r : GroupRecord) : Quiet s (setRecord s st r) := by
  constructor <;> first | rfl | exact fun _ h => h
theorem countAborted_quiet (s : State) : Quiet s (countAborted s) := by
  constructor <;> first | rfl | exact fun i h => by simp [countAborted, setFlag, h]
theorem leaveSlotWait_quiet (s : State) (st : Stream) : Quiet s (leaveSlotWait s st) := by
  constructor <;> first | rfl | exact fun _ h => h
theorem leaveWaitList_quiet (s : State) (st : Stream) : Quiet s (leaveWaitList s st) := by
  constructor <;> first | rfl | exact fun _ h => h
theorem joinWaitList_quiet (s : State) (h : HeldWrite) : Quiet s (joinWaitList s h) := by
  constructor <;> first | rfl | exact fun _ h => h
theorem answerStaged_quiet (s : State) (h : HeldWrite) : Quiet s (answerStaged s h) := by
  constructor <;> first | rfl | exact List.prefix_append _ _ | exact fun _ h => h
theorem mapSlots_quiet (s : State) (ns : List Nat) (f : Slot → Slot) : Quiet s (mapSlots s ns f) := by
  constructor <;> first | rfl | exact fun _ h => h
theorem endVersions_quiet (w : Work) (ns : List Nat) (x : SlotState) : Quiet w.s (endVersions w ns x).s := by
  constructor <;> first | rfl | exact fun _ h => h
theorem abortVersions_quiet (w : Work) (ns : List Nat) : Quiet w.s (abortVersions w ns).s := by
  constructor <;> first | rfl | exact fun _ h => h
theorem unpin_quiet (w : Work) (ns : List Nat) : Quiet w.s (unpin w ns).s := by
  constructor <;> first | rfl | exact fun _ h => h
theorem mergeInPlace_quiet (s : State) (h : HeldWrite) (v : Slot) : Quiet s (mergeInPlace s h v) := by
  constructor <;> first | rfl | exact List.prefix_append _ _ | exact fun _ h => h
theorem mergeByCopy_quiet (s : State) (h : HeldWrite) (v : Slot) (c : Nat) : Quiet s (mergeByCopy s h v c) := by
  constructor <;> first | rfl | exact List.prefix_append _ _ | exact fun _ h => h
theorem stageNew_quiet (s : State) (h : HeldWrite) (c : Nat) : Quiet s (stageNew s h c) := by
  constructor <;> first | rfl | exact List.prefix_append _ _ | exact fun _ h => h

theorem joinSlotWait_quiet (s : State) (h : HeldWrite) : Quiet s (joinSlotWait s h) := by
  unfold joinSlotWait
  split
  · exact .rfl' s
  · constructor <;> first | rfl | exact fun _ h => h

theorem doom_quiet (w : Work) (st : Stream) (r : DoomReason) : Quiet w.s (doom w st r).s := by
  unfold doom
  split
  · exact .rfl' _
  · exact (setRecord_quiet _ _ _).trans (countAborted_quiet _)
  · exact (abortVersions_quiet w _).trans ((setRecord_quiet _ _ _).trans (countAborted_quiet _))

theorem refuseWrite_quiet (w : Work) (h : HeldWrite) (r : DoomReason) : Quiet w.s (refuseWrite w h r).s :=
  (leaveSlotWait_quiet w.s h.stream).trans
    ((doom_quiet { w with s := leaveSlotWait w.s h.stream } h.stream r).trans (answerTaken_quiet _ _))

theorem fromCheck4_quiet (w : Work) (h : HeldWrite) : Quiet w.s (fromCheck4 w h).s := by
  unfold fromCheck4
  split
  · exact refuseWrite_quiet w h _
  · split
    · exact refuseWrite_quiet w h _
    · split
      · exact joinSlotWait_quiet _ _
      · exact stageNew_quiet _ _ _

theorem fromCheck3_quiet (w : Work) (h : HeldWrite) : Quiet w.s (fromCheck3 w h).s := by
  unfold fromCheck3
  split
  · exact fromCheck4_quiet w h
  · split
    · exact mergeInPlace_quiet _ _ _
    · split
      · exact joinSlotWait_quiet _ _
      · exact mergeByCopy_quiet _ _ _ _

theorem claimDecision_quiet (w : Work) (h : HeldWrite) (t : Stream) : Quiet w.s (claimDecision w h t).s := by
  unfold claimDecision
  split
  · exact refuseWrite_quiet w h _
  · exact (leaveSlotWait_quiet w.s h.stream).trans (joinWaitList_quiet _ _)

theorem fromCheck2_quiet (w : Work) (h : HeldWrite) : Quiet w.s (fromCheck2 w h).s := by
  unfold fromCheck2
  split
  · exact fromCheck3_quiet w h
  · split
    · exact fromCheck3_quiet w h
    · exact claimDecision_quiet w h _

theorem guardedWrite_quiet (w : Work) (h : HeldWrite) : Quiet w.s (guardedWrite w h).s := by
  unfold guardedWrite
  split
  · exact answerTaken_quiet _ _
  · exact fromCheck2_quiet w h
  · exact fromCheck2_quiet w h

theorem reexamineOne_quiet (w : Work) (r : WaitRecord) : Quiet w.s (reexamineOne w r).s := by
  unfold reexamineOne
  split
  · exact (leaveWaitList_quiet w.s r.write.stream).trans
      (fromCheck3_quiet { w with s := leaveWaitList w.s r.write.stream } r.write)
  · exact .rfl' _

theorem reexamine_quiet (w : Work) (l : Addr) : Quiet w.s (reexamine w l).s := Quiet.foldl reexamineOne_quiet _ w

theorem releaseRounds_quiet (n : Nat) (w : Work) : Quiet w.s (releaseRounds n w).s := by
  induction n generalizing w with
  | zero => exact .rfl' _
  | succ n ih =>
    unfold releaseRounds
    split
    · exact .rfl' _
    · exact (Quiet.foldl reexamine_quiet w.release { w with release := [] }).trans (ih _)

theorem wakePass_quiet (w : Work) : Quiet w.s (wakePass w).s :=
  Quiet.foldl fromCheck2_quiet w.s.staging.slotWait { w with freed := false }

theorem settlePasses_quiet (n : Nat) (w : Work) : Quiet w.s (settlePasses n w).s := by
  induction n generalizing w with
  | zero => exact .rfl' _
  | succ n ih =>
    unfold settlePasses
    have h := releaseRounds_quiet (w.s.claims.waitList.length + 1) w
    dsimp only
    split
    · exact (h.trans (wakePass_quiet _)).trans (ih _)
    · exact h

/-- The end of an event's cascade. -/
theorem settle_quiet (w : Work) : Quiet w.s (settle w) := settlePasses_quiet _ w

/-- With nothing released and nothing freed, there is no cascade. -/
theorem settle_nothing (s : State) (b : List Addr) (h : b = []) :
    settle { s := s, release := b, freed := false } = s := by
  subst h
  simp [settle, settlePasses, settleReleases, releaseRounds]

/-- With nothing held, releases and freed slots change nothing. -/
theorem settle_noneHeld (w : Work) (h1 : w.s.claims.waitList = []) (h2 : w.s.staging.slotWait = []) :
    settle w = w.s := by
  have hre : ∀ (ls : List Addr) (x : Work), x.s.claims.waitList = [] → ls.foldl reexamine x = x := by
    intro ls
    induction ls with
    | nil => intro x _; rfl
    | cons l ls ih =>
      intro x hx
      have : reexamine x l = x := by simp [reexamine, hx]
      rw [List.foldl_cons, this]
      exact ih x hx
  have hrel : ∀ (n : Nat) (x : Work), x.s.claims.waitList = [] →
      (releaseRounds n x).s = x.s ∧ (releaseRounds n x).freed = x.freed := by
    intro n
    induction n with
    | zero => intro x _; exact ⟨rfl, rfl⟩
    | succ n ih =>
      intro x hx
      unfold releaseRounds
      split
      · exact ⟨rfl, rfl⟩
      · rw [hre _ { x with release := [] } hx]
        exact ih { x with release := [] } hx
  have hpass : ∀ (n : Nat) (x : Work), x.s.claims.waitList = [] → x.s.staging.slotWait = [] →
      (settlePasses n x).s = x.s := by
    intro n
    induction n with
    | zero => intro x _ _; rfl
    | succ n ih =>
      intro x hx hy
      have hs : (settleReleases x).s = x.s := (hrel _ x hx).1
      unfold settlePasses
      dsimp only
      split
      · have hw : (wakePass (settleReleases x)).s = x.s := by
          simp [wakePass, hs, hy]
        rw [ih _ (by rw [hw]; exact hx) (by rw [hw]; exact hy), hw]
      · exact hs
  exact hpass _ w h1 h2

end Sys2Proof.Machine
end

