-- ==== Sys2Proof/Laws/Paths.lean ====
section
/-! SUPPORT. Every shared operation and every meaning but HARD_RESET is a chain of moves. -/

namespace Sys2Proof.Machine

/-! ## Chains -/

theorem Path.one {s t : State} (h : Move s t) : Path s t := .single h

theorem Path.foldl {α : Type} {f : State → α → State} (h : ∀ s a, Path s (f s a)) (l : List α) (s : State) :
    Path s (l.foldl f s) := by
  induction l generalizing s with
  | nil => exact .refl
  | cons a l ih => exact (h s a).trans (ih (f s a))

theorem Path.foldlWork {α : Type} {f : Work → α → Work} (h : ∀ w a, Path w.s (f w a).s) (l : List α) (w : Work) :
    Path w.s (l.foldl f w).s := by
  induction l generalizing w with
  | nil => exact .refl
  | cons a l ih => exact (h w a).trans (ih (f w a))

theorem Path.ite {s t u : State} {p : Prop} [Decidable p] (h1 : p → Path s t) (h2 : ¬p → Path s u) :
    Path s (if p then t else u) := by
  split
  · exact h1 ‹_›
  · exact h2 ‹_›

/-! ## Registers, flags, counters, channels -/

theorem FlagsKept.rfl' (a : Regs) : FlagsKept a a := fun _ h => h

theorem setFlag_kept (s : State) (f : EventFlag) : FlagsKept s.regs (setFlag s f).regs := fun i h => by
  simp [setFlag, h]

theorem setFlag_path (s : State) (f : EventFlag) : Path s (setFlag s f) := .one (.regs s _ rfl (setFlag_kept s f))
theorem writeEnables_path (s : State) (v : BitVec 12) : Path s (writeEnables s v) := .one (.regs s _ rfl fun _ h => h)
theorem zeroCounters_path (s : State) : Path s (zeroCounters s) := .one (.regs s _ rfl fun _ h => h)
theorem countCommitted_path (s : State) : Path s (countCommitted s) := .one (.regs s _ rfl fun _ h => h)
theorem countAborted_path (s : State) : Path s (countAborted s) :=
  (Path.one (.regs s { s.regs with abortedCount := s.regs.abortedCount + 1 } rfl fun _ h => h)).trans (setFlag_path _ _)

theorem countLost_path (s : State) (st : Stream) : Path s (countLost s st) :=
  ((setFlag_path s .postedLost).trans
    (Path.one (.regs _ { (setFlag s .postedLost).regs with lostCount := lostAfter (setFlag s .postedLost).regs.lostCount }
      rfl fun _ h => h))).trans
    (Path.one (.posted _ { (setFlag s .postedLost).posted with
      lossMarks := (setFlag s .postedLost).posted.lossMarks.write st true } (le_refl _)))

/-! ## Modes and the units that follow them -/

theorem setMode_path (s : State) (m : Mode) : Path s (setMode s m) := .one (.control s _ _ _ _ _)
theorem setStart_path (s : State) (v : StartStatus) : Path s (setStart s v) := .one (.control s _ _ _ _ _)
theorem setCommand_path (s : State) (v : CommandStatus) : Path s (setCommand s v) := .one (.control s _ _ _ _ _)
theorem setRecovery_path (s : State) (r : Recovery) : Path s (setRecovery s r) := .one (.control s _ _ _ _ _)
theorem setReloc_path (s : State) (x : RelocState) : Path s (setReloc s x) := .one (.control s _ _ _ _ _)
theorem setFormat_path (s : State) (g : ClearStage) (b : Bool) : Path s (setFormat s g b) :=
  .one (.control s _ _ _ _ _)
theorem samplePfw_path (s : State) (b : Bool) : Path s (samplePfw s b) := .one (.control s _ _ _ _ _)
theorem beginDrain_path (s : State) (o : DrainOrigin) : Path s (beginDrain s o) := .one (.control s _ _ _ _ _)

/-! ## Fabric port -/

theorem enterEgress_path (s : State) (r : Response) : Path s (enterEgress s r) :=
  .one (.fabric s _ rfl rfl (List.prefix_append _ _))
theorem answerTaken_path (s : State) (r : Response) : Path s (answerTaken s r) :=
  .one (.fabric s _ rfl rfl (List.prefix_append _ _))

/-- A stream whose head is an answered entry has a head. -/
theorem heldAnswer_head {s : State} {st : Stream} {h : HeldAnswer} (hh : heldAnswer? s st = some h) :
    h.stream = st ∧ ingressOf s st ≠ [] := by
  unfold heldAnswer? at hh
  split at hh
  · rename_i e es he
    cases ha : e.answer with
    | none => rw [ha] at hh; simp at hh
    | some a =>
      rw [ha] at hh
      simp at hh
      subst hh
      exact ⟨rfl, by simp [he]⟩
  · simp at hh

theorem earlierHeld_mem (hs : List HeldAnswer) (b : Option HeldAnswer) (h : HeldAnswer)
    (hh : hs.foldl earlierHeld b = some h) : h ∈ hs ∨ b = some h := by
  induction hs generalizing b with
  | nil => exact .inr hh
  | cons x xs ih =>
    rcases ih _ hh with h1 | h1
    · exact .inl (List.mem_cons_of_mem _ h1)
    · unfold earlierHeld at h1
      split at h1
      · simp at h1; subst h1; exact .inl (List.mem_cons_self ..)
      · split at h1
        · simp at h1; subst h1; exact .inl (List.mem_cons_self ..)
        · exact .inr h1

/-- The oldest held answer stands at its stream's head. -/
theorem oldestHeld_head {s : State} {h : HeldAnswer} (hh : oldestHeld s = some h) : ingressOf s h.stream ≠ [] := by
  rcases earlierHeld_mem _ _ _ hh with h1 | h1
  · obtain ⟨st, -, hst⟩ := List.mem_filterMap.1 h1
    obtain ⟨h2, h3⟩ := heldAnswer_head hst
    rw [h2]; exact h3
  · simp at h1

theorem enterHeldAnswers_path (n : Nat) (s : State) : Path s (enterHeldAnswers n s) := by
  induction n generalizing s with
  | zero => exact .refl
  | succ n ih =>
    unfold enterHeldAnswers
    split
    · exact .refl
    · rename_i h hh
      refine Path.ite (fun _ => ?_) (fun _ => .refl)
      exact ((enterEgress_path s _).trans (Path.one (.freeHead _ _ (oldestHeld_head hh)))).trans (ih _)

theorem settleHeldAnswers_path (s : State) : Path s (settleHeldAnswers s) := enterHeldAnswers_path _ s

theorem answerQueues_path (s : State) (status : Status) : Path s (answerQueues s status) :=
  (Path.one (.answered s status)).trans (settleHeldAnswers_path _)

/-! ## Groups -/

theorem setRecord_path (s : State) (st : Stream) (r : GroupRecord) : Path s (setRecord s st r) :=
  .one (.groups s _ (le_refl _))

theorem mapEntry_path (s : State) (n : Serial) (f : Entry → Entry) : Path s (mapEntry s n f) :=
  .one (.groups s _ (by simp))

theorem removeEntry_path (s : State) (n : Serial) : Path s (removeEntry s n) :=
  .one (.groups s _ (List.length_filter_le _ _))

theorem clearLossMark_path (s : State) (st : Stream) : Path s (clearLossMark s st) := .one (.posted s _ (le_refl _))

theorem answerCommitAborted_path (s : State) (st : Stream) (t : FabricTag) (r : Reason) :
    Path s (answerCommitAborted s st t r) := (answerTaken_path s _).trans (clearLossMark_path _ _)

theorem sendCommitted_path (s : State) (e : Entry) (b : Bool) : Path s (sendCommitted s e b) :=
  (answerTaken_path s _).trans (clearLossMark_path _ _)

theorem sendIndoubt_path (s : State) (e : Entry) : Path s (sendIndoubt s e) :=
  (answerTaken_path s _).trans (setFlag_path _ _)

theorem tryAnswer_path (s : State) (n : Serial) : Path s (tryAnswer s n) := by
  unfold tryAnswer
  split
  · exact .refl
  · rename_i e he
    refine Path.ite (fun _ => Path.ite (fun _ => ?_) (fun _ => ?_)) (fun _ => .refl)
    · exact (sendCommitted_path s _ _).trans (removeEntry_path _ _)
    · exact (sendCommitted_path s _ _).trans (mapEntry_path _ _ _)

theorem answerOwed_path (s : State) : Path s (answerOwed s) := Path.foldl tryAnswer_path _ s

/-! ## Slots -/

theorem shrink_filterMap (a : List Slot) (f : Slot → Option Slot) (hn : ∀ v u, f v = some u → u.num = v.num)
    (ho : ∀ v u, f v = some u → u.state = .opened → v.state = .opened) : SlotsShrink a (a.filterMap f) := by
  induction a with
  | nil => exact ⟨List.Sublist.refl _, le_refl _⟩
  | cons v vs ih =>
    obtain ⟨h1, h2⟩ := ih
    cases hv : f v with
    | none =>
      rw [List.filterMap_cons_none hv]
      exact ⟨h1.cons _, le_trans h2 (by rw [List.countP_cons]; omega)⟩
    | some u =>
      rw [List.filterMap_cons_some hv]
      refine ⟨?_, ?_⟩
      · simp only [List.map_cons, hn v u hv]
        exact h1.cons_cons _
      · rw [List.countP_cons, List.countP_cons]
        have := ho v u hv
        by_cases hu : u.state = .opened
        · simp [hu, this hu]; exact h2
        · simp [hu]; omega

theorem shrink_map (a : List Slot) (f : Slot → Slot) (hn : ∀ v, (f v).num = v.num)
    (ho : ∀ v, (f v).state = .opened → v.state = .opened) : SlotsShrink a (a.map f) := by
  have h := shrink_filterMap a (fun v => some (f v)) (fun v u h => by simp at h; rw [← h, hn])
    (fun v u h => by simp at h; rw [← h]; exact ho v)
  simpa using h

theorem SlotsShrink.rfl' (a : List Slot) : SlotsShrink a a := ⟨List.Sublist.refl _, le_refl _⟩

theorem mapSlots_path (s : State) (ns : List Nat) (f : Slot → Slot) (hn : ∀ v, (f v).num = v.num)
    (ho : ∀ v, (f v).state = .opened → v.state = .opened) : Path s (mapSlots s ns f) := by
  refine .one (.slots s _ (shrink_map _ _ (fun v => ?_) (fun v => ?_)))
  · split
    · exact hn v
    · rfl
  · split
    · exact ho v
    · exact id

theorem endVersions_path (w : Work) (ns : List Nat) (x : SlotState) (hx : x ≠ .opened) :
    Path w.s (endVersions w ns x).s := by
  refine .one (.slots w.s _ (shrink_filterMap _ _ (fun v u h => ?_) (fun v u h => ?_)))
  · unfold endSlot at h
    split at h
    · split at h
      · simp at h
      · simp at h; rw [← h]
    · simp at h; rw [← h]
  · unfold endSlot at h
    split at h
    · split at h
      · simp at h
      · simp at h; rw [← h]; exact fun h1 => absurd h1 hx
    · simp at h; rw [← h]; exact id

theorem abortVersions_path (w : Work) (ns : List Nat) : Path w.s (abortVersions w ns).s :=
  endVersions_path w ns .aborted (by decide)

theorem unpin_path (w : Work) (ns : List Nat) : Path w.s (unpin w ns).s := by
  refine .one (.slots w.s _ (shrink_filterMap _ _ (fun v u h => ?_) (fun v u h => ?_)))
  all_goals
    unfold unpinSlot at h
    split at h
    · split at h
      · simp at h
      · simp at h; rw [← h]; try exact id
    · simp at h; rw [← h]; try exact id

theorem pin_path (s : State) (ns : List Nat) : Path s (pin s ns) := mapSlots_path s ns _ (fun _ => rfl) (fun _ => id)

/-! ## Media port -/

theorem handOver_path (s : State) (rs : List MediaReq) (h : ∀ r ∈ rs, r.state = .ready) : Path s (handOver s rs) :=
  .one (.handed s rs h)

theorem dropTag_path (s : State) (t : MediaTag) : Path s (dropTag s t) :=
  .one (.media s _ List.filter_sublist)

theorem withdraw_path (s : State) (p : Requester → Bool) : Path s (withdraw s p) :=
  .one (.media s _ List.filter_sublist)

theorem abandonAll_path (s : State) : Path s (abandonAll s) := .one (.media s _ (List.nil_sublist _))

theorem askLinkReset_path (s : State) : Path s (askLinkReset s) :=
  Path.ite (fun _ => .refl) (fun _ =>
    (Path.one (.media s { s.media with linkOwed := true } (List.Sublist.refl _))).trans (Path.one (.wires _ _)))

theorem startLinkDeadline_path (s : State) : Path s (startLinkDeadline s) :=
  .one (.media s _ (List.Sublist.refl _))

/-! ## Background workers -/

theorem ready_one {who : Requester} {l : Addr} : ∀ r ∈ [readRequest who l], r.state = .ready := by
  simp [readRequest]

theorem beginCheckpoint_path (s : State) : Path s (beginCheckpoint s) :=
  (Path.one (.ckpt s { s.ckpt with inFlight := some { sb := currentSuperblock s, span := s.journal.retiredSpan } })).trans
    (handOver_path _ _ (by simp [superblockRequest, writeRequest]))

theorem keepTrigger_path (s : State) : Path s (keepTrigger s) := .one (.ckpt s _)

theorem raiseTrigger_path (s : State) : Path s (raiseTrigger s) :=
  Path.ite (fun _ => keepTrigger_path s) (fun _ => beginCheckpoint_path s)

theorem endCheckpoint_path (s : State) : Path s (endCheckpoint s) :=
  Path.ite (fun _ => (Path.one (.ckpt s { s.ckpt with inFlight := none, trigger := false })).trans
    (beginCheckpoint_path _)) (fun _ => .one (.ckpt s _))

theorem dropCheckpoint_path (s : State) : Path s (dropCheckpoint s) := .one (.ckpt s _)

theorem setWriter_path (s : State) (w : Writer) : Path s (setWriter s w) := .one (.journal s _)

theorem lineRequests_ready (g : Region) (a i : Nat) (ls : List Line) : ∀ r ∈ lineRequests g a i ls, r.state = .ready := by
  induction ls generalizing i with
  | nil => simp [lineRequests]
  | cons l ls ih =>
    intro r hr
    rcases List.mem_cons.1 hr with h | h
    · subst h; rfl
    · exact ih _ r h

theorem enterWriting_path (s : State) (e : Entry) : Path s (enterWriting s e) :=
  (setWriter_path s _).trans (handOver_path _ _ (lineRequests_ready _ _ _ _))

theorem relabel_path (s : State) (ns : List Nat) (x : SlotState) (hx : x ≠ .opened) :
    Path s (mapSlots s ns fun v => { v with state := x }) :=
  mapSlots_path s ns _ (fun _ => rfl) (fun _ h => absurd h hx)

theorem beginJournal_path (s : State) (e : Entry) : Path s (beginJournal s e) := by
  have h : Path s (mapSlots (mapEntry s e.serial (begunEntry s)) e.slots fun v => { v with state := .journaling }) :=
    (mapEntry_path s _ _).trans (relabel_path _ _ _ (by decide))
  refine Path.ite (fun _ => h.trans (enterWriting_path _ _)) (fun _ => h.trans ?_)
  refine ((setWriter_path _ .waitingSpace).trans (setFlag_path _ .journalLow)).trans ?_
  exact Path.ite (fun _ => raiseTrigger_path _) (fun _ => .refl)

theorem writerLooks_path (n : Nat) (s : State) : Path s (writerLooks n s) := by
  induction n generalizing s with
  | zero => exact .refl
  | succ n ih =>
    unfold writerLooks
    refine Path.ite (fun _ => ?_) (fun _ => .refl)
    split
    · exact .refl
    · exact Path.ite (fun _ => ((mapEntry_path s _ _).trans (tryAnswer_path _ _)).trans (ih _))
        (fun _ => beginJournal_path s _)

theorem writerLook_path (s : State) : Path s (writerLook s) := writerLooks_path _ s

theorem recheckSpace_path (s : State) : Path s (recheckSpace s) := by
  refine Path.ite (fun _ => ?_) (fun _ => .refl)
  split
  · exact .refl
  · exact Path.ite (fun _ => enterWriting_path _ _) (fun _ => .refl)

theorem beginApply_path (s : State) (e : Entry) : Path s (beginApply s e) := by
  have h : Path s (mapSlots (mapEntry s e.serial fun e => { e with state := .applying }) e.slots
      fun v => { v with state := .applying }) := (mapEntry_path s _ _).trans (relabel_path _ _ _ (by decide))
  refine (h.trans (Path.one (.apply _ { current := some e.serial, outstanding := e.slots, withdrawn := false }))).trans
    (handOver_path _ _ ?_)
  intro r hr
  obtain ⟨n, -, hn⟩ := List.mem_filterMap.1 hr
  cases hv : slotAt (mapSlots (mapEntry s e.serial fun e => { e with state := .applying }) e.slots
      fun v => { v with state := .applying }) n with
  | none => simp [hv] at hn
  | some v => simp [hv] at hn; rw [← hn]; rfl

theorem applyLook_path (s : State) : Path s (applyLook s) := by
  refine Path.ite (fun _ => ?_) (fun _ => .refl)
  split
  · exact .refl
  · exact beginApply_path s _

theorem applyIdle_path (s : State) : Path s (applyIdle s) := .one (.apply s _)

theorem advanceApplied_path (s : State) (q : Seq) (x : Extent) : Path s (advanceApplied s q x) := .one (.journal s _)

theorem retireEntry_path (s : State) (e : Entry) : Path s (retireEntry s e) :=
  Path.ite (fun _ => removeEntry_path _ _) (fun _ => mapEntry_path _ _ _)

/-- A trigger raised on a condition. -/
theorem raiseIf_path (s : State) (p : Bool) : Path s (if p then raiseTrigger s else s) :=
  Path.ite (fun _ => raiseTrigger_path s) (fun _ => .refl)

theorem completeGroup_path (s : State) (e : Entry) : Path s (completeGroup s e) := by
  unfold completeGroup
  exact ((((advanceApplied_path s (e.seq.getD 0) (extentOf s e)).trans (raiseIf_path _ _)).trans
    (raiseIf_path _ _)).trans (retireEntry_path _ e)).trans ((applyIdle_path _).trans (applyLook_path _))

theorem relocTrigger_path (b s : State) : Path s (relocTrigger b s) :=
  Path.ite (fun _ => raiseTrigger_path _) (fun _ => .refl)

/-! ## Guarded writes -/

theorem doom_path (w : Work) (st : Stream) (r : DoomReason) : Path w.s (doom w st r).s := by
  unfold doom
  split
  · exact .refl
  · exact (setRecord_path _ _ _).trans (countAborted_path _)
  · exact (abortVersions_path w _).trans ((setRecord_path _ _ _).trans (countAborted_path _))

theorem leaveSlotWait_path (s : State) (st : Stream) : Path s (leaveSlotWait s st) :=
  .one (.slots s _ (SlotsShrink.rfl' _))

theorem leaveWaitList_path (s : State) (st : Stream) : Path s (leaveWaitList s st) := .one (.claims s _)

theorem joinSlotWait_path (s : State) (h : HeldWrite) : Path s (joinSlotWait s h) :=
  Path.ite (fun _ => .refl) (fun _ => .one (.slots s _ (SlotsShrink.rfl' _)))

theorem joinWaitList_path (s : State) (h : HeldWrite) : Path s (joinWaitList s h) := .one (.claims s _)

theorem refuseWrite_path (w : Work) (h : HeldWrite) (r : DoomReason) : Path w.s (refuseWrite w h r).s :=
  (leaveSlotWait_path w.s h.stream).trans
    ((doom_path { w with s := leaveSlotWait w.s h.stream } h.stream r).trans (answerTaken_path _ _))

theorem answerStaged_path (s : State) (h : HeldWrite) : Path s (answerStaged s h) :=
  (leaveSlotWait_path s _).trans (answerTaken_path _ _)

theorem restartIdle_path (s : State) (st : Stream) : Path s (restartIdle s st) := setRecord_path _ _ _

theorem mergeInPlace_path (s : State) (h : HeldWrite) (v : Slot) : Path s (mergeInPlace s h v) := by
  have h1 : Path s (mapSlots s [v.num] (mergeInto h)) := mapSlots_path s [v.num] (mergeInto h) (fun _ => rfl) (fun _ => id)
  unfold mergeInPlace
  exact (h1.trans (restartIdle_path _ h.stream)).trans (answerStaged_path _ h)

/-- A FREE slot that the buffer offers is below 1024 and in no slot of the list. -/
theorem freeSlot_spec {s : State} {c : Nat} (h : freeSlot? s = some c) :
    c < Config.slotCount ∧ c ∉ s.staging.slots.map Slot.num := by
  have h1 := List.find?_some h
  have h2 := List.mem_of_find?_eq_some h
  refine ⟨List.mem_range.1 h2, fun h3 => ?_⟩
  obtain ⟨v, hv, hc⟩ := List.mem_map.1 h3
  simp only [isFree, slotAt, Bool.and_eq_true, Option.isNone_iff_eq_none, List.find?_eq_none] at h1
  exact h1.1 v hv (by simpa using hc)

theorem insertSlot_countP (p : Slot → Bool) (v : Slot) (a : List Slot) :
    (insertSlot v a).countP p = a.countP p + (if p v then 1 else 0) := by
  induction a with
  | nil => simp [insertSlot, List.countP_cons]
  | cons u us ih =>
    unfold insertSlot
    split
    · rw [List.countP_cons]
    · rw [List.countP_cons, ih, List.countP_cons]; omega

theorem stageNew_path (s : State) (h : HeldWrite) (c : Nat) (hc : freeSlot? s = some c)
    (hq : openSlots s < Config.openQuota) : Path s (stageNew s h c) := by
  obtain ⟨h1, h2⟩ := freeSlot_spec hc
  refine ((Path.one (.slotAdded s _ ⟨newVersion h c, s.staging.slots, h1, rfl, h2, rfl, .inr ⟨hq, ?_⟩⟩)).trans
    (setRecord_path _ _ _)).trans (answerStaged_path _ _)
  rw [insertSlot_countP]
  simp [newVersion]

theorem openVersion_spec {s : State} {st : Stream} {l : Addr} {v : Slot} (h : openVersion s st l = some v) :
    v ∈ s.staging.slots ∧ v.state = .opened := by
  have h1 := List.find?_some h
  have h2 := List.mem_of_find?_eq_some h
  obtain ⟨e, -, he⟩ := List.mem_filterMap.1 h2
  simp only [Bool.and_eq_true, beq_iff_eq] at h1
  exact ⟨List.mem_of_find?_eq_some he, h1.1⟩

/-- Detaching an OPEN slot leaves one OPEN slot less. -/
theorem countP_detach (a : List Slot) (v : Slot) (hv : v ∈ a) (ho : v.state = .opened) :
    ((a.map fun u => if u.num ∈ [v.num] then detach u else u).countP fun u => u.state == .opened)
      < a.countP fun u => u.state == .opened := by
  have hle : ∀ b : List Slot, ((b.map fun u => if u.num ∈ [v.num] then detach u else u).countP fun u => u.state == .opened)
      ≤ b.countP fun u => u.state == .opened := fun b =>
    (shrink_map b _ (fun u => by split <;> rfl) (fun u h => by
      split at h
      · cases h
      · exact h)).2
  induction a with
  | nil => simp at hv
  | cons u us ih =>
    rw [List.map_cons, List.countP_cons, List.countP_cons]
    rcases List.mem_cons.1 hv with h | h
    · subst h
      have := hle us
      simp [ho, detach] at this ⊢
      omega
    · have := ih h
      by_cases hu : u.num ∈ [v.num]
      · rw [if_pos hu]; simp [detach] at this ⊢; omega
      · rw [if_neg hu]; omega

theorem mergeByCopy_path (s : State) (h : HeldWrite) (v : Slot) (c : Nat) (hc : freeSlot? s = some c)
    (hv : v ∈ s.staging.slots) (ho : v.state = .opened) : Path s (mergeByCopy s h v c) := by
  obtain ⟨h1, h2⟩ := freeSlot_spec hc
  refine ((Path.one (.slotAdded s _
    ⟨mergeInto h { v with num := c, pins := 0 }, (mapSlots s [v.num] detach).staging.slots, h1, ?_, h2, rfl,
      .inl ?_⟩)).trans (setRecord_path _ _ _)).trans (answerStaged_path _ _)
  · simp only [mapSlots, List.map_map]
    refine List.map_congr_left fun u _ => ?_
    simp only [Function.comp]
    split <;> rfl
  · rw [insertSlot_countP]
    have := countP_detach s.staging.slots v hv ho
    simp only [mapSlots]
    split <;> omega

theorem fromCheck4_path (w : Work) (h : HeldWrite) : Path w.s (fromCheck4 w h).s := by
  unfold fromCheck4
  split
  · exact refuseWrite_path w h _
  · split
    · exact refuseWrite_path w h _
    · rename_i hq
      split
      · exact joinSlotWait_path _ _
      · rename_i c hc
        exact stageNew_path _ _ _ hc (by omega)

theorem fromCheck3_path (w : Work) (h : HeldWrite) : Path w.s (fromCheck3 w h).s := by
  unfold fromCheck3
  split
  · exact fromCheck4_path w h
  · rename_i v hv
    obtain ⟨h1, h2⟩ := openVersion_spec hv
    split
    · exact mergeInPlace_path _ _ _
    · split
      · exact joinSlotWait_path _ _
      · rename_i c hc
        exact mergeByCopy_path _ _ _ _ hc h1 h2

theorem claimDecision_path (w : Work) (h : HeldWrite) (t : Stream) : Path w.s (claimDecision w h t).s := by
  unfold claimDecision
  split
  · exact refuseWrite_path w h _
  · exact (leaveSlotWait_path w.s h.stream).trans (joinWaitList_path _ _)

theorem fromCheck2_path (w : Work) (h : HeldWrite) : Path w.s (fromCheck2 w h).s := by
  unfold fromCheck2
  split
  · exact fromCheck3_path w h
  · split
    · exact fromCheck3_path w h
    · exact claimDecision_path w h _

theorem guardedWrite_path (w : Work) (h : HeldWrite) : Path w.s (guardedWrite w h).s := by
  unfold guardedWrite
  split
  · exact answerTaken_path _ _
  · exact fromCheck2_path w h
  · exact fromCheck2_path w h

theorem reexamineOne_path (w : Work) (r : WaitRecord) : Path w.s (reexamineOne w r).s := by
  unfold reexamineOne
  split
  · exact (leaveWaitList_path w.s r.write.stream).trans
      (fromCheck3_path { w with s := leaveWaitList w.s r.write.stream } r.write)
  · exact .refl

theorem reexamine_path (w : Work) (l : Addr) : Path w.s (reexamine w l).s := Path.foldlWork reexamineOne_path _ w

theorem releaseRounds_path (n : Nat) (w : Work) : Path w.s (releaseRounds n w).s := by
  induction n generalizing w with
  | zero => exact .refl
  | succ n ih =>
    unfold releaseRounds
    split
    · exact .refl
    · exact (Path.foldlWork reexamine_path w.release { w with release := [] }).trans (ih _)

theorem wakePass_path (w : Work) : Path w.s (wakePass w).s :=
  Path.foldlWork fromCheck2_path w.s.staging.slotWait { w with freed := false }

theorem settlePasses_path (n : Nat) (w : Work) : Path w.s (settlePasses n w).s := by
  induction n generalizing w with
  | zero => exact .refl
  | succ n ih =>
    unfold settlePasses
    have h := releaseRounds_path (w.s.claims.waitList.length + 1) w
    dsimp only
    split
    · exact (h.trans (wakePass_path _)).trans (ih _)
    · exact h

theorem settle_path (w : Work) : Path w.s (settle w) := settlePasses_path _ w

end Sys2Proof.Machine
end

