-- ==== Sys2Proof/Laws/EventPaths.lean ====
section
/-! SUPPORT. Every change of mode is a chain of moves. -/

namespace Sys2Proof.Machine

/-! ## Changes of mode -/

theorem takeRegion_path (s : State) : Path s (takeRegion s) :=
  (Path.one (.journal s { s.journal with region := configRegion s })).trans (Path.one (.decoder _ _))

theorem endReloc_path (s : State) (r : RelocResult) : Path s (endReloc s r) :=
  ((Path.one (.control s s.modes s.recovery s.format { s.reloc with state := .none, result := r } s.drain)).trans
    (Path.one (.decoder _ { s.decoder with guardTarget := none }))).trans (setFlag_path _ _)

theorem cancelReloc_path (s : State) : Path s (cancelReloc s) :=
  Path.ite (fun _ => .refl) (fun _ => endReloc_path s _)

theorem abortQuietly_path (s : State) (ns : List Nat) : Path s (abortQuietly s ns) :=
  endVersions_path (Work.start s) ns .aborted (by decide)

theorem massAbortRecord_path (s : State) (st : Stream) : Path s (massAbortRecord s st) := by
  unfold massAbortRecord
  split
  · exact .refl
  · exact setRecord_path _ _ _
  · exact ((abortQuietly_path s _).trans (setRecord_path _ _ _)).trans (countAborted_path _)

theorem answerHeldAborted_path (r : Reason) (s : State) (h : HeldWrite) : Path s (answerHeldAborted r s h) :=
  answerTaken_path _ _

theorem abortHeld_path (s : State) (r : Reason) : Path s (abortHeld s r) :=
  ((Path.foldl (answerHeldAborted_path r) (heldWrites s) s).trans
    (Path.one (.claims _ { ((heldWrites s).foldl (answerHeldAborted r) s).claims with waitList := [] }))).trans
    (Path.one (.slots _ { ((heldWrites s).foldl (answerHeldAborted r) s).staging with slotWait := [] }
      (SlotsShrink.rfl' _)))

theorem abortEntry_path (s : State) (e : Entry) (r : Reason) : Path s (abortEntry s e r) :=
  (((abortQuietly_path s e.slots).trans (answerCommitAborted_path _ _ _ _)).trans (countAborted_path _)).trans
    (removeEntry_path _ _)

theorem indoubtEntry_path (s : State) (e : Entry) : Path s (indoubtEntry s e) :=
  ((abortQuietly_path s e.slots).trans (sendIndoubt_path _ _)).trans (removeEntry_path _ _)

theorem endJournaling_path (s : State) (e : Entry) (r : Reason) : Path s (endJournaling s e r) :=
  Path.ite (fun _ => indoubtEntry_path s e) (fun _ => abortEntry_path s e r)

theorem massAbortEntry_path (c : AbortCause) (s : State) (e : Entry) : Path s (massAbortEntry c s e) := by
  unfold massAbortEntry
  split
  · exact abortEntry_path _ _ _
  · exact Path.ite (fun _ => .refl) (fun _ => endJournaling_path _ _ _)
  · exact .refl
  · exact .refl

theorem sendUnless_path (s : State) (e : Entry) (b c : Bool) : Path s (if b then s else sendCommitted s e c) :=
  Path.ite (fun _ => .refl) (fun _ => sendCommitted_path _ _ _)

theorem disposeEntry_path (s : State) (e : Entry) : Path s (disposeEntry s e) := by
  unfold disposeEntry
  split
  · exact .refl
  · exact .refl
  · exact (sendUnless_path s e _ _).trans (removeEntry_path _ _)
  · exact (sendUnless_path s e _ _).trans (removeEntry_path _ _)

theorem massAbort_path (s : State) (c : AbortCause) : Path s (massAbort s c) := by
  have h := ((Path.foldl massAbortRecord_path allStreams s).trans (abortHeld_path _ c.reason)).trans
    (Path.foldl (massAbortEntry_path c)
      (abortHeld (allStreams.foldl massAbortRecord s) c.reason).groups.queue _)
  unfold massAbort
  exact Path.ite (fun _ => h) (fun _ => h.trans (Path.foldl disposeEntry_path _ _))

theorem filterReads_path (s : State) (p : TrackerEntry → Bool) : Path s { s with reads := s.reads.filter p } :=
  .one (.reads s _ (List.length_filter_le _ _))

theorem endRead_path (x : Status) (w : Work) (e : TrackerEntry) : Path w.s (endRead x w e).s :=
  ((unpin_path w e.pinned).trans (filterReads_path _ _)).trans (answerTaken_path _ _)

theorem endReads_path (s : State) (es : List TrackerEntry) (x : Status) : Path s (endReads s es x) :=
  Path.foldlWork (endRead_path x) es (Work.start s)

theorem dropPosted_path (s : State) : Path s (dropPosted s) :=
  (Path.foldl (fun t (p : PostedRecord) => countLost_path t p.stream) s.posted.records s).trans
    (Path.one (.posted _ _ (Nat.zero_le _)))

theorem reinitStaging_path (s : State) : Path s (reinitStaging s) :=
  .one (.slots s Staging.reset ⟨List.nil_sublist _, Nat.zero_le _⟩)

theorem idleWorkers_path (s : State) : Path s (idleWorkers s) :=
  ((setWriter_path s _).trans (applyIdle_path _)).trans (dropCheckpoint_path _)

theorem sendOwed_path (s : State) (e : Entry) : Path s (sendOwed s e) := by
  unfold sendOwed
  split
  · exact .refl
  · exact .refl
  · exact sendUnless_path _ _ _ _
  · exact sendUnless_path _ _ _ _

theorem discardVolatile_path (s : State) : Path s (discardVolatile s) :=
  (((((idleWorkers_path s).trans (Path.one (.groups _ Groups.reset (Nat.zero_le _)))).trans
    (Path.one (.reads _ [] (Nat.zero_le _)))).trans
    (Path.one (.slots _ Staging.reset ⟨List.nil_sublist _, Nat.zero_le _⟩))).trans
    (Path.one (.control _ s.modes none none s.reloc s.drain))).trans
    (Path.one (.media _ { s.media with linkDeadline := none } (List.Sublist.refl _)))

theorem setDrain_path (s : State) (d : Drain) : Path s { s with drain := d } :=
  .one (.control s s.modes s.recovery s.format s.reloc d)

theorem enterHalted_path (s : State) (x : DrainStatus) : Path s (enterHalted s x) :=
  (((((Path.foldl sendOwed_path s.groups.queue s).trans (answerQueues_path _ _)).trans (discardVolatile_path _)).trans
    (setDrain_path _ _)).trans (setMode_path _ _)).trans (setFlag_path _ _)

theorem faultReport_path (s : State) : Path s (faultReport s) := by
  unfold faultReport
  split
  · exact (setStart_path s _).trans (setFlag_path _ _)
  · exact Path.ite (fun _ => .refl) (fun _ => setStart_path s _)
  all_goals exact .refl

theorem markFaultLoss_path (s : State) : Path s (markFaultLoss s) :=
  Path.ite (fun _ => .refl) (fun _ => setDrain_path _ _)

theorem faultAnswers_path (s : State) : Path s (faultAnswers s) :=
  ((((cancelReloc_path s).trans (massAbort_path _ _)).trans (endReads_path _ _ _)).trans (markFaultLoss_path _)).trans
    (dropPosted_path _)

theorem clearRuns_path (s : State) : Path s { s with recovery := none, format := none } :=
  .one (.control s s.modes none none s.reloc s.drain)

theorem dropLinkDeadline_path (s : State) : Path s { s with media := { s.media with linkDeadline := none } } :=
  .one (.media s _ (List.Sublist.refl _))

theorem faultQuiet_path (s : State) : Path s (faultQuiet s) := by
  have h := (((idleWorkers_path s).trans (clearRuns_path _)).trans (abandonAll_path _)).trans (reinitStaging_path _)
  exact (h.trans (dropLinkDeadline_path _)).trans (askLinkReset_path _)

theorem enterFaulted_path (s : State) : Path s (enterFaulted s) := by
  have h := ((((faultAnswers_path s).trans (faultQuiet_path _)).trans (faultReport_path _)).trans
    (setFlag_path _ .fault)).trans (setMode_path _ .faulted)
  unfold enterFaulted
  exact Path.ite (fun _ => h.trans (enterHalted_path _ _)) (fun _ => h)

theorem drainTest_path (s : State) : Path s (drainTest s) := by
  unfold drainTest
  split
  · split
    · exact Path.ite (fun _ => (setDrain_path s _).trans (raiseTrigger_path _)) (fun _ => .refl)
    · exact Path.ite (fun _ => enterHalted_path _ _) (fun _ => .refl)
    · exact .refl
    · exact .refl
  · exact .refl

theorem withdrawHomeWrites_path (s : State) : Path s (withdrawHomeWrites s) := by
  have h := withdraw_path s Requester.isHomeWrite
  unfold withdrawHomeWrites
  exact Path.ite (fun _ => h.trans (applyIdle_path _)) (fun _ => h.trans (Path.one (.apply _ _)))

theorem powerfailReads_path (s : State) : Path s (powerfailReads s) :=
  (endReads_path s _ _).trans (withdraw_path _ _)

theorem clearRecovery_path (s : State) : Path s { s with recovery := none } :=
  .one (.control s s.modes none s.format s.reloc s.drain)

theorem stopRecovery_path (s : State) : Path s (stopRecovery s) :=
  (((withdraw_path s _).trans (clearRecovery_path _)).trans (setStart_path _ _)).trans (setFlag_path _ _)

theorem enterDraining_path (s : State) (o : DrainOrigin) : Path s (enterDraining s o) := by
  have h := (((((cancelReloc_path s).trans (withdraw_path _ Requester.isReloc)).trans (massAbort_path _ .powerfail)).trans
    (powerfailReads_path _)).trans (answerQueues_path _ .powerfail)).trans (withdrawHomeWrites_path _)
  unfold enterDraining
  refine ((h.trans ?_).trans (beginDrain_path _ o)).trans ((setMode_path _ .draining).trans (drainTest_path _))
  exact Path.ite (fun _ => stopRecovery_path _) (fun _ => .refl)

theorem holdScratch_path (s : State) : Path s { s with staging := { s.staging with scratch := some [] } } :=
  .one (.slots s _ (SlotsShrink.rfl' _))

theorem clearErrors_path (s : State) : Path s { s with ckpt := { s.ckpt with errors := 0 } } := .one (.ckpt s _)

theorem beginRecovering_path (s : State) (p : Phase) (c : Cause) : Path s (beginRecovering s p c) := by
  have h := (((takeRegion_path s).trans (setStart_path _ .none)).trans (setMode_path _ .recovering)).trans
    (dropCheckpoint_path _)
  unfold beginRecovering
  exact ((h.trans (holdScratch_path _)).trans (clearErrors_path _)).trans (setRecovery_path _ (Recovery.entry p c))

theorem superblockReads_ready (s : State) : ∀ r ∈ superblockReads s, r.state = .ready := by
  simp [superblockReads, readRequest]

theorem enterRecovering_path (s : State) (c : Cause) : Path s (enterRecovering s c) := by
  unfold enterRecovering
  split
  · exact (beginRecovering_path s _ _).trans (handOver_path _ _ (superblockReads_ready _))
  · exact ((beginRecovering_path s _ _).trans (askLinkReset_path _)).trans (startLinkDeadline_path _)
  · exact ((beginRecovering_path s _ _).trans (askLinkReset_path _)).trans (startLinkDeadline_path _)

theorem enterFinal_path (s : State) (r : Recovery) : Path s (enterFinal s r) :=
  ((Path.one (.journal s
    { s.journal with
      head := r.scanOffset
      retiredTail := r.scanOffset
      releasedTail := r.scanOffset
      used := 0
      retiredSpan := 0
      appliedThrough := s.journal.appliedThrough
      durableThrough := s.journal.appliedThrough
      nextSeq := s.journal.appliedThrough + 1 })).trans (setRecovery_path _ _)).trans (raiseTrigger_path _)

theorem enterHeader_path (s : State) (r : Recovery) : Path s (enterHeader s r) :=
  Path.ite (fun _ => enterFinal_path s r) (fun _ => (setRecovery_path s _).trans (handOver_path _ _ ready_one))

theorem leaveRecovering_path (s : State) : Path s (leaveRecovering s) :=
  ((clearRecovery_path s).trans (Path.one (.slots _ { s.staging with scratch := none } (SlotsShrink.rfl' _)))).trans
    (setFlag_path _ _)

theorem becomeReady_path (s : State) : Path s (becomeReady s) :=
  (((setStart_path s .ok).trans (setMode_path _ .ready)).trans (setDrain_path _ _)).trans (applyLook_path _)

/-- An outcome is a chain when each requester's act is. -/
theorem onOutcome_path (s : State) (t : MediaTag) (act : Requester → Option (State → State))
    (h : ∀ q f, act q = some f → ∀ x, Path x (f x)) : Path s (onOutcome s t act) := by
  unfold onOutcome
  split
  · exact .refl
  · split
    · exact .refl
    · rename_i f hf
      exact (dropTag_path s t).trans (h _ _ hf _)

end Sys2Proof.Machine
end

