-- ==== Sys2Proof/Laws/ExecPaths.lean ====
section
/-! SUPPORT. The meaning of every command but HARD_RESET is a chain of moves; that of RESPONSE_SEND after the head of the
egress queue has left. EVENT_FLAGS_CLEAR, which takes flags back, is none. -/

namespace Sys2Proof.Machine

/-- An outcome that names no operation of this meaning. -/
theorem no_act {f : State → State} {P : Prop} (h : (none : Option (State → State)) = some f) : P := by cases h

/-! ## Fabric port -/

theorem appendArrival_path (s : State) (r : Request) (h : (ingressOf s r.stream).length < Config.ingressDepth) :
    Path s (appendArrival s r) := .one (.arrival s _ _ _ h)

theorem arrival_path (r : Request) (s t : State) (h : execRequestArrival r s = .next t) : Path s t := by
  simp only [execRequestArrival, Host.Outcome.next.injEq] at h
  subst h
  refine Path.ite (fun _ => .refl) (fun hl => Path.ite (fun _ => ?_) (fun _ => ?_))
  · exact (appendArrival_path s r (by omega)).trans (settleHeldAnswers_path _)
  · exact appendArrival_path s r (by omega)

theorem takeableHead_spec {s : State} {st : Stream} {r : Request} (h : takeableHead s st = some r) :
    ingressOf s st ≠ [] ∧ blocked s st r = false := by
  unfold takeableHead at h
  split at h
  · rename_i e es he
    split at h
    · rename_i hb
      simp at h hb
      subst h
      exact ⟨by simp [he], by simpa using hb.2⟩
    · simp at h
  · simp at h

/-- What a grant of the take arbiter guarantees. -/
theorem takeGrant_spec {s : State} {g : Grant} (h : takeGrant s = some g) :
    ingressOf s g.stream ≠ [] ∧ blocked s g.stream g.req = false ∧ answersFromQueue s = false := by
  unfold takeGrant at h
  split at h
  · rename_i hr
    obtain ⟨st, -, hst⟩ := List.exists_of_findSome?_eq_some h
    cases ht : takeableHead s st with
    | none => rw [ht] at hst; simp at hst
    | some r =>
      rw [ht] at hst
      simp at hst
      subst hst
      obtain ⟨h1, h2⟩ := takeableHead_spec ht
      exact ⟨h1, h2, by simp at hr; exact hr.2⟩
  · simp at h

theorem takeHead_path (s : State) (st : Stream) (h : ingressOf s st ≠ []) : Path s (takeHead s st) :=
  (Path.one (.freeHead s st h)).trans (Path.one (.fabric _ _ rfl rfl (List.prefix_refl _)))

/-- A mode that takes requests and answers none is READY. -/
theorem ready_of {s : State} (h1 : answersFromQueue s = false) (h2 : modeAnswer s.modes.mode = none) :
    s.modes.mode = .ready := by
  cases hm : s.modes.mode <;> simp [hm, modeAnswer, answersFromQueue] at h1 h2 ⊢

theorem takeOf_path (k : RequestKind) (act : State → Grant → State)
    (h : ∀ (s : State) (g : Grant), s.modes.mode = .ready → g.req.kind = k → headBlocked s g.stream g.req = false →
      Path (takeHead s g.stream) (act (takeHead s g.stream) g)) (s : State) : Path s (takeOf k act s) := by
  unfold takeOf
  split
  · exact .refl
  · rename_i g hg
    obtain ⟨h1, h2, h3⟩ := takeGrant_spec hg
    split
    · rename_i hk
      split
      · exact (takeHead_path s _ h1).trans (answerTaken_path _ _)
      · rename_i hm
        have hr := ready_of h3 hm
        refine (takeHead_path s _ h1).trans (h s g hr hk ?_)
        simp only [blocked, hr, beq_self_eq_true, Bool.true_and, Bool.or_eq_false_iff] at h2
        exact h2.2
    · exact .refl

theorem track_path (s : State) (e : TrackerEntry) (h : s.reads.length < Config.trackerDepth) : Path s (track s e) :=
  .one (.readAdded s e h)

theorem homeReadRequest_ready (e : TrackerEntry) : ∀ r ∈ [homeReadRequest e], r.state = .ready := ready_one

theorem plainRead_path (s : State) (g : Grant) (h : s.reads.length < Config.trackerDepth) : Path s (plainRead s g) := by
  unfold plainRead
  exact Path.ite (fun _ => (track_path s _ h).trans (handOver_path _ _ (homeReadRequest_ready _)))
    (fun _ => track_path s _ h)

theorem guardedRead_path (s : State) (g : Grant) (h : s.reads.length < Config.trackerDepth) :
    Path s (guardedRead s g) := by
  unfold guardedRead
  refine Path.ite (fun _ => answerTaken_path _ _) (fun _ => ?_)
  exact ((pin_path s _).trans (track_path _ _ h)).trans (handOver_path _ _ (homeReadRequest_ready _))

theorem answerDenied_path (s : State) (g : Grant) : Path s (answerDenied s g) := answerTaken_path _ _

theorem execTakeRead_path (s t : State) (h : execTakeRead s = .next t) : Path s t := by
  simp only [execTakeRead, Host.Outcome.next.injEq] at h
  subst h
  refine takeOf_path _ _ (fun s g hr hk hb => ?_) s
  have hl : (takeHead s g.stream).reads.length < Config.trackerDepth := by
    simp only [headBlocked, hk, decide_eq_false_iff_not] at hb
    exact Nat.lt_of_not_le hb
  unfold actRead
  split
  · exact plainRead_path _ _ hl
  · exact plainRead_path _ _ hl
  · exact guardedRead_path _ _ hl
  · exact answerDenied_path _ _

theorem addPosted_path (s : State) (p : PostedRecord) (h : s.posted.records.length < Config.postedDepth) :
    Path s { s with posted := { s.posted with records := s.posted.records ++ [p] } } :=
  .one (.postedAdded s _ h (by simp))

theorem plainWrite_path (s : State) (g : Grant) (h : s.posted.records.length < Config.postedDepth) :
    Path s (plainWrite s g) := by
  unfold plainWrite
  have h2 (x : State) : Path x (if (postedHead s).isNone then handOver x [postedRequest (postedRecord s g)] else x) :=
    Path.ite (fun _ => handOver_path _ _ (by simp [postedRequest, writeRequest])) (fun _ => .refl)
  exact ((addPosted_path s (postedRecord s g) h).trans (h2 _)).trans (answerTaken_path _ _)

theorem execTakeWrite_path (s t : State) (h : execTakeWrite s = .next t) : Path s t := by
  simp only [execTakeWrite, Host.Outcome.next.injEq] at h
  subst h
  refine takeOf_path _ _ (fun s g hr hk hb => ?_) s
  have hl : (takeHead s g.stream).posted.records.length < Config.postedDepth := by
    simp only [headBlocked, hk, decide_eq_false_iff_not] at hb
    exact Nat.lt_of_not_le hb
  unfold actWrite
  split
  · exact plainWrite_path _ _ hl
  · exact (guardedWrite_path (Work.start _) _).trans (settle_path _)
  · exact answerDenied_path _ _
  · exact answerDenied_path _ _

theorem sealGroup_path (s : State) (g : Grant) (h : s.groups.queue.length < Config.commitDepth) :
    Path s (sealGroup s g) := by
  have h1 : Path s (mapSlots s (sealedEntry s g).slots (sealSlot (sealedEntry s g))) :=
    mapSlots_path s _ _ (fun _ => rfl) (fun _ h => by cases h)
  unfold sealGroup
  exact (h1.trans (setRecord_path _ g.stream .absent)).trans (Path.one (.sealed _ _ h (by simp [setRecord, mapSlots])))

theorem execCommit_path (s t : State) (h : execCommit s = .next t) : Path s t := by
  simp only [execCommit, Host.Outcome.next.injEq] at h
  subst h
  refine takeOf_path _ _ (fun s g hr hk hb => ?_) s
  have hd : recordOf (takeHead s g.stream) g.stream = recordOf s g.stream := rfl
  have hq : (∀ x, recordOf s g.stream ≠ .doomed x) →
      (takeHead s g.stream).groups.queue.length < Config.commitDepth := by
    intro hx
    have hi : isDoomed s g.stream = false := by
      unfold isDoomed
      split
      · rename_i x hx'; exact absurd hx' (hx x)
      · rfl
      · rfl
    simp only [headBlocked, hk, hi, Bool.not_false, Bool.true_and, Bool.or_eq_false_iff,
      decide_eq_false_iff_not] at hb
    exact Nat.lt_of_not_le hb.2
  unfold actCommit
  split
  · exact (answerCommitAborted_path _ _ _ _).trans (setRecord_path _ _ _)
  · rename_i hx
    exact (sealGroup_path _ _ (hq (fun x h1 => by rw [hd, h1] at hx; cases hx))).trans (writerLook_path _)
  · rename_i hx
    exact (sealGroup_path _ _ (hq (fun x h1 => by rw [hd, h1] at hx; cases hx))).trans (writerLook_path _)

theorem actDiscard_path (s : State) (g : Grant) : Path s (actDiscard s g) :=
  (((answerTaken_path s _).trans (setRecord_path _ _ _)).trans (abortVersions_path (Work.start _) _)).trans
    (settle_path _)

theorem execDiscard_path (s t : State) (h : execDiscard s = .next t) : Path s t := by
  simp only [execDiscard, Host.Outcome.next.injEq] at h
  subst h
  exact takeOf_path _ _ (fun s g _ _ _ => actDiscard_path _ g) s

/-- RESPONSE_SEND is a chain of moves after the head has left. -/
theorem execResponseSend_path (s t : State) (h : execResponseSend s = .next t) : Path (sendHead s) t := by
  simp only [execResponseSend, Host.Outcome.next.injEq] at h
  subst h
  split
  · rename_i he
    have hs : sendHead s = s := by unfold sendHead; rw [he]
    rw [hs]
  · exact settleHeldAnswers_path _

/-! ## Timers -/

theorem abortHeldOf_path (s : State) (st : Stream) (r : Reason) : Path s (abortHeldOf s st r) := by
  unfold abortHeldOf
  split
  · exact .refl
  · exact ((leaveWaitList_path s st).trans (leaveSlotWait_path _ st)).trans (answerHeldAborted_path _ _ _)

theorem execIdleExpiry_path (st : Stream) (s t : State) (h : execIdleExpiry st s = .next t) : Path s t := by
  simp only [execIdleExpiry, Host.Outcome.next.injEq] at h
  subst h
  refine Path.ite (fun _ => ?_) (fun _ => .refl)
  exact ((doom_path (Work.start s) st .idle).trans (abortHeldOf_path _ st .idle)).trans
    (settle_path { doom (Work.start s) st .idle with s := abortHeldOf (doom (Work.start s) st .idle).s st .idle })

theorem execConflictExpiry_path (st : Stream) (s t : State) (h : execConflictExpiry st s = .next t) : Path s t := by
  simp only [execConflictExpiry, Host.Outcome.next.injEq] at h
  subst h
  split
  · exact .refl
  · rename_i r hr
    exact ((leaveWaitList_path s st).trans
      (refuseWrite_path (Work.start (leaveWaitList s st)) r.write .conflict)).trans (settle_path _)

/-! ## Outcomes -/

theorem untrack_path (s : State) (e : TrackerEntry) : Path s (untrack s e) := filterReads_path s _

theorem answerRead_path (s : State) (e : TrackerEntry) (r : Response) : Path s (answerRead s e r) :=
  ((((answerTaken_path s r).trans (untrack_path _ e)).trans (unpin_path (Work.start _) e.pinned)).trans
    (settle_path _)).trans (drainTest_path _)

theorem homeReadReturned_path (n : Serial) (l : Line) (s : State) : Path s (homeReadReturned n l s) := by
  unfold homeReadReturned; split
  · exact .refl
  · exact answerRead_path _ _ _

theorem homeReadFailed_path (n : Serial) (s : State) : Path s (homeReadFailed n s) := by
  unfold homeReadFailed; split
  · exact .refl
  · exact answerRead_path _ _ _

theorem removePosted_path (s : State) (n : Serial) : Path s (removePosted s n) :=
  .one (.posted s _ (List.length_filter_le _ _))

theorem reportPosted_path (s : State) (p : PostedRecord) : Path s (reportPosted s p) :=
  (Path.one (.groups s { s.groups with queue := s.groups.queue.map (lowerBarrier p.stream p.serial) } (by simp))).trans
    (answerOwed_path _)

theorem retirePosted_path (s : State) (p : PostedRecord) : Path s (retirePosted s p) :=
  (((removePosted_path s _).trans (reportPosted_path _ _)).trans (relocTrigger_path _ _)).trans (drainTest_path _)

theorem postedAcked_path (n : Serial) (s : State) : Path s (postedAcked n s) := by
  unfold postedAcked; split
  · exact .refl
  · exact retirePosted_path _ _

theorem postedFailed_path (n : Serial) (s : State) : Path s (postedFailed n s) := by
  unfold postedFailed; split
  · exact .refl
  · exact (countLost_path _ _).trans (retirePosted_path _ _)

theorem abortJournaled_path (s : State) (e : Entry) : Path s (abortJournaled s e) :=
  ((((answerCommitAborted_path s _ _ _).trans (countAborted_path _)).trans (removeEntry_path _ _)).trans
    (abortVersions_path (Work.start _) e.slots)).trans (settle_path _)

theorem finishFailedRecord_path (s : State) : Path s (finishFailedRecord s) := by
  have h : Path (setFlag s .journalError) (match journalingEntry (setFlag s .journalError) with
      | none => setFlag s .journalError
      | some e => abortJournaled (setFlag s .journalError) e) := by
    split
    · exact .refl
    · exact abortJournaled_path _ _
  exact (((((setFlag_path s _).trans h).trans (setWriter_path _ .idle)).trans (writerLook_path _)).trans
    (relocTrigger_path s _)).trans (drainTest_path _)

theorem handCommitLine_path (s : State) : Path s (handCommitLine s) := by
  unfold handCommitLine
  split
  · exact .refl
  · exact handOver_path _ _ (by simp [commitLineRequest, writeRequest])

theorem recordLinesDone_path (s : State) : Path s (recordLinesDone s) := by
  unfold recordLinesDone
  split
  · exact .refl
  · exact .refl
  · exact handCommitLine_path s
  · exact finishFailedRecord_path s

theorem journalLineAcked_path (s : State) : Path s (journalLineAcked s) :=
  Path.ite (fun _ => .refl) (fun _ => recordLinesDone_path s)

theorem journalLineFailed_path (s : State) : Path s (journalLineFailed s) := by
  unfold journalLineFailed
  split
  · exact .refl
  · exact .refl
  · exact ((withdraw_path s _).trans (setWriter_path _ _)).trans (journalLineAcked_path _)

theorem makeDurable_path (s : State) (e : Entry) : Path s (makeDurable s e) :=
  (mapEntry_path s _ _).trans (relabel_path _ _ _ (by decide))

theorem releaseClaims_path (s : State) (e : Entry) : Path s (releaseClaims s e) :=
  settle_path { Work.start s with release := unclaimed s (linesOf s e.slots) }

theorem advanceDurable_path (s : State) (q : Seq) (n : Nat) : Path s (advanceDurable s q n) := .one (.journal s _)

theorem groupDurable_path (s : State) (e : Entry) : Path s (groupDurable s e) :=
  (((((((advanceDurable_path s _ _).trans (countCommitted_path _)).trans (makeDurable_path _ e)).trans
    (releaseClaims_path _ e)).trans (tryAnswer_path _ e.serial)).trans (setWriter_path _ .idle)).trans
    (writerLook_path _)).trans (applyLook_path _)

theorem commitLineAcked_path (s : State) : Path s (commitLineAcked s) := by
  unfold commitLineAcked
  split
  · exact .refl
  · exact ((groupDurable_path s _).trans (relocTrigger_path s _)).trans (drainTest_path _)

theorem commitLineFailed_path (s : State) : Path s (commitLineFailed s) := by
  unfold commitLineFailed
  split
  · exact enterFaulted_path s
  · exact (indoubtEntry_path s _).trans (enterFaulted_path _)

theorem leaveOutstanding_path (s : State) (n : Nat) : Path s (leaveOutstanding s n) := .one (.apply s _)

theorem lastHomeWrite_path (s : State) : Path s (lastHomeWrite s) := by
  unfold lastHomeWrite
  split
  · exact applyIdle_path s
  · exact Path.ite (fun _ => applyIdle_path s) (fun _ => completeGroup_path s _)

theorem afterHomeWrite_path (s : State) : Path s (afterHomeWrite s) :=
  Path.ite (fun _ => lastHomeWrite_path s) (fun _ => .refl)

theorem homeWriteAcked_path (n : Nat) (s : State) : Path s (homeWriteAcked n s) := by
  unfold homeWriteAcked
  exact (((((leaveOutstanding_path s n).trans
    (endVersions_path (Work.start (leaveOutstanding s n)) [n] .spent (by decide))).trans (afterHomeWrite_path _)).trans
    (settle_path { endVersions (Work.start (leaveOutstanding s n)) [n] .spent with
      s := afterHomeWrite (endVersions (Work.start (leaveOutstanding s n)) [n] .spent).s })).trans
    (relocTrigger_path s _)).trans (drainTest_path _)

/-! ## Relocation -/

theorem clearingLines_ready (q : Requester) (r : Region) : ∀ x ∈ clearingLines q r, x.state = .ready := by
  simp [clearingLines, writeRequest]

theorem handClearing_path (s : State) : Path s (handClearing s) :=
  Path.ite (fun _ => .refl) (fun _ => handOver_path _ _ (clearingLines_ready _ _))

theorem releaseClearing_path (s : State) : Path s (releaseClearing s) :=
  Path.ite (fun _ => handClearing_path s) (fun _ => .refl)

theorem enterFormattingNew_path (s : State) : Path s (enterFormattingNew s) :=
  (setReloc_path s _).trans (handClearing_path _)

theorem handTargetSuperblocks_path (s : State) : Path s (handTargetSuperblocks s) :=
  (setReloc_path s _).trans (handOver_path _ _ (by simp [superblockRequest, writeRequest]))

theorem enterRetiring_path (s : State) : Path s (enterRetiring s) :=
  (setReloc_path s _).trans (handOver_path _ _ (by simp [superblockRequest, writeRequest]))

theorem handSecondRetiring_path (s : State) : Path s (handSecondRetiring s) :=
  (setReloc_path s _).trans (handOver_path _ _ (by simp [superblockRequest, writeRequest]))

theorem relocDone_path (s : State) : Path s (relocDone s) :=
  (((((Path.one (.regs s { s.regs with jnlBase := granuleOf s.reloc.target.base, jnlK := s.reloc.target.k } rfl fun _ h => h)).trans
    (Path.one (.decoder _ { s.decoder with guardActive := some s.reloc.target, guardTarget := none }))).trans
    (Path.one (.journal _ { s.journal.emptied with region := s.reloc.target }))).trans
    (Path.one (.ckpt _
      { counter := 2, nextSlot := .a, applied := s.journal.appliedThrough, errors := 0, inFlight := none,
        trigger := false }))).trans
    (Path.one (.control _ s.modes s.recovery s.format { s.reloc with state := .none, result := .done } s.drain))).trans
    (setFlag_path _ _)

theorem relocLinesDone_path (s : State) : Path s (relocLinesDone s) := by
  unfold relocLinesDone
  split
  · exact endReloc_path _ _
  · exact handTargetSuperblocks_path s
  · exact Path.ite (fun _ => (setReloc_path s _).trans (setFlag_path _ _)) (fun _ => enterRetiring_path s)
  all_goals exact .refl

theorem relocLineAcked_path (s : State) : Path s (relocLineAcked s) :=
  (Path.ite (fun _ => .refl) (fun _ => relocLinesDone_path s)).trans (drainTest_path _)

theorem relocLineFailed_path (s : State) : Path s (relocLineFailed s) := by
  unfold relocLineFailed
  split
  · exact ((withdraw_path s _).trans (setReloc_path _ _)).trans (relocLineAcked_path _)
  all_goals exact relocLineAcked_path s

theorem retiringAcked_path (s : State) : Path s (retiringAcked s) := by
  unfold retiringAcked
  split
  · exact (handSecondRetiring_path s).trans (drainTest_path _)
  · exact (relocDone_path s).trans (drainTest_path _)
  all_goals exact drainTest_path s

theorem retiringFailed_path (x : SbSlot) (s : State) : Path s (retiringFailed x s) := by
  unfold retiringFailed
  split
  · exact ((setReloc_path s _).trans (handOver_path _ _ (by simp [superblockRequest, writeRequest]))).trans
      (drainTest_path _)
  all_goals exact drainTest_path s

theorem restoringAcked_path (x : SbSlot) (s : State) : Path s (restoringAcked x s) := by
  unfold restoringAcked
  split
  · exact ((Path.one (.ckpt s { s.ckpt with counter := s.ckpt.counter + 3, nextSlot := x.other, errors := 0 })).trans
      (endReloc_path _ _)).trans (drainTest_path _)
  all_goals exact drainTest_path s

theorem restoringFailed_path (s : State) : Path s (restoringFailed s) := by
  unfold restoringFailed
  split
  · exact (endReloc_path s _).trans (enterFaulted_path _)
  all_goals exact drainTest_path s

/-! ## Checkpoint -/

theorem checkpointPointers_path (s : State) (f : InFlight) : Path s (checkpointPointers s f) :=
  (Path.one (.journal s
    { s.journal with
      releasedTail := f.sb.tail
      used := s.journal.used - f.span
      retiredSpan := s.journal.retiredSpan - f.span })).trans (Path.one (.ckpt _ _))

theorem requestAtEnd_path (s : State) (b : Bool) : Path s (requestAtEnd s b) :=
  Path.ite (fun _ => keepTrigger_path s) (fun _ => .refl)

theorem relocAfterCheckpoint_path (s : State) (f : InFlight) : Path s (relocAfterCheckpoint s f) :=
  Path.ite (fun _ => enterFormattingNew_path s) (fun _ => .refl)

theorem checkpointEnds_path (s : State) : Path s (checkpointEnds s) := by
  unfold checkpointEnds
  split
  · exact Path.ite (fun _ => (leaveRecovering_path s).trans (becomeReady_path _)) (fun _ => .refl)
  · exact Path.ite (fun _ => enterHalted_path _ _) (fun _ => drainTest_path s)
  all_goals exact .refl

theorem checkpointAcked_path (s : State) : Path s (checkpointAcked s) := by
  unfold checkpointAcked
  split
  · exact .refl
  · exact (((((checkpointPointers_path s _).trans (recheckSpace_path _)).trans (requestAtEnd_path _ _)).trans
      (endCheckpoint_path _)).trans (relocAfterCheckpoint_path _ _)).trans (checkpointEnds_path _)

theorem countCheckpointError_path (s : State) : Path s (countCheckpointError s) :=
  (setFlag_path s .checkpointError).trans (Path.one (.ckpt _ _))

theorem checkpointFailed_path (s : State) : Path s (checkpointFailed s) := by
  unfold checkpointFailed
  have h := countCheckpointError_path s
  exact Path.ite (fun _ => h.trans (enterFaulted_path _))
    (fun _ => ((h.trans (requestAtEnd_path _ _)).trans (endCheckpoint_path _)).trans (drainTest_path _))

/-! ## Format -/

theorem enterFormatting_path (s : State) : Path s (enterFormatting s) :=
  ((((takeRegion_path s).trans (setStart_path _ _)).trans (setMode_path _ _)).trans (setFormat_path _ _ _)).trans
    (handOver_path _ _ (clearingLines_ready _ _))

theorem handFormatSuperblocks_path (s : State) : Path s (handFormatSuperblocks s) :=
  (setFormat_path s _ _).trans (handOver_path _ _ (by simp [superblockRequest, writeRequest]))

theorem clearFormat_path (s : State) : Path s { s with format := none } :=
  .one (.control s s.modes s.recovery none s.reloc s.drain)

theorem formatComplete_path (s : State) : Path s (formatComplete s) :=
  (((clearFormat_path s).trans
    (Path.one (.journal _ { s.journal.emptied with nextSeq := 1, durableThrough := 0, appliedThrough := 0 }))).trans
    (Path.one (.ckpt _ { s.ckpt with counter := 2, nextSlot := .a, applied := 0, errors := 0 }))).trans
    (becomeReady_path _)

theorem formatFails_path (s : State) : Path s (formatFails s) :=
  ((clearFormat_path s).trans (setStart_path _ _)).trans (setMode_path _ _)

theorem formatLinesDone_path (s : State) : Path s (formatLinesDone s) := by
  unfold formatLinesDone
  refine Path.ite (fun _ => enterHalted_path _ _) (fun _ => ?_)
  split
  · exact .refl
  · refine Path.ite (fun _ => formatFails_path s) (fun _ => ?_)
    split
    · exact handFormatSuperblocks_path s
    · exact formatComplete_path s

theorem formatLineAcked_path (s : State) : Path s (formatLineAcked s) :=
  Path.ite (fun _ => .refl) (fun _ => formatLinesDone_path s)

theorem formatLineFailed_path (s : State) : Path s (formatLineFailed s) := by
  unfold formatLineFailed
  split
  · exact formatLineAcked_path s
  · exact ((withdraw_path s _).trans (setFormat_path _ _ _)).trans (formatLineAcked_path _)

theorem interruptFormat_path (s : State) : Path s (interruptFormat s) :=
  ((((withdraw_path s Requester.isFormat).trans (clearFormat_path _)).trans (setStart_path _ _)).trans
    (beginDrain_path _ _)).trans (formatLineAcked_path _)

/-! ## Recovery -/

theorem recoveryToIdle_path (s : State) (v : StartStatus) : Path s (recoveryToIdle s v) :=
  ((leaveRecovering_path s).trans (setStart_path _ _)).trans (setMode_path _ _)

theorem beginScan_path (s : State) (r : Recovery) (x : SbSlot) (sb : Superblock) : Path s (beginScan s r x sb) :=
  ((Path.one (.journal s
    { s.journal with
      head := sb.tail
      appliedThrough := sb.applied
      durableThrough := sb.applied
      nextSeq := sb.applied + 1 })).trans
    (Path.one (.ckpt _ { s.ckpt with counter := sb.counter, applied := sb.applied, nextSlot := x.other }))).trans
    (enterHeader_path _ _)

theorem setRelocated_path (s : State) (sb : Superblock) : Path s (setRelocated s sb) := .one (.regs s _ rfl fun _ h => h)

theorem judgeCopies_path (s : State) (r : Recovery) (a b : Line) : Path s (judgeCopies s r a b) := by
  unfold judgeCopies
  split
  · exact recoveryToIdle_path _ _
  · refine Path.ite (fun _ => (setRelocated_path s _).trans (recoveryToIdle_path _ _)) (fun _ => ?_)
    exact Path.ite (fun _ => recoveryToIdle_path _ _) (fun _ => beginScan_path _ _ _ _)

theorem superblockRead_path (x : SbSlot) (l : Line) (s : State) : Path s (superblockRead x l s) := by
  unfold superblockRead
  split
  · exact drainTest_path s
  · split
    · split
      · exact judgeCopies_path _ _ _ _
      · exact setRecovery_path _ _
    all_goals exact .refl

theorem setScratch_path (s : State) (ls : List (Nat × Line)) : Path s (setScratch s ls) :=
  .one (.slots s _ (SlotsShrink.rfl' _))

theorem beginRecord_path (s : State) (r : Recovery) (n : Nat) (l : Line) : Path s (beginRecord s r n l) :=
  ((setScratch_path s _).trans (setRecovery_path _ _)).trans
    (handOver_path _ _ (by simp [recordReads, readRequest]))

theorem headerRead_path (l : Line) (s : State) : Path s (headerRead l s) := by
  unfold headerRead
  split
  · exact drainTest_path s
  · split
    · split
      · exact Path.ite (fun _ => beginRecord_path _ _ _ _) (fun _ => enterFinal_path _ _)
      · exact enterFinal_path _ _
    all_goals exact .refl

theorem beginReplay_path (s : State) (r : Recovery) : Path s (beginReplay s r) :=
  (setRecovery_path s _).trans (handOver_path _ _ (by simp [replayRequest, writeRequest]))

theorem judgeRecord_path (s : State) (r : Recovery) : Path s (judgeRecord s r) :=
  Path.ite (fun _ => beginReplay_path s r) (fun _ => (setFlag_path s _).trans (enterFinal_path _ _))

theorem recordRead_path (i : Nat) (l : Line) (s : State) : Path s (recordRead i l s) := by
  unfold recordRead
  split
  · exact drainTest_path s
  · split
    · exact (setScratch_path s (scratchLines s ++ [(i, l)])).trans
        (Path.ite (fun _ => .refl) (fun _ => judgeRecord_path _ _))
    all_goals exact .refl

theorem recordReplayed_path (s : State) (r : Recovery) : Path s (recordReplayed s r) :=
  (Path.one (.journal s
    { s.journal with
      appliedThrough := r.expected
      durableThrough := r.expected
      nextSeq := r.expected + 1
      head := (r.scanOffset + r.length) % s.journal.region.ringLength })).trans (enterHeader_path _ _)

theorem replayAcked_path (s : State) : Path s (replayAcked s) := by
  unfold replayAcked
  split
  · exact drainTest_path s
  · split
    · exact Path.ite (fun _ => .refl) (fun _ => recordReplayed_path _ _)
    all_goals exact .refl

theorem recoveryReadFailed_path (s : State) : Path s (recoveryReadFailed s) :=
  Path.ite (fun _ => enterFaulted_path s) (fun _ => drainTest_path s)

/-! ## Link, drain, commands -/

theorem clearLink_path (s : State) : Path s (clearLink s) := .one (.media s _ (List.nil_sublist _))

theorem linkReady_path (s : State) : Path s (linkReady s) := by
  unfold linkReady
  split
  · exact drainTest_path s
  · split
    · exact (setRecovery_path s _).trans (handOver_path _ _ (superblockReads_ready s))
    all_goals exact .refl

theorem takeWarning_path (s : State) : Path s (takeWarning s) := by
  unfold takeWarning
  split
  · exact enterHalted_path _ _
  · exact Path.ite (fun _ => .refl) (fun _ => interruptFormat_path s)
  · exact enterDraining_path _ _
  · exact enterDraining_path _ _
  · exact enterHalted_path _ _
  · exact .refl
  · exact .refl

theorem endWriterGroup_path (s : State) : Path s (endWriterGroup s) := by
  unfold endWriterGroup
  split
  · exact .refl
  · exact endJournaling_path _ _ _

theorem expireDrain_path (s : State) : Path s (expireDrain s) :=
  ((((endWriterGroup_path s).trans (abandonAll_path _)).trans (endReads_path _ _ _)).trans (dropPosted_path _)).trans
    (enterHalted_path _ _)

theorem expireBudget_path (s : State) : Path s (expireBudget s) := by
  unfold expireBudget
  split
  · exact expireDrain_path s
  · exact Path.ite (fun _ => (abandonAll_path s).trans (enterHalted_path _ _)) (fun _ => .refl)
  all_goals exact .refl

theorem reject_path (s : State) : Path s (reject s) := setCommand_path _ _
theorem accept_path (s : State) : Path s (accept s) := setCommand_path _ _

theorem startProcedure_path (s : State) (run : State → State) (h : ∀ x, Path x (run x)) :
    Path s (startProcedure s run) :=
  Path.ite (fun _ => (accept_path s).trans (h _)) (fun _ => (accept_path s).trans (setStart_path _ _))

theorem restartQueues_path (s : State) :
    Path s (answerQueues (dropPosted (endReads s s.reads .notReady)) .notReady) :=
  ((endReads_path s s.reads .notReady).trans (dropPosted_path _)).trans (answerQueues_path _ .notReady)

theorem restartEntry_path (s : State) :
    Path s (enterRecovering (reinitStaging (abandonAll (idleWorkers s))) .restart) :=
  (((idleWorkers_path s).trans (abandonAll_path _)).trans (reinitStaging_path _)).trans (enterRecovering_path _ _)

theorem restartPart_path (s : State) : Path s (restartPart s) := by
  have h := (cancelReloc_path s).trans (massAbort_path _ .restart)
  have h2 := h.trans (restartQueues_path _)
  have h3 := h2.trans (restartEntry_path _)
  unfold restartPart
  exact h3

theorem resumePart_path (s : State) : Path s (resumePart s) :=
  (setDrain_path s { s.drain with doneOut := false }).trans (enterRecovering_path _ _)

theorem acceptReloc_path (s : State) : Path s (acceptReloc s) := by
  have h := ((Path.one (.control s s.modes s.recovery s.format
    { state := .pending, result := .none, target := relocTarget s, hold := s.regs.relocHold } s.drain)).trans
    (Path.one (.decoder _ { s.decoder with guardTarget := some (relocTarget s) }))).trans (accept_path _)
  unfold acceptReloc
  exact Path.ite (fun _ => h.trans (raiseTrigger_path _)) (fun _ => h)

theorem execRelocRequest_path (k : BitVec 5) (b : Bool) (s t : State) (h : execRelocRequest k b s = .next t) :
    Path s t := by
  simp only [execRelocRequest, Host.Outcome.next.injEq] at h
  subst h
  have h : Path s (writeRelocCtrl s k b) := .one (.regs s _ rfl fun _ h => h)
  exact Path.ite (fun _ => h.trans (acceptReloc_path _)) (fun _ => h.trans (reject_path _))

/-! ## Registers -/

theorem latch_path (s : State) (r : Readout48) (v : BitVec 48) : Path s (latch s r v) := by
  unfold latch
  split <;> exact .one (.regs s _ rfl fun _ h => h)

theorem setIdleTimeout_path (s : State) (v : Nat) (h : v ≤ 65535) : Path s (setIdleTimeout s v) := by
  refine .one (.ranged s _ (fun i x hx => ?_) fun _ h => h)
  match i with
  | 0 | 1 | 3 | 4 | 5 | 6 | 7 => exact .inl hx
  | 2 =>
    simp [Regs.config] at hx
    exact .inr ⟨0, 65535, rfl, Nat.zero_le _, by omega⟩
  | i + 8 => simp [Regs.config] at hx

theorem removeDeadlines_path (s : State) : Path s (removeDeadlines s) := .one (.groups s _ (le_refl _))

theorem execIdleTimeoutWrite_path (v : Word) (s t : State) (h : execIdleTimeoutWrite v s = .next t) : Path s t := by
  simp only [execIdleTimeoutWrite, Host.Outcome.next.injEq] at h
  subst h
  refine Path.ite (fun _ => .refl) (fun hv => Path.ite (fun _ => ?_) (fun _ => ?_))
  · exact (setIdleTimeout_path s 0 (by omega)).trans (removeDeadlines_path _)
  · exact setIdleTimeout_path s _ (by omega)

/-- A ranged write changes one configuration register, to a value of its range. -/
theorem writeRanged_path (s : State) (low high : Nat) (v : Word) (r : Regs) (n : Nat)
    (hn : [(1, 256), (1, 65535), (0, 65535), (1, 4095), (0, 15), (1, 65535), (2, 16), (1, 64)][n]? = some (low, high))
    (hr : r.config = s.regs.config.set n v.toNat) (hf : FlagsKept s.regs r) : Path s (writeRanged s low high v r) := by
  refine Path.ite (fun hv => .one (.ranged s r (fun i x hx => ?_) hf)) (fun _ => .refl)
  rw [hr, List.getElem?_set] at hx
  split at hx
  · rename_i hi
    subst hi
    split at hx
    · simp at hx
      subst hx
      exact .inr ⟨low, high, hn, hv⟩
    · simp at hx
  · exact .inl hx

theorem writePlain_path (s : State) (i : BitVec 8) (v : Word) : Path s (writePlain s i v) := by
  unfold writePlain
  split
  · exact .one (.regs s _ rfl fun _ h => h)
  · exact .one (.regs s _ rfl fun _ h => h)
  · exact .one (.regs s _ rfl fun _ h => h)
  · exact .one (.regs s _ rfl fun _ h => h)
  · exact writeRanged_path s _ _ v _ 0 rfl rfl fun _ h => h
  · exact writeRanged_path s _ _ v _ 1 rfl rfl fun _ h => h
  · exact writeRanged_path s _ _ v _ 3 rfl rfl fun _ h => h
  · exact writeRanged_path s _ _ v _ 4 rfl rfl fun _ h => h
  · exact writeRanged_path s _ _ v _ 5 rfl rfl fun _ h => h
  · exact writeRanged_path s _ _ v _ 6 rfl rfl fun _ h => h
  · exact writeRanged_path s _ _ v _ 7 rfl rfl fun _ h => h
  · unfold writeDefaultKind
    split
    · exact .one (.decoder s _)
    · exact .one (.decoder s _)
    · exact .refl
  · exact .refl

theorem writeRegister_path (s : State) (i : BitVec 8) (v : Word) : Path s (writeRegister s i v) := by
  unfold writeRegister
  split
  · exact .one (.decoder s _)
  · exact writePlain_path s i v

/-! ## Media port -/

theorem firstGrantable_spec {s : State} {p : Requester → Bool} {i : Nat} (h : firstGrantable s p = some i) :
    ∃ r, s.media.requests[i]? = some r ∧ grantable s i r = true := by
  unfold firstGrantable at h
  obtain ⟨x, hx, hi⟩ := Option.map_eq_some_iff.1 h
  subst hi
  have h1 := List.find?_some hx
  have h2 := List.mem_of_find?_eq_some hx
  simp only [Bool.and_eq_true] at h1
  exact ⟨x.1, List.mem_zipIdx_iff_getElem?.1 h2, h1.2⟩

theorem backgroundGrant_spec {s : State} {i : Nat} (h : backgroundGrant s = some i) :
    ∃ r, s.media.requests[i]? = some r ∧ grantable s i r = true := by
  obtain ⟨n, -, hn⟩ := List.exists_of_findSome?_eq_some h
  exact firstGrantable_spec hn

theorem foregroundGrant_spec {s : State} {x : Nat × Bool} (h : foregroundGrant s = some x) :
    ∃ r, s.media.requests[x.1]? = some r ∧ grantable s x.1 r = true := by
  unfold foregroundGrant at h
  split at h
  · rename_i i j hi hj
    split at h
    · simp at h; subst h; exact firstGrantable_spec hi
    · simp at h; subst h; exact firstGrantable_spec hj
  · rename_i i hi hj; simp at h; subst h; exact firstGrantable_spec hi
  · rename_i j hi hj; simp at h; subst h; exact firstGrantable_spec hj
  · simp at h

/-- The media arbiter grants a request that can be granted. -/
theorem mediaGrant_spec {s : State} {g : MediaGrant} (h : mediaGrant s = some g) :
    ∃ r, s.media.requests[g.place]? = some r ∧ grantable s g.place r = true := by
  unfold mediaGrant at h
  split at h
  · simp at h
  · rename_i f hf hb; simp at h; subst h; exact foregroundGrant_spec hf
  · rename_i i hf hb; simp at h; subst h; exact backgroundGrant_spec hb
  · rename_i f i hf hb
    split at h
    · simp at h; subst h; exact backgroundGrant_spec hb
    · simp at h; subst h; exact foregroundGrant_spec hf

theorem setArbiter_path (s : State) (g : MediaGrant) : Path s (setArbiter s g) :=
  .one (.media s _ (List.Sublist.refl _))

theorem freeTag_spec {s : State} {t : MediaTag} (h : freeTag? s = some t) : tagRecord s t = none := by
  have := List.find?_some h
  simpa using this

theorem sendRequest_path (s : State) (g : MediaGrant) (r : MediaReq) (t : MediaTag) (n : Nat)
    (hr : s.media.requests[g.place]? = some r) (hg : grantable s g.place r = true)
    (ht : issueTag s r = some (t, n)) : Path s (sendRequest (setArbiter s g) g.place r t n) := by
  have h1 : Path (setArbiter s g)
      { setArbiter s g with media := { (setArbiter s g).media with
        requests := (setArbiter s g).media.requests.set g.place
          { r with state := .issued t n (s.now + s.regs.mediaTimeout) } } } := by
    refine .one (.issued _ g.place r t n _ hr ?_ ?_)
    · unfold issueTag at ht
      cases hs : r.state with
      | ready =>
        rw [hs] at ht
        obtain ⟨u, hu, hx⟩ := Option.map_eq_some_iff.1 ht
        simp at hx
        refine .inr ⟨by simp [MediaReq.tag?, hs], ?_⟩
        have := freeTag_spec hu
        rw [← hx.1]; exact this
      | issued u m d => rw [hs] at ht; simp at ht
      | retryWait u m =>
        rw [hs] at ht
        simp at ht
        exact .inl (by simp [MediaReq.tag?, hs, ht.1])
    · intro q hq ho
      simp only [grantable, eligible, eligibleAt, Bool.and_eq_true, List.all_eq_true] at hg
      have := hg.1.2.2 q hq
      simp [ho, compatible] at this
      exact this
  exact ((setArbiter_path s g).trans h1).trans (Path.one (.wires _ _))

theorem markReadIssued_path (s : State) (n : Serial) : Path s (markReadIssued s n) :=
  .one (.reads s _ (by simp))

theorem insertBySerial_mem (x : Serial × MediaReq) (l : List (Serial × MediaReq)) (y : Serial × MediaReq)
    (h : y ∈ insertBySerial x l) : y = x ∨ y ∈ l := by
  induction l with
  | nil => simpa [insertBySerial] using h
  | cons z zs ih =>
    unfold insertBySerial at h
    split at h
    · simpa using h
    · rcases List.mem_cons.1 h with h1 | h1
      · exact .inr (by simp [h1])
      · rcases ih h1 with h2 | h2
        · exact .inl h2
        · exact .inr (List.mem_cons_of_mem _ h2)

theorem readyAfterPosted_ready (s : State) (p : PostedRecord) : ∀ r ∈ readyAfterPosted s p, r.state = .ready := by
  intro r hr
  unfold readyAfterPosted at hr
  obtain ⟨y, hy, hyr⟩ := List.mem_map.1 hr
  have hreads : ∀ y ∈ (s.reads.filter fun e => e.heldBehind p && e.hold == 1).map
      fun e => (e.serial, homeReadRequest e), y.2.state = .ready := by
    intro y hy
    obtain ⟨e, -, he⟩ := List.mem_map.1 hy
    rw [← he]; rfl
  split at hy
  · rw [← hyr]; exact hreads y hy
  · rcases insertBySerial_mem _ _ _ hy with h1 | h1
    · rw [← hyr, h1]; rfl
    · rw [← hyr]; exact hreads y h1

theorem reportIssue_path (s : State) (n : Serial) : Path s (reportIssue s n) := by
  unfold reportIssue
  split
  · exact .refl
  · rename_i p hp
    have h : Path s (markPostedIssued s n) := .one (.posted s _ (by simp))
    exact ((h.trans (Path.one (.reads _ ((markPostedIssued s n).reads.map (lowerHold p)) (by simp)))).trans
      (handOver_path _ _ (readyAfterPosted_ready _ _))).trans (releaseClearing_path _)

theorem afterFirstIssue_path (s : State) (q : Requester) : Path s (afterFirstIssue s q) := by
  unfold afterFirstIssue
  split
  · exact markReadIssued_path _ _
  · exact reportIssue_path _ _
  all_goals exact .refl

theorem execMediaIssue_path (s t : State) (h : execMediaIssue s = .next t) : Path s t := by
  simp only [execMediaIssue, Host.Outcome.next.injEq] at h
  subst h
  split
  · exact .refl
  · rename_i g hg
    obtain ⟨r, hr, hgr⟩ := mediaGrant_spec hg
    rw [hr]
    dsimp only
    unfold issueGranted
    split
    · exact .refl
    · rename_i t n ht
      have h1 := sendRequest_path s g r t n hr hgr ht
      exact Path.ite (fun _ => h1) (fun _ => h1.trans (afterFirstIssue_path _ _))

theorem waitRetry_path (s : State) (t : MediaTag) : Path s (waitRetry s t) := by
  refine .one (.restated s _ (fun r => ?_) (fun r => ?_) (fun r => ?_))
  all_goals
    split
    · split
      · simp_all [MediaReq.tag?]
      · rfl
    · rfl
    · rfl

theorem failedOutcome_path (s : State) (q : Requester) : Path s (failedOutcome s q) := by
  unfold failedOutcome
  split
  · exact homeReadFailed_path _ s
  · exact postedFailed_path _ s
  · exact journalLineFailed_path s
  · exact commitLineFailed_path s
  · exact enterFaulted_path s
  · exact enterFaulted_path s
  · exact checkpointFailed_path s
  · exact formatLineFailed_path s
  · exact relocLineFailed_path s
  · exact retiringFailed_path _ s
  · exact restoringFailed_path s
  · exact recoveryReadFailed_path s
  · exact recoveryReadFailed_path s
  · exact recoveryReadFailed_path s

theorem execMediaRetry_path (t : MediaTag) (s u : State) (h : execMediaRetry t s = .next u) : Path s u := by
  simp only [execMediaRetry, Host.Outcome.next.injEq] at h
  subst h
  split
  · exact .refl
  · exact Path.ite (fun _ => waitRetry_path _ _) (fun _ => (dropTag_path s t).trans (failedOutcome_path _ _))

/-! ## HARD_RESET -/

/-- The state that HARD_RESET begins from, with PFW_N as found. -/
def resetWith (pending : List Instr) (pfwAsserted : Bool) : State :=
  { State.reset with pending, drain := { Drain.reset with pfwAsserted } }

theorem execHardReset_path (b : Bool) (s t : State) (h : execHardReset b s = .next t) :
    Path (resetWith s.pending b) t := by
  simp only [execHardReset, Host.Outcome.next.injEq] at h
  subst h
  exact Path.ite (fun _ => enterHalted_path _ _) (fun _ => .refl)

/-! ## Every command -/

/-- Every command but HARD_RESET, RESPONSE_SEND and EVENT_FLAGS_CLEAR is a chain of moves. -/
theorem exec_path (c : Instr) (s t : State) (hc : ∀ b, c ≠ .hardReset b) (hr : c ≠ .responseSend)
    (hf : ∀ v, c ≠ .eventFlagsClear v)
    (h : exec c s = .next t) : Path s t := by
  have nx : ∀ {a b : State}, (Host.Outcome.next a : Host.Outcome State Fault Refusal) = .next b → a = b :=
    fun h => by cases h; rfl
  cases c with
  | hardReset b => exact absurd rfl (hc b)
  | requestArrival r => exact arrival_path r s t h
  | takeRead => exact execTakeRead_path s t h
  | takeWrite => exact execTakeWrite_path s t h
  | commit => exact execCommit_path s t h
  | discard => exact execDiscard_path s t h
  | responseSend => exact absurd rfl hr
  | idleExpiry st => exact execIdleExpiry_path st s t h
  | conflictExpiry st => exact execConflictExpiry_path st s t h
  | mediaIssue => exact execMediaIssue_path s t h
  | mediaRetry x => exact execMediaRetry_path x s t h
  | staleResponse x y => rw [← nx h]
  | mediaTimeout x => rw [← nx h]; exact Path.ite (fun _ => enterFaulted_path s) (fun _ => .refl)
  | homeReadReturn x d =>
    rw [← nx h]; refine onOutcome_path s x _ fun q f hf u => ?_
    split at hf
    · cases hf; exact homeReadReturned_path _ _ _
    · exact no_act hf
  | homeReadFail x =>
    rw [← nx h]; refine onOutcome_path s x _ fun q f hf u => ?_
    split at hf
    · cases hf; exact homeReadFailed_path _ _
    · exact no_act hf
  | postedWriteOk x =>
    rw [← nx h]; refine onOutcome_path s x _ fun q f hf u => ?_
    split at hf
    · cases hf; exact postedAcked_path _ _
    · exact no_act hf
  | postedWriteFail x =>
    rw [← nx h]; refine onOutcome_path s x _ fun q f hf u => ?_
    split at hf
    · cases hf; exact postedFailed_path _ _
    · exact no_act hf
  | journalLineOk x =>
    rw [← nx h]; refine onOutcome_path s x _ fun q f hf u => ?_
    split at hf
    · cases hf; exact journalLineAcked_path _
    · exact no_act hf
  | journalLineFail x =>
    rw [← nx h]; refine onOutcome_path s x _ fun q f hf u => ?_
    split at hf
    · cases hf; exact journalLineFailed_path _
    · exact no_act hf
  | commitLineOk x =>
    rw [← nx h]; refine onOutcome_path s x _ fun q f hf u => ?_
    split at hf
    · cases hf; exact commitLineAcked_path _
    · exact no_act hf
  | commitLineFail x =>
    rw [← nx h]; refine onOutcome_path s x _ fun q f hf u => ?_
    split at hf
    · cases hf; exact commitLineFailed_path _
    · exact no_act hf
  | homeWriteOk x =>
    rw [← nx h]; refine onOutcome_path s x _ fun q f hf u => ?_
    split at hf
    · cases hf; exact homeWriteAcked_path _ _
    · exact no_act hf
  | homeWriteFail x =>
    rw [← nx h]; refine onOutcome_path s x _ fun q f hf u => ?_
    split at hf
    · cases hf; exact enterFaulted_path _
    · exact no_act hf
  | checkpointOk x =>
    rw [← nx h]; refine onOutcome_path s x _ fun q f hf u => ?_
    split at hf
    · cases hf; exact checkpointAcked_path _
    · exact no_act hf
  | checkpointFail x =>
    rw [← nx h]; refine onOutcome_path s x _ fun q f hf u => ?_
    split at hf
    · cases hf; exact checkpointFailed_path _
    · exact no_act hf
  | formatLineOk x =>
    rw [← nx h]; refine onOutcome_path s x _ fun q f hf u => ?_
    split at hf
    · cases hf; exact formatLineAcked_path _
    · exact no_act hf
  | formatLineFail x =>
    rw [← nx h]; refine onOutcome_path s x _ fun q f hf u => ?_
    split at hf
    · cases hf; exact formatLineFailed_path _
    · exact no_act hf
  | relocLineOk x =>
    rw [← nx h]; refine onOutcome_path s x _ fun q f hf u => ?_
    split at hf
    · cases hf; exact relocLineAcked_path _
    · exact no_act hf
  | relocLineFail x =>
    rw [← nx h]; refine onOutcome_path s x _ fun q f hf u => ?_
    split at hf
    · cases hf; exact relocLineFailed_path _
    · exact no_act hf
  | retiringSbOk x =>
    rw [← nx h]; refine onOutcome_path s x _ fun q f hf u => ?_
    split at hf
    · cases hf; exact retiringAcked_path _
    · exact no_act hf
  | retiringSbFail x =>
    rw [← nx h]; refine onOutcome_path s x _ fun q f hf u => ?_
    split at hf
    · cases hf; exact retiringFailed_path _ _
    · exact no_act hf
  | restoringSbOk x =>
    rw [← nx h]; refine onOutcome_path s x _ fun q f hf u => ?_
    split at hf
    · cases hf; exact restoringAcked_path _ _
    · exact no_act hf
  | restoringSbFail x =>
    rw [← nx h]; refine onOutcome_path s x _ fun q f hf u => ?_
    split at hf
    · cases hf; exact restoringFailed_path _
    · exact no_act hf
  | superblockReadOk x d =>
    rw [← nx h]; refine onOutcome_path s x _ fun q f hf u => ?_
    split at hf
    · cases hf; exact superblockRead_path _ _ _
    · exact no_act hf
  | headerReadOk x d =>
    rw [← nx h]; refine onOutcome_path s x _ fun q f hf u => ?_
    split at hf
    · cases hf; exact headerRead_path _ _
    · exact no_act hf
  | recordReadOk x d =>
    rw [← nx h]; refine onOutcome_path s x _ fun q f hf u => ?_
    split at hf
    · cases hf; exact recordRead_path _ _ _
    · exact no_act hf
  | replayWriteOk x =>
    rw [← nx h]; refine onOutcome_path s x _ fun q f hf u => ?_
    split at hf
    · cases hf; exact replayAcked_path _
    · exact no_act hf
  | recoveryMediaFail x =>
    rw [← nx h]; refine onOutcome_path s x _ fun q f hf u => ?_
    split at hf
    · cases hf; exact recoveryReadFailed_path _
    · cases hf; exact recoveryReadFailed_path _
    · cases hf; exact recoveryReadFailed_path _
    · cases hf; exact enterFaulted_path _
    · split at hf
      · cases hf; exact checkpointFailed_path _
      · exact no_act hf
    · exact no_act hf
  | linkResetAck =>
    rw [← nx h]; exact Path.ite (fun _ => (clearLink_path s).trans (linkReady_path _)) (fun _ => .refl)
  | linkResetTimeout => rw [← nx h]; exact Path.ite (fun _ => enterFaulted_path s) (fun _ => .refl)
  | pfwAssert => rw [← nx h]; exact (samplePfw_path s true).trans (takeWarning_path _)
  | drainBudgetExpiry => rw [← nx h]; exact Path.ite (fun _ => expireBudget_path s) (fun _ => .refl)
  | start =>
    rw [← nx h]
    exact Path.ite (fun _ => startProcedure_path s _ fun x => enterRecovering_path x .start) (fun _ => reject_path s)
  | format =>
    rw [← nx h]
    exact Path.ite (fun _ => startProcedure_path s _ enterFormatting_path) (fun _ => reject_path s)
  | restart =>
    rw [← nx h]
    exact Path.ite (fun _ => startProcedure_path s _ restartPart_path) (fun _ => reject_path s)
  | resume b =>
    rw [← nx h]
    exact (samplePfw_path s b).trans
      (Path.ite (fun _ => startProcedure_path _ _ resumePart_path) (fun _ => reject_path _))
  | relocGo =>
    rw [← nx h]; split
    · exact (accept_path s).trans (enterRetiring_path _)
    all_goals exact reject_path s
  | relocCancel =>
    rw [← nx h]; split
    · exact (accept_path s).trans (endReloc_path _ _)
    · exact (accept_path s).trans (endReloc_path _ _)
    all_goals exact reject_path s
  | clearCounters => rw [← nx h]; exact (accept_path s).trans (zeroCounters_path _)
  | unknownCommand v => rw [← nx h]; exact Path.ite (fun _ => .refl) (fun _ => reject_path s)
  | relocRequest k b => exact execRelocRequest_path k b s t h
  | eventFlagsClear v => exact absurd rfl (hf v)
  | eventEnableWrite v => rw [← nx h]; exact writeEnables_path s _
  | idleTimeoutWrite v => exact execIdleTimeoutWrite_path v s t h
  | read48Low r => rw [← nx h]; exact (latch_path s r _).trans (Path.one (.wires _ _))
  | registerWrite i v => rw [← nx h]; exact Path.ite (fun _ => .refl) (fun _ => writeRegister_path s i v)

/-! ## Every step -/

theorem Path.keeps {P : State → Prop} (hm : ∀ s t, Move s t → P s → P t) {s t : State} (h : Path s t) (hs : P s) : P t := by
  induction h with
  | refl => exact hs
  | tail _ hb ih => exact hm _ _ hb ih

/-- A law that every move keeps, and that reset, the queue, the clock, the sending of a response and the clearing of flags keep, is kept by every
step. -/
theorem step_keeps (P : State → Prop) (hm : ∀ s t, Move s t → P s → P t) (hr : ∀ cs b, P (resetWith cs b))
    (hq : ∀ s cs, P s → P (s.withPending cs)) (ht : ∀ s, P s → P (tick s)) (hs : ∀ s, P s → P (sendHead s))
    (hf : ∀ s v, P s → P (clearFlags s v))
    (s t : State) (h : step s = .next t) (h1 : P s) : P t := by
  unfold step at h
  split at h
  · injection h with h
    rw [← h]
    exact ht s h1
  · rename_i c rest hc
    by_cases h2 : ∃ b, c = .hardReset b
    · obtain ⟨b, rfl⟩ := h2
      exact (execHardReset_path b _ t h).keeps hm (hr _ b)
    · by_cases h3 : c = .responseSend
      · subst h3
        exact (execResponseSend_path _ _ h).keeps hm (hs _ (hq _ _ h1))
      · by_cases h4 : ∃ v, c = .eventFlagsClear v
        · obtain ⟨v, rfl⟩ := h4
          simp only [exec, execEventFlagsClear, Host.Outcome.next.injEq] at h
          subst h
          exact hf _ _ (hq _ _ h1)
        · exact (exec_path c _ _ (fun b hb => h2 ⟨b, hb⟩) h3 (fun v hv => h4 ⟨v, hv⟩) h).keeps hm (hq _ _ h1)

/-- What the sending of a response leaves alone. -/
theorem sendHead_fields (s : State) :
    (sendHead s).pending = s.pending ∧ (sendHead s).now = s.now ∧ (sendHead s).groups = s.groups
      ∧ (sendHead s).staging = s.staging ∧ (sendHead s).claims = s.claims ∧ (sendHead s).posted = s.posted
      ∧ (sendHead s).reads = s.reads ∧ (sendHead s).media = s.media ∧ (sendHead s).regs = s.regs
      ∧ (sendHead s).modes = s.modes ∧ (sendHead s).fabric.ingress = s.fabric.ingress
      ∧ (sendHead s).fabric.credits = s.fabric.credits := by
  unfold sendHead
  split
  · exact ⟨rfl, rfl, rfl, rfl, rfl, rfl, rfl, rfl, rfl, rfl, rfl, rfl⟩
  · exact ⟨rfl, rfl, rfl, rfl, rfl, rfl, rfl, rfl, rfl, rfl, rfl, rfl⟩

end Sys2Proof.Machine
end

