-- ==== Sys2Proof/Laws/Events.lean ====
section
/-! SUPPORT. How an event runs when its preconditions are known: the take of a grant in READY, the outcome of the request that a
tag carries, and the looks that find nothing to do. -/

namespace Sys2Proof.Machine

/-! ## Takes -/

/-- A grant of this kind in READY is acted on. -/
theorem takeOf_ready {s : State} {g : Grant} (k : RequestKind) (act : State → Grant → State)
    (hr : s.modes.mode = .ready) (hg : takeGrant s = some g) (hk : g.req.kind = k) :
    takeOf k act s = act (takeHead s g.stream) g := by
  simp [takeOf, hg, hk, hr, modeAnswer]

/-- A stream that is granted in READY has no write held. -/
theorem takeGrant_notHeld {s : State} {g : Grant} (hr : s.modes.mode = .ready) (hg : takeGrant s = some g) :
    inWaitList s g.stream = false ∧ inSlotWait s g.stream = false := by
  obtain ⟨-, h, -⟩ := takeGrant_spec hg
  simp only [blocked, hr, beq_self_eq_true, Bool.true_and, Bool.or_eq_false_iff] at h
  exact h.1

/-- A head that is taken and answered in one event. -/
theorem takeHead_answered (s : State) (st : Stream) (r : Response) :
    answerTaken (takeHead s st) r =
      { s with fabric := fabricAnswered s st r, wires := creditSignalled s st } := rfl

/-- A head that is taken. -/
theorem takeHead_eq (s : State) (st : Stream) :
    takeHead s st = { s with fabric := fabricTaken s st, wires := creditSignalled s st } := rfl

/-- A stream that is not in the slot wait leaves nothing behind. -/
theorem leaveSlotWait_absent {s : State} {st : Stream} (h : inSlotWait s st = false) : leaveSlotWait s st = s := by
  have h1 : (s.staging.slotWait.filter fun h => h.stream != st) = s.staging.slotWait := by
    rw [List.filter_eq_self]
    intro x hx
    simp only [inSlotWait, List.any_eq_false, beq_iff_eq] at h
    simpa using h x hx
  unfold leaveSlotWait
  rw [h1]

/-! ## Outcomes -/

/-- The outcome of a request that a tag carries: its tag is freed and its requester acts. -/
theorem onOutcome_carries {s : State} {t : MediaTag} {q : Requester} {f : State → State}
    {act : Requester → Option (State → State)} (h : Carries s t q) (hf : act q = some f) :
    onOutcome s t act = f (dropTag s t) := by
  obtain ⟨r, hr, hq⟩ := h
  subst hq
  simp [onOutcome, hr, hf]

@[simp] theorem dropTag_requests (s : State) (t : MediaTag) : (dropTag s t).media.requests = requestsWithout s t := rfl

/-! ## Looks that find nothing -/

theorem drainTest_outside {s : State} (h : s.modes.mode ≠ .draining) : drainTest s = s := by simp [drainTest, h]

theorem relocTrigger_outside {b s : State} (h : s.reloc.state ≠ .pending) : relocTrigger b s = s := by
  simp [relocTrigger, pendingEmpty, h]

theorem writerLook_busy {s : State} (h : s.journal.writer ≠ .idle) : writerLook s = s := by
  simp [writerLook, writerLooks, h]

theorem writerLook_none {s : State} (h : ∀ e ∈ s.groups.queue, e.state ≠ .sealed) : writerLook s = s := by
  have : oldestSealed s = none := by
    simp only [oldestSealed, List.find?_eq_none, beq_iff_eq]
    exact h
  simp [writerLook, writerLooks, this]

theorem tryAnswer_none {s : State} {n : Serial} (h : ∀ e ∈ s.groups.queue, e.answerable = false) : tryAnswer s n = s := by
  unfold tryAnswer
  split
  · rfl
  · rename_i e he
    have := h e (List.mem_of_find?_eq_some he)
    simp [this]

theorem answerOwed_none {s : State} (h : ∀ e ∈ s.groups.queue, e.answerable = false) : answerOwed s = s := by
  unfold answerOwed
  generalize s.groups.queue.map Entry.serial = ns
  induction ns with
  | nil => rfl
  | cons n ns ih => rw [List.foldl_cons, tryAnswer_none h]; exact ih

/-- Slots of no number are left as they are. -/
theorem endVersions_nil (w : Work) (x : SlotState) : endVersions w [] x = w := by
  have h1 : w.s.staging.slots.filterMap (endSlot [] x) = w.s.staging.slots := by
    have : endSlot [] x = some := by funext v; simp [endSlot]
    rw [this, List.filterMap_some]
  have h2 : (w.s.staging.index.filter fun e => e.slot ∉ ([] : List Nat)) = w.s.staging.index := by simp
  simp only [endVersions, h1, h2, Nat.lt_irrefl, decide_false, Bool.or_false]

theorem abortVersions_nil (w : Work) : abortVersions w [] = w := by
  simp [abortVersions, endVersions_nil, linesOf, unclaimed]

theorem stagingAborted_nil (g : Staging) : stagingAborted g [] = g := by simp [stagingAborted]

/-- The state in which versions have been aborted. -/
theorem abortVersions_state (w : Work) (ns : List Nat) :
    (abortVersions w ns).s = { w.s with staging := stagingAborted w.s.staging ns } := rfl

end Sys2Proof.Machine
end

