-- ==== Sys2Proof/Tests/Slice0.lean ====
section
/-! SUPPORT. Tests: ill-formed commands, frames, one small test of each command's own effect, and for each statement with
hypotheses a state and operands that meet all of them. -/

namespace Sys2Proof.Tests

set_option Elab.async false

open Sys2Proof Sys2Proof.Machine

/-! ## Small states -/

/-- What holds after a command. -/
def after (c : Instr) (s : State) (p : State → Bool) : Bool :=
  match exec c s with
  | .next t => p t
  | .fault _ => false
  | .refused _ => false

/-- The journal region of the tests: 4096 lines from 01_0000_0000h. -/
def region : Region := { base := 0x0100000000#40, k := 12 }

/-- The part in a mode, with a journal region, a GUARDED window at 01_0000h, a READ_ONLY window at 02_0000h that admits stream 0
alone, and default kind PLAIN. -/
def inMode (m : Mode) : State :=
  { State.reset with
    modes := { State.reset.modes with mode := m }
    journal := { State.reset.journal with region := region }
    regs := { State.reset.regs with jnlBase := 0x100000#28, jnlK := 12 }
    decoder :=
      { table :=
          (State.reset.decoder.table.set 0 { enabled := true, base := 0x10, limit := 0x1F, kind := .guarded, mask := 0xFFFF }).set
            1 { enabled := true, base := 0x20, limit := 0x2F, kind := .readOnly, mask := 1 }
        defaultKind := .plain, guardActive := some region, guardTarget := none } }

/-- The part in READY. -/
def ready : State := inMode .ready

/-- A request at a stream's head, with its credit spent. -/
def headed (s : State) (r : Request) : State :=
  { s with fabric :=
    { s.fabric with
      ingress := s.fabric.ingress.write r.stream [{ req := r, arrival := 1, answer := none }]
      credits := s.fabric.credits.write r.stream 7 } }

/-- A READ of eight bytes by stream 0. -/
def readAt (a : Addr) : Request := { kind := .read, stream := 0, tag := 1, addr := a, length := 8, data := [] }

/-- A WRITE of two bytes by stream 0. -/
def writeAt (a : Addr) : Request :=
  { kind := .write, stream := 0, tag := 2, addr := a, length := 2, data := [0xAA, 0xBB] }

/-- A COMMIT or a DISCARD by stream 0. -/
def ending (k : RequestKind) : Request := { kind := k, stream := 0, tag := 3, addr := 0, length := 0, data := [] }

/-- The grant of a request. -/
def granted (r : Request) : Grant := { stream := r.stream, req := r }

/-- A version of line 01_0000h that holds bytes 0 and 1. -/
def version (n : Nat) (state : SlotState) (owner : Option Owner) (pins : Nat) : Slot :=
  { num := n, state, line := 0x10000#40, mask := 3, data := zeroLine, owner, pins }

/-- One version in the buffer. -/
def withVersion (s : State) (v : Slot) : State :=
  { s with staging := { s.staging with slots := [v], index := [{ line := v.line, slot := v.num }] } }

/-- A group record of stream 0. -/
def withRecord (s : State) (r : GroupRecord) : State := setRecord s 0 r

/-- Stream 0's group is open with line 01_0000h in slot 0. -/
def opened (s : State) (pins : Nat) : State :=
  withRecord (withVersion s (version 0 .opened (some (.record 0)) pins)) (.opened [0] none)

/-- A commit-queue entry of stream 0 with serial 5, sequence 1 and slot 0. -/
def entry (state : QueueState) : Entry :=
  { stream := 0, state, slots := [0], seq := some 1, extent := some { start := 0, length := 4 }, tag := 3, serial := 5,
    barrier := 0, lossMark := false, answered := false, homeDone := false }

/-- The commit queue. -/
def queued (s : State) (es : List Entry) : State := { s with groups := { s.groups with queue := es } }

/-- A request under tag 0, ISSUED at time 0. -/
def issuedFor (q : Requester) : MediaReq :=
  { requester := q, line := 0x10000#40, write := none, state := .issued 0 0 200 }

/-- The port holds one request, ISSUED under tag 0. -/
def carrying (s : State) (q : Requester) : State := { s with media := { s.media with requests := [issuedFor q] } }

/-- The port holds one more request, ISSUED under tag 1. -/
def alsoCarrying (s : State) (q : Requester) : State :=
  handOver s [{ issuedFor q with state := .issued 1 0 200 }]

/-- The media port's requests. -/
def porting (s : State) (rs : List MediaReq) : State := { s with media := { s.media with requests := rs } }

/-- The journal writer's state. -/
def writing (s : State) (w : Writer) : State := setWriter s w

/-- A posted write of stream 0 to line 400h, taken as number 4. -/
def postedOne (issued : Bool) : PostedRecord :=
  { stream := 0, line := 0x400#40, mask := 3, data := zeroLine, serial := 4, issued }

/-- Posted writes. -/
def posting (s : State) (ps : List PostedRecord) : State := { s with posted := { s.posted with records := ps } }

/-- A tracked plain read of line 400h, taken as number 6. -/
def trackedOne (hold : Nat) : TrackerEntry :=
  { stream := 0, tag := 1, serial := 6, line := 0x400#40, offset := 0, length := 8, kind := .plain, pinned := [], hold,
    home := .waiting }

/-- Tracked reads. -/
def tracking (s : State) (es : List TrackerEntry) : State := { s with reads := es }

/-- A held write of stream 0 to line 01_0000h. -/
def heldOne : HeldWrite :=
  { stream := 0, line := 0x10000#40, offset := 0, length := 2, data := [0xAA, 0xBB], tag := 2 }

/-- A wait list of one write of stream 0, with its deadline at 1000. -/
def waiting (s : State) : State :=
  { s with claims := { waitList := [{ write := heldOne, arrival := 1, deadline := 1000 }], arrivalCount := 1 } }

/-- Time has reached a moment. -/
def timed (s : State) (n : Nat) : State := { s with now := n }

/-- A recovery in a phase. -/
def recovering (p : Phase) : State :=
  { inMode .recovering with
    recovery := some (Recovery.entry p .start), staging := { State.reset.staging with scratch := some [] } }

/-- A relocation in a state, towards the region at 02_0000_0000h. -/
def relocating (s : State) (x : RelocState) : State :=
  { s with reloc := { state := x, result := .none, target := { base := 0x0200000000#40, k := 12 }, hold := true } }

/-- A checkpoint in flight. -/
def flying (s : State) : State :=
  { s with ckpt := { s.ckpt with inFlight := some { sb := currentSuperblock s, span := 0 } } }

/-- A drain in progress. -/
def draining (s : State) (o : DrainOrigin) : State :=
  { s with drain := { s.drain with status := .active, origin := some o, deadline := some 2000 } }

/-- A tag carries a request: by computation. -/
theorem carries_of {s : State} {t : MediaTag} {q : Requester} (h : (issuedAt s t).map MediaReq.requester = some q) :
    Carries s t q := by
  unfold Carries
  cases hr : issuedAt s t with
  | none => simp [hr] at h
  | some r => exact ⟨r, rfl, by simpa [hr] using h⟩

/-- The tag 0 of `carrying` carries its request. -/
theorem carrying_carries (s : State) (q : Requester) : Carries (carrying s q) 0 q := ⟨issuedFor q, rfl, rfl⟩

/-! ## Well-formed commands -/

theorem test_wellFormed_write_needs_its_bytes :
    (Instr.requestArrival { writeAt 0 with data := [0xAA] }).wellFormed = false := by decide
theorem test_wellFormed_read_carries_no_data :
    (Instr.requestArrival { readAt 0 with data := [0xAA] }).wellFormed = false := by decide
theorem test_wellFormed_commit_carries_no_data :
    (Instr.requestArrival { ending .commit with data := [0xAA] }).wellFormed = false := by decide
theorem test_wellFormed_start_is_no_unknown_command : (Instr.unknownCommand 1).wellFormed = false := by decide
theorem test_wellFormed_clear_is_no_unknown_command : (Instr.unknownCommand 7).wellFormed = false := by decide
theorem test_wellFormed_command_write_has_its_own_rows : (Instr.registerWrite 0x02 9).wellFormed = false := by decide
theorem test_wellFormed_flags_write_has_its_own_row : (Instr.registerWrite 0x03 1).wellFormed = false := by decide
theorem test_wellFormed_enable_write_has_its_own_row : (Instr.registerWrite 0x04 1).wellFormed = false := by decide
theorem test_wellFormed_idle_write_has_its_own_row : (Instr.registerWrite 0x12 1).wellFormed = false := by decide
theorem test_wellFormed_request_has_its_own_row : (Instr.registerWrite 0x08 0x200).wellFormed = false := by decide
theorem test_wellFormed_accepts :
    (Instr.requestArrival (writeAt 0)).wellFormed = true ∧ (Instr.unknownCommand 0).wellFormed = true
      ∧ (Instr.unknownCommand 8).wellFormed = true ∧ (Instr.registerWrite 0x08 0x10C).wellFormed = true := by decide

/-! ## Frames (R164) -/

theorem test_frame_of_start : frameCommand [0xA3, 0x02, 0, 0, 0, 1] false = some .start := by decide
theorem test_frame_of_resume_samples_the_pin : frameCommand [0xA3, 0x02, 0, 0, 0, 4] true = some (.resume true) := by decide
theorem test_frame_of_relocation_request :
    frameCommand [0xA3, 0x08, 0, 0, 0x03, 0x0C] false = some (.relocRequest 12 true) := by decide
theorem test_frame_of_low_word_read : frameCommand [0x5C, 0x45, 0, 0, 0, 0] false = some (.read48Low .durable) := by decide
theorem test_frame_of_unknown_opcode : frameCommand [0x00, 0x02, 0, 0, 0, 1] false = none := by decide
theorem test_frame_cut_short : frameCommand [0xA3, 0x02, 0, 0, 0] false = none := by decide
theorem test_frame_answer_of_id :
    frameAnswer State.reset [0x5C, 0x00, 0, 0, 0, 0, 0xFF] = [0, 0, 0x4B, 0x58, 0x04, 0x16, 0]
      ∧ frameAnswer State.reset [0xA3, 0x00, 1, 2, 3, 4] = [0, 0, 0, 0, 0, 0] := by decide +kernel
theorem test_frame_of_start_runs : step ((inMode .idle).withFrame [0xA3, 0x02, 0, 0, 0, 1] false) = exec .start (inMode .idle) :=
  rfl
theorem test_frame_of_a_read_shifts_the_register_out :
    (ready.withFrame [0x5C, 0x00, 0, 0, 0, 0] false).wires.misoOut = [0x4B580416] := by decide +kernel
theorem test_register_values_after_reset :
    readRegister State.reset 0x10 = 64 ∧ readRegister State.reset 0x11 = 1000 ∧ readRegister State.reset 0x47 = 1
      ∧ readRegister State.reset 0x37 = 0 ∧ readRegister (inMode .ready) 0x01 = 3
      ∧ readRegister (inMode .ready) 0x22 = 0x8001FFFF := by decide +kernel

/-! ## One step of each command -/

theorem test_step_takes_the_front : step { ready with pending := [.start, .format] }
    = .next { setCommand ready .rejected with pending := [.format] } := rfl
theorem test_step_on_an_empty_queue : step ready = .next { ready with now := 1 } := rfl
theorem test_decode_finds_no_command : State.withFetchWord ready 8 1 = ready := by decide +kernel

theorem test_hardReset : after (.hardReset true) ready (fun t => t.modes.mode == .halted && t.drain.doneOut) := by
  decide +kernel
theorem test_requestArrival : after (.requestArrival (readAt 0)) ready (fun t =>
    t.fabric.credits.read 0 == 7 && (ingressOf t 0).length == 1) := by decide +kernel
theorem test_takeRead_plain : after .takeRead (headed ready (readAt 0x408)) (fun t =>
    t.reads.length == 1 && t.media.requests.map MediaReq.line == [0x400#40] && t.fabric.credits.read 0 == 8) := by
  decide +kernel
theorem test_takeRead_guarded_covered :
    after .takeRead (headed (opened ready 0) { readAt 0x10000 with length := 2 }) (fun t =>
      t.fabric.egress == [readAnswer 0 1 [0, 0]]) := by decide +kernel
theorem test_takeWrite_guarded_opens_a_group : after .takeWrite (headed ready (writeAt 0x10004)) (fun t =>
    recordOf t 0 == .opened [0] none && t.fabric.egress == [plainAnswer 0 2 .staged]
      && (slotAt t 0).any fun v => v.mask == 0x30 && v.data[4] == 0xAA && v.data[5] == 0xBB) := by decide +kernel
theorem test_takeWrite_in_the_guard_is_denied : after .takeWrite (headed ready (writeAt 0x0100000000)) (fun t =>
    t.fabric.egress == [plainAnswer 0 2 .denied]) := by decide +kernel
theorem test_commit_begins_the_record : after .commit (headed (opened ready 0) (ending .commit)) (fun t =>
    t.journal.writer == .writing false && t.media.requests.length == 3 && recordOf t 0 == .absent) := by decide +kernel
theorem test_commit_empty_is_committed : after .commit (headed ready (ending .commit)) (fun t =>
    t.fabric.egress == [committedAnswer 0 3 false] && t.groups.queue.isEmpty) := by decide +kernel
theorem test_discard : after .discard (headed (opened ready 0) (ending .discard)) (fun t =>
    recordOf t 0 == .absent && t.staging == Staging.reset && t.fabric.egress == [plainAnswer 0 3 .ok]) := by
  decide +kernel
theorem test_responseSend : after .responseSend (enterEgress ready (plainAnswer 0 1 .ok)) (fun t =>
    t.fabric.egress.isEmpty && t.wires.fabricOut.getLast? == some (.response (plainAnswer 0 1 .ok))) := by
  decide +kernel
theorem test_idleExpiry :
    after (.idleExpiry 0) (timed (withRecord (opened ready 0) (.opened [0] (some 3))) 3000) (fun t =>
      recordOf t 0 == .doomed .idle && t.staging.slots.isEmpty && t.regs.abortedCount == 1) := by decide +kernel
theorem test_conflictExpiry : after (.conflictExpiry 0) (timed (waiting ready) 1000) (fun t =>
    recordOf t 0 == .doomed .conflict && t.fabric.egress == [abortedAnswer 0 2 .conflict]
      && t.claims.waitList.isEmpty) := by decide +kernel
theorem test_mediaIssue : after .mediaIssue (handOver (tracking ready [trackedOne 0]) [homeReadRequest (trackedOne 0)])
    (fun t => t.wires.mediaOut == [.readLine 0 0x400] && t.reads.all fun e => e.home == .issued) := by decide +kernel
theorem test_mediaRetry : after (.mediaRetry 0) (carrying ready .relocLine) (fun t =>
    t.media.requests.map MediaReq.state == [.retryWait 0 1]) := by decide +kernel
theorem test_staleResponse : after (.staleResponse 0 .ok) ready (fun t => t == ready) := by decide +kernel
theorem test_mediaTimeout : after (.mediaTimeout 0) (timed (carrying ready .relocLine) 200) (fun t =>
    t.modes.mode == .faulted && t.media.requests.isEmpty && t.media.linkOwed) := by decide +kernel
theorem test_homeReadReturn :
    after (.homeReadReturn 0 zeroLine) (tracking (carrying ready (.homeRead 6)) [trackedOne 0]) (fun t =>
      t.fabric.egress == [readAnswer 0 1 (List.replicate 8 0)] && t.reads.isEmpty && t.media.requests.isEmpty) := by
  decide +kernel
theorem test_homeReadFail : after (.homeReadFail 0) (tracking (carrying ready (.homeRead 6)) [trackedOne 0]) (fun t =>
    t.fabric.egress == [plainAnswer 0 1 .mediaError] && t.reads.isEmpty) := by decide +kernel
theorem test_postedWriteOk : after (.postedWriteOk 0)
    (queued (posting (carrying ready (.posted 4)) [postedOne true]) [{ entry .sealed with barrier := 1 }]) (fun t =>
      t.posted.records.isEmpty && t.groups.queue.map Entry.barrier == [0]) := by decide +kernel
theorem test_postedWriteFail :
    after (.postedWriteFail 0) (posting (carrying ready (.posted 4)) [postedOne true]) (fun t =>
      t.posted.records.isEmpty && t.regs.lostCount == 1 && lossMark t 0 && flagSet t .postedLost) := by decide +kernel
theorem test_journalLineOk : after (.journalLineOk 0)
    (writing (queued (carrying ready (.journalLine 0)) [entry .journaling]) (.writing false)) (fun t =>
      t.media.requests.map MediaReq.requester == [.commitLine]) := by decide +kernel
theorem test_journalLineFail : after (.journalLineFail 0)
    (writing (queued (carrying ready (.journalLine 0)) [entry .journaling]) (.writing false)) (fun t =>
      t.fabric.egress == [abortedAnswer 0 3 .journalError] && t.journal.writer == .idle && flagSet t .journalError) := by
  decide +kernel
theorem test_commitLineOk : after (.commitLineOk 0)
    (writing (queued (carrying ready .commitLine) [entry .journaling]) (.writing false)) (fun t =>
      t.journal.durableThrough == 1 && t.journal.used == 4 && t.fabric.egress == [committedAnswer 0 3 false]
        && t.groups.queue.map Entry.state == [.applying]) := by decide +kernel
theorem test_commitLineFail : after (.commitLineFail 0)
    (writing (queued (carrying ready .commitLine) [entry .journaling]) (.writing false)) (fun t =>
      t.fabric.egress == [plainAnswer 0 3 .indoubt] && t.modes.mode == .faulted) := by decide +kernel

/-- The apply engine applies the entry with serial 5, slot 0 outstanding. -/
def applying (s : State) (answered : Bool) : State :=
  { queued (withVersion s (version 0 .applying (some (.entry 0 5)) 0)) [{ entry .applying with answered }] with
    apply := { current := some 5, outstanding := [0], withdrawn := false } }

theorem test_homeWriteOk : after (.homeWriteOk 0) (applying (carrying ready (.homeWrite 0)) true) (fun t =>
    t.journal.appliedThrough == 1 && t.journal.retiredTail == 4 && t.groups.queue.isEmpty && t.staging.slots.isEmpty
      && t.apply == Apply.reset) := by decide +kernel
theorem test_homeWriteFail : after (.homeWriteFail 0) (applying (carrying ready (.homeWrite 0)) true) (fun t =>
    t.modes.mode == .faulted && t.groups.queue.isEmpty) := by decide +kernel
theorem test_checkpointOk : after (.checkpointOk 0) (flying (carrying ready .checkpoint)) (fun t =>
    t.ckpt.counter == 1 && t.ckpt.nextSlot == .b && t.ckpt.inFlight.isNone) := by decide +kernel
theorem test_checkpointFail : after (.checkpointFail 0) (flying (carrying ready .checkpoint)) (fun t =>
    t.ckpt.errors == 1 && t.ckpt.counter == 0 && flagSet t .checkpointError) := by decide +kernel

/-- A format in a stage. -/
def formatting (stage : ClearStage) (failed : Bool) : State :=
  { inMode .formatting with format := some { stage, failed } }

theorem test_formatLineOk : after (.formatLineOk 0) (carrying (formatting .superblocks false) .formatLine) (fun t =>
    t.modes.mode == .ready && t.journal.nextSeq == 1 && t.ckpt.counter == 2) := by decide +kernel
theorem test_formatLineFail : after (.formatLineFail 0) (carrying (formatting .clearing false) .formatLine) (fun t =>
    t.modes.mode == .idle && t.modes.startStatus == .mediaFault) := by decide +kernel
theorem test_relocLineOk :
    after (.relocLineOk 0) (relocating (carrying ready .relocLine) (.formattingNew .superblocks false)) (fun t =>
      t.reloc.state == .held && flagSet t .relocReady) := by decide +kernel
theorem test_relocLineFail :
    after (.relocLineFail 0) (relocating (carrying ready .relocLine) (.formattingNew .clearing false)) (fun t =>
      t.reloc.state == .none && t.reloc.result == .failed && flagSet t .relocDone) := by decide +kernel
theorem test_retiringSbOk :
    after (.retiringSbOk 0) (relocating (carrying ready (.retiringSb .b)) (.retiringOld .second)) (fun t =>
      t.reloc.result == .done && t.journal.region.base == 0x0200000000 && t.regs.jnlBase == 0x200000) := by
  decide +kernel
theorem test_retiringSbFail :
    after (.retiringSbFail 0) (relocating (carrying ready (.retiringSb .a)) (.retiringOld .first)) (fun t =>
      t.reloc.state == .retiringOld .restoring && t.media.requests.map MediaReq.requester == [.restoringSb .a]) := by
  decide +kernel
theorem test_restoringSbOk :
    after (.restoringSbOk 0) (relocating (carrying ready (.restoringSb .a)) (.retiringOld .restoring)) (fun t =>
      t.reloc.result == .failed && t.ckpt.counter == 3 && t.ckpt.nextSlot == .b && t.modes.mode == .ready) := by
  decide +kernel
theorem test_restoringSbFail :
    after (.restoringSbFail 0) (relocating (carrying ready (.restoringSb .a)) (.retiringOld .restoring)) (fun t =>
      t.reloc.result == .failed && t.modes.mode == .faulted) := by decide +kernel

/-- A superblock of the tests' region. -/
def superblock (counter : BitVec 64) : Superblock :=
  { base := region.base, counter, applied := 7, nextSeq := 8, relocBase := 0, tail := 12, k := 12, relocK := 0,
    retired := false }

theorem test_superblockReadOk : after (.superblockReadOk 0 (superblockLine (superblock 4)))
    (carrying (recovering (.superblocks (some (superblockLine (superblock 3))) none)) (.superblockRead .b)) (fun t =>
      t.ckpt.counter == 4 && t.ckpt.nextSlot == .a && t.recovery.any fun r => r.scanOffset == 12 && r.expected == 8) := by
  decide +kernel
theorem test_headerReadOk :
    after (.headerReadOk 0 (headerLine 0 1 0)) (carrying (recovering .header) .headerRead) (fun t =>
      t.media.requests.length == 3 && t.recovery.any fun r => r.phase == .record && r.length == 4) := by decide +kernel

/-- A recovery that has read the first line of a record cut to two lines, so that its CRC is short to compute. -/
def reading : State :=
  { recovering .record with
    recovery := some { Recovery.entry .record .start with lines := 1, length := 2 }
    staging := { State.reset.staging with scratch := some [(0, headerLine 0 1 0)] } }

/-- The commit line of that record. -/
def closing : Line := commitLine 1 0 (crcLines [headerLine 0 1 0])

theorem test_recordReadOk_whole : after (.recordReadOk 0 closing) (carrying reading (.recordRead 1)) (fun t =>
    t.media.requests.map MediaReq.requester == [.replayWrite 0] && t.recovery.any fun r => r.phase == .replay) := by
  decide +kernel
theorem test_recordReadOk_torn : after (.recordReadOk 0 zeroLine) (carrying reading (.recordRead 1)) (fun t =>
    flagSet t .tornGroup && t.recovery.any fun r => r.phase == .final) := by decide +kernel

/-- A recovery that replays a record of four lines. -/
def replaying : State :=
  { recovering .replay with recovery := some { Recovery.entry .replay .start with lines := 1, length := 4, expected := 9 } }

theorem test_replayWriteOk : after (.replayWriteOk 0) (carrying replaying (.replayWrite 0)) (fun t =>
    t.journal.appliedThrough == 9 && t.journal.head == 4 && t.recovery.any fun r => r.phase == .header) := by
  decide +kernel
theorem test_recoveryMediaFail : after (.recoveryMediaFail 0) (carrying (recovering .header) .headerRead) (fun t =>
    t.modes.mode == .faulted && t.modes.startStatus == .mediaFault && flagSet t .recoveryDone) := by decide +kernel

/-- A recovery that waits for a link reset, with its deadline at 200. -/
def resetting : State :=
  { recovering .linkReset with media := { State.reset.media with linkOwed := true, linkDeadline := some 200 } }

theorem test_linkResetAck : after .linkResetAck resetting (fun t =>
    t.media.requests.length == 2 && !t.media.linkOwed && t.media.linkDeadline.isNone) := by decide +kernel
theorem test_linkResetTimeout : after .linkResetTimeout (timed resetting 200) (fun t => t.modes.mode == .faulted) := by
  decide +kernel
theorem test_pfwAssert : after .pfwAssert (opened ready 0) (fun t =>
    t.modes.mode == .draining && recordOf t 0 == .absent && t.drain.deadline == some 2000 && t.ckpt.inFlight.isSome) := by
  decide +kernel
theorem test_drainBudgetExpiry :
    after .drainBudgetExpiry (timed (draining (inMode .draining) .ready) 2000) (fun t =>
      t.modes.mode == .halted && t.drain.status == .incomplete) := by decide +kernel
theorem test_start : after .start (inMode .idle) (fun t =>
    t.modes.mode == .recovering && t.media.requests.map MediaReq.line == [0x0100000000, 0x0100000040]) := by
  decide +kernel
theorem test_format : after .format (inMode .idle) (fun t =>
    t.modes.mode == .formatting && t.modes.lastCommand == .accepted && t.format.isSome) := by decide +kernel
theorem test_restart : after .restart (queued (opened ready 0) [entry .sealed]) (fun t =>
    t.modes.mode == .recovering && t.fabric.egress == [abortedAnswer 0 3 .restart] && t.regs.abortedCount == 2
      && t.wires.mediaOut == [.linkReset]) := by decide +kernel
theorem test_resume : after (.resume false) (inMode .halted) (fun t =>
    t.modes.mode == .recovering && t.media.linkDeadline == some 200) := by decide +kernel
theorem test_relocGo : after .relocGo (relocating ready .held) (fun t =>
    t.reloc.state == .retiringOld .first && t.media.requests.length == 1) := by decide +kernel
theorem test_relocCancel : after .relocCancel (relocating ready .pending) (fun t =>
    t.reloc.result == .cancelled && flagSet t .relocDone) := by decide +kernel
theorem test_clearCounters : after .clearCounters (countLost ready 0) (fun t => t.regs.lostCount == 0) := by
  decide +kernel
theorem test_unknownCommand : after (.unknownCommand 8) ready (fun t => t.modes.lastCommand == .rejected) := by
  decide +kernel

/-- The relocation base register names 02_0000_0000h. -/
def aimed (s : State) : State := { s with regs := { s.regs with relocBase := 0x200000#28 } }

theorem test_relocRequest : after (.relocRequest 12 false) (aimed ready) (fun t =>
    t.reloc.state == .pending && t.ckpt.inFlight.isSome && t.decoder.guardTarget.isSome) := by decide +kernel
theorem test_eventFlagsClear : after (.eventFlagsClear 1) (countAborted ready) (fun t => t.regs.flags == 0) := by
  decide +kernel
theorem test_eventEnableWrite : after (.eventEnableWrite 1) (countAborted ready) (fun t => alertAsserted t) := by
  decide +kernel
theorem test_idleTimeoutWrite : after (.idleTimeoutWrite 0) (withRecord ready (.opened [] (some 3))) (fun t =>
    recordOf t 0 == .opened [] none) := by decide +kernel
theorem test_read48Low : after (.read48Low .nextSeq) ready (fun t =>
    t.regs.latchNextSeq == 1 && t.wires.misoOut == [1]) := by decide +kernel
theorem test_registerWrite : after (.registerWrite 0x25 0xC0020001) ready (fun t =>
    t.decoder.table[1].kind == .readOnly && t.decoder.table[1].enabled && readRegister t 0x25 == 0x80020001) := by
  decide +kernel
theorem test_registerWrite_out_of_range : after (.registerWrite 0x10 257) ready (fun t => t == ready) := by
  decide +kernel

/-! ## Witnesses: states that meet the hypotheses of the statements -/

theorem witness_EveryCommandAnswersAndKeepsTheQueue :
    (∃ t, exec .start ready = .next t) ∧ ∀ b, Instr.start ≠ .hardReset b := ⟨⟨_, rfl⟩, by simp⟩

theorem witness_EgressQueueIsFifo :
    (∀ b, Instr.start ≠ .hardReset b) ∧ Instr.start ≠ .responseSend
      ∧ ∃ t, exec .start (enterEgress ready (plainAnswer 0 1 .ok)) = .next t := ⟨by simp, by simp, _, rfl⟩

theorem witness_StepRunsFrontCommandOrPassesTime : ready.pending = [] := rfl

/-- A queue of `n` requests of stream 0. -/
def crowded (s : State) (n : Nat) : State :=
  { s with fabric :=
    { s.fabric with
      ingress := s.fabric.ingress.write 0 (List.replicate n { req := readAt 0, arrival := 1, answer := none })
      credits := s.fabric.credits.write 0 (8 - n) } }

/-- As many requests taken and unanswered as the egress queue has room for. -/
def owing (s : State) (n : Nat) : State := { s with fabric := { s.fabric with takenUnanswered := n } }

theorem witness_ArrivalQueuesOrDiscardsOrAnswers :
    8 ≤ (ingressOf (crowded ready 8) 0).length
      ∧ ((ingressOf (crowded ready 7) 0).length < 8 ∧ ready.modes.mode ≠ .draining ∧ ready.modes.mode ≠ .halted)
      ∧ ((ingressOf (owing (crowded (inMode .halted) 7) 128) 0).length < 8
        ∧ hasRoom (owing (crowded (inMode .halted) 7) 128) = false)
      ∧ (ingressOf (owing (inMode .halted) 127) 0 = [] ∧ 0 < (inMode .halted).fabric.credits.read 0
        ∧ hasRoom (owing (inMode .halted) 127) = true ∧ oldestHeld (owing (inMode .halted) 127) = none) := by
  decide +kernel

/-- An answered entry at stream 0's head. -/
def holding (s : State) : State :=
  { s with fabric :=
    { s.fabric with ingress := s.fabric.ingress.write 0 [{ req := readAt 0, arrival := 1, answer := some .notReady }] } }

theorem witness_SendRemovesHeadAndAdmitsHeldAnswers :
    ready.fabric.egress = []
      ∧ ((enterEgress ready (plainAnswer 0 1 .ok)).fabric.egress = [plainAnswer 0 1 .ok]
        ∧ oldestHeld (enterEgress ready (plainAnswer 0 1 .ok)) = none)
      ∧ (enterEgress (owing (holding ready) 127) (plainAnswer 0 1 .ok)).fabric.egress = [plainAnswer 0 1 .ok]
      ∧ (oldestHeld (enterEgress (owing (holding ready) 127) (plainAnswer 0 1 .ok))).isSome = true
      ∧ (owing (holding ready) 127).fabric.takenUnanswered < 128 - ([] : List Response).length := by decide +kernel

theorem witness_TakeArbiterGrantsUnblockedHeads_grants :
    takeGrant (owing (headed ready (readAt 0)) 127) = some (granted (readAt 0))
      ∧ takeGrant (owing (headed ready (readAt 0)) 128) = none
      ∧ (granted (readAt 0)).req.kind ≠ RequestKind.write := by decide +kernel

theorem witness_TakeArbiterGrantsUnblockedHeads_room :
    takeableHead (queued (headed ready (ending .commit)) (List.replicate 31 (entry .durable))) 0 = some (ending .commit)
      ∧ takeableHead (queued (headed ready (ending .commit)) (List.replicate 32 (entry .durable))) 0 = none
      ∧ takeableHead (posting (headed ready (writeAt 0)) (List.replicate 31 (postedOne true))) 0 = some (writeAt 0)
      ∧ takeableHead (posting (headed ready (writeAt 0)) (List.replicate 32 (postedOne true))) 0 = none
      ∧ takeableHead (tracking (headed ready (readAt 0)) (List.replicate 47 (trackedOne 0))) 0 = some (readAt 0)
      ∧ takeableHead (tracking (headed ready (readAt 0)) (List.replicate 48 (trackedOne 0))) 0 = none := by
  decide +kernel

theorem witness_TakeArbiterGrantsUnblockedHeads_blocks :
    takeableHead (relocating (headed ready (ending .commit)) .pending) 0 = none
      ∧ takeableHead (withRecord (relocating (headed ready (ending .commit)) .pending) (.doomed .idle)) 0
        = some (ending .commit)
      ∧ takeableHead (waiting (headed ready (readAt 0))) 0 = none
      ∧ takeableHead (waiting (headed (inMode .idle) (readAt 0))) 0 = some (readAt 0)
      ∧ takeableHead (holding (inMode .idle)) 0 = none ∧ takeableHead ready 0 = none := by decide +kernel

theorem witness_TakesOutsideReadyAreAnsweredFromMode :
    (∀ m ∈ [Mode.idle, .formatting, .recovering, .faulted],
      takeGrant (headed (inMode m) (readAt 0)) = some (granted (readAt 0))) := by decide +kernel

/-- A READ of `n` bytes. -/
def readOf (a : Addr) (n : BitVec 7) : Request := { readAt a with length := n }

theorem witness_DecoderClassifiesInFourSteps_malformed :
    (readOf 0 0).length.toNat = 0 ∧ 64 < (readOf 63 2).addr.toNat % 64 + (readOf 63 2).length.toNat
      ∧ classify ready 0 (readOf 0 0) = .denied ∧ classify ready 0 (readOf 63 2) = .denied := by decide +kernel

theorem witness_DecoderClassifiesInFourSteps_guard :
    (readOf 0x0100000038 8).addr.toNat % 64 + 8 ≤ 64 ∧ ready.decoder.guardActive = some region
      ∧ region.base.toNat ≤ 0x0100000000 ∧ 0x010003FFC0 < region.base.toNat + 2 ^ region.k.toNat * 64
      ∧ classify ready 0 (readOf 0x0100000038 8) = .denied ∧ classify ready 0 (readOf 0x010003FFF8 8) = .denied
      ∧ classify ready 0 (readOf 0x0100040000 8) = .plain := by decide +kernel

theorem witness_DecoderClassifiesInFourSteps_windows :
    (¬(region.base.toNat ≤ 0x10000) ∧ ready.decoder.guardTarget = none)
      ∧ (ready.decoder.table[0].enabled = true ∧ ready.decoder.table[0].base.toNat ≤ 0x10000 / 4096
        ∧ 0x1FFF8 / 4096 ≤ ready.decoder.table[0].limit.toNat)
      ∧ classify ready 0 (readOf 0x10000 8) = .guarded ∧ classify ready 0 (readOf 0x1FFF8 8) = .guarded
      ∧ classify ready 0 (readOf 0x20000 8) = .readOnly ∧ classify ready 1 (readOf 0x20000 8) = .denied
      ∧ classify ready 0 (readOf 0x0FFF8 8) = .plain ∧ classify State.reset 0 (readOf 0 64) = .denied := by
  decide +kernel

theorem witness_LinesMasksAndLaidOverBytes :
    0 + 64 ≤ 64 ∧ (List.replicate 64 (0 : Byte)).length = 64 ∧ 63 + 1 ≤ 64 ∧ ([0xAA] : List Byte).length = 1 := by decide

theorem witness_PlainReadIsTrackedAndHeldBehindPostedWrites :
    takeGrant (headed ready (readAt 0x400)) = some (granted (readAt 0x400))
      ∧ classify (headed ready (readAt 0x400)) 0 (readAt 0x400) = .plain
      ∧ takeGrant (headed ready (readAt 0x20000)) = some (granted (readAt 0x20000))
      ∧ classify (headed ready (readAt 0x20000)) 0 (readAt 0x20000) = .readOnly
      ∧ takeGrant (posting (headed ready (readAt 0x400)) [postedOne false]) = some (granted (readAt 0x400))
      ∧ unissuedTo (posting (headed ready (readAt 0x400)) [postedOne false]) 0x400 = 1 := by decide +kernel

theorem witness_GuardedReadIsCoveredOrPinned :
    takeGrant (headed (opened ready 0) (readOf 0x10000 2)) = some (granted (readOf 0x10000 2))
      ∧ classify (headed (opened ready 0) (readOf 0x10000 2)) 0 (readOf 0x10000 2) = .guarded
      ∧ (∀ p < 2, ∃ v ∈ versions (opened ready 0) 0x10000, v.mask.getLsbD p = true)
      ∧ takeGrant (headed (opened ready 0) (readOf 0x10000 3)) = some (granted (readOf 0x10000 3))
      ∧ classify (headed (opened ready 0) (readOf 0x10000 3)) 0 (readOf 0x10000 3) = .guarded
      ∧ (∀ v ∈ versions (opened ready 0) 0x10000, v.mask.getLsbD 2 = false) := by decide +kernel

theorem witness_DeniedRequestsChangeOnlyTheFabricPort :
    (takeGrant (headed ready (readAt 0x0100000000)) = some (granted (readAt 0x0100000000))
      ∧ classify (headed ready (readAt 0x0100000000)) 0 (readAt 0x0100000000) = .denied)
      ∧ (takeGrant (headed ready (writeAt 0x0100000000)) = some (granted (writeAt 0x0100000000))
        ∧ classify (headed ready (writeAt 0x0100000000)) 0 (writeAt 0x0100000000) = .denied)
      ∧ (takeGrant (headed ready (writeAt 0x20000)) = some (granted (writeAt 0x20000))
        ∧ classify (headed ready (writeAt 0x20000)) 0 (writeAt 0x20000) = .readOnly) := by decide +kernel

theorem witness_HomeReadOutcomesAnswerTheRead :
    let s := tracking (carrying ready (.homeRead 6)) [trackedOne 0]
    Carries s 0 (.homeRead 6) ∧ (s.reads.find? fun x => x.serial == 6) = some (trackedOne 0) ∧ NoneHeld s
      ∧ s.modes.mode ≠ .draining :=
  ⟨carries_of (by decide +kernel), by decide +kernel, ⟨rfl, rfl⟩, by decide +kernel⟩

theorem witness_PlainWriteIsPosted :
    (∀ ps ∈ [[], [postedOne true], [postedOne false]],
      takeGrant (posting (headed ready (writeAt 0x400)) ps) = some (granted (writeAt 0x400))
        ∧ classify (posting (headed ready (writeAt 0x400)) ps) 0 (writeAt 0x400) = .plain) := by decide +kernel

theorem witness_PostedOutcomesLowerBarriersAndSendCommitted_lowers :
    let s := queued (posting (carrying ready (.posted 4)) [postedOne true]) [{ entry .durable with barrier := 2 }]
    Carries s 0 (.posted 4) ∧ (s.posted.records.find? fun q => q.serial == 4) = some (postedOne true)
      ∧ s.reloc.state ≠ .pending ∧ s.modes.mode ≠ .draining
      ∧ ∀ e ∈ s.groups.queue,
        (if e.stream = (postedOne true).stream ∧ serialBefore 4 e.serial then { e with barrier := e.barrier - 1 }
        else e).answerable = false :=
  ⟨carries_of (by decide +kernel), by decide +kernel, by decide +kernel, by decide +kernel, by decide +kernel⟩

theorem witness_PostedOutcomesLowerBarriersAndSendCommitted_sends :
    let e := { entry .durable with barrier := 1 }
    let s := queued (posting (carrying ready (.posted 4)) [postedOne true]) [e]
    Carries s 0 (.posted 4) ∧ (s.posted.records.find? fun q => q.serial == 4) = some (postedOne true)
      ∧ s.reloc.state ≠ .pending ∧ s.modes.mode ≠ .draining ∧ s.groups.queue = [e] ∧ e.stream = (postedOne true).stream
      ∧ serialBefore 4 e.serial = true ∧ e.state = .durable ∧ e.slots ≠ [] ∧ e.homeDone = false ∧ e.answered = false
      ∧ e.barrier = 1 :=
  ⟨carries_of (by decide +kernel), by decide +kernel, by decide +kernel, by decide +kernel, rfl, rfl, by decide, rfl,
    by decide, rfl, rfl, rfl⟩

/-- Stream 0's write is at its head and guarded. -/
def writes (s : State) (a : Addr) : Prop :=
  (headed s (writeAt a)).modes.mode = .ready ∧ takeGrant (headed s (writeAt a)) = some (granted (writeAt a))
    ∧ classify (headed s (writeAt a)) 0 (writeAt a) = .guarded

theorem witness_GuardedWriteStages_new :
    (writes ready 0x10000 ∧ recordOf ready 0 = .absent ∧ claimant ready 0x10000 = none
      ∧ openVersion ready 0 0x10000 = none ∧ openSlots ready < 768 ∧ freeSlot? ready = some 0)
      ∧ (writes (withRecord (opened ready 0) (.opened (List.range 63) none)) 0x10040
        ∧ claimant (opened ready 0) 0x10040 = none ∧ openVersion (opened ready 0) 0 0x10040 = none
        ∧ (List.range 63).length < ready.regs.groupLimit ∧ freeSlot? (opened ready 0) = some 1) := by
  unfold writes; decide +kernel

theorem witness_GuardedWriteStages_merges :
    (writes (opened ready 0) 0x10000 ∧ recordOf (opened ready 0) 0 = .opened [0] none
      ∧ claimant (opened ready 0) 0x10000 = some 0
      ∧ openVersion (opened ready 0) 0 0x10000 = some (version 0 .opened (some (.record 0)) 0))
      ∧ (writes (opened ready 1) 0x10000
        ∧ openVersion (opened ready 1) 0 0x10000 = some (version 0 .opened (some (.record 0)) 1)
        ∧ freeSlot? (opened ready 1) = some 1) := by
  unfold writes; decide +kernel

/-- Stream 1 claims line 01_0000h. -/
def claimed : State := withVersion ready (version 0 .opened (some (.record 1)) 0)

theorem witness_GuardedWriteIsRefusedOrHeld :
    (writes (withRecord ready (.doomed .quota)) 0x10000 ∧ recordOf (withRecord ready (.doomed .quota)) 0 = .doomed .quota)
      ∧ (writes claimed 0x10000 ∧ isDoomed claimed 0 = false ∧ claimant claimed 0x10000 = some 1
        ∧ ∀ r ∈ claimed.claims.waitList, r.write.stream = 1 → claimant claimed r.write.line ≠ some 0) := by
  unfold writes; decide +kernel

/-- The buffer holds versions in a state in its first `n` slots, of no listed line. -/
def fullOf (s : State) (n : Nat) (x : SlotState) : State :=
  { s with staging := { s.staging with slots := (List.range n).map fun i => version i x (some (.entry 1 9)) 0 } }

theorem witness_GuardedWriteIsRefusedOrHeld_no_slot :
    writes (fullOf ready 1024 .applying) 0x10000 ∧ isDoomed (fullOf ready 1024 .applying) 0 = false
      ∧ claimant (fullOf ready 1024 .applying) 0x10000 = none
      ∧ openVersion (fullOf ready 1024 .applying) 0 0x10000 = none
      ∧ groupFull (fullOf ready 1024 .applying) 0 = false ∧ openSlots (fullOf ready 1024 .applying) < 768
      ∧ freeSlot? (fullOf ready 1024 .applying) = none := by
  refine ⟨by unfold writes; decide +kernel, by decide +kernel, by decide +kernel, by decide +kernel, by decide +kernel,
    ?_, ?_⟩
  · have : (SlotState.applying == SlotState.opened) = false := rfl
    simp [openSlots, fullOf, List.countP_map, Function.comp_def, version, this]
  · simp [freeSlot?, isFree, slotAt, fullOf, version, Config.slotCount, ready, inMode, State.reset, Staging.reset]

/-- Stream 1 waits for a line that stream 0 claims, and claims line 01_0040h. -/
def locked : State :=
  { opened ready 0 with
    claims := { waitList := [{ write := { heldOne with stream := 1 }, arrival := 1, deadline := 1000 }], arrivalCount := 1 }
    staging :=
      { State.reset.staging with
        slots :=
          [version 0 .opened (some (.record 0)) 0, { version 1 .opened (some (.record 1)) 0 with line := 0x10040 }]
        index := [{ line := 0x10000, slot := 0 }, { line := 0x10040, slot := 1 }] } }

theorem witness_GuardedWriteDooms :
    (writes (withRecord ready (.opened (List.range 64) none)) 0x10040
      ∧ groupFull (withRecord ready (.opened (List.range 64) none)) 0 = true ∧ claimant ready 0x10040 = none
      ∧ openVersion (withRecord ready (.opened (List.range 64) none)) 0 0x10040 = none)
      ∧ (writes locked 0x10040 ∧ isDoomed locked 0 = false ∧ claimant locked 0x10040 = some 1
        ∧ ∃ r ∈ locked.claims.waitList, r.write.stream = 1 ∧ claimant locked r.write.line = some 0) := by
  unfold writes; decide +kernel

theorem witness_GuardedWriteDooms_quota :
    writes (fullOf ready 768 .opened) 0x10000 ∧ isDoomed (fullOf ready 768 .opened) 0 = false
      ∧ claimant (fullOf ready 768 .opened) 0x10000 = none ∧ openVersion (fullOf ready 768 .opened) 0 0x10000 = none
      ∧ groupFull (fullOf ready 768 .opened) 0 = false ∧ 768 ≤ openSlots (fullOf ready 768 .opened)
      ∧ NoneHeld (fullOf ready 768 .opened) := by
  refine ⟨by unfold writes; decide +kernel, by decide +kernel, by decide +kernel, by decide +kernel, by decide +kernel,
    ?_, rfl, rfl⟩
  simp [openSlots, fullOf, List.countP_map, Function.comp_def, version]

/-- A COMMIT or a DISCARD at stream 0's head is granted. -/
def ends (s : State) (k : RequestKind) : Prop :=
  (headed s (ending k)).modes.mode = .ready ∧ takeGrant (headed s (ending k)) = some (granted (ending k))

/-- The journal is used up to `n` lines, with a retired span. -/
def usedUp (s : State) (n span : Nat) : State := { s with journal := { s.journal with used := n, retiredSpan := span } }

theorem witness_CommitAbortsOrSeals :
    ends (withRecord (relocating ready .held) (.doomed .idle)) .commit
      ∧ (ends (writing (opened ready 0) .waitingSpace) .commit ∧ isDoomed (opened ready 0) 0 = false)
      ∧ (ends ready .commit ∧ (recordOf ready 0).slots = [] ∧ unacknowledged ready 0 = 0)
      ∧ (ends (usedUp (opened ready 0) 4090 0) .commit ∧ 4 ≤ region.ringLength - 4090)
      ∧ (ends (usedUp (opened ready 0) 4091 0) .commit ∧ ends (usedUp (opened ready 0) 4091 4) .commit
        ∧ region.ringLength - 4091 < 4)
      ∧ (ready.journal.writer = .idle
        ∧ (∀ x ∈ [entry .durable], x.state ≠ .sealed) ∧ ∀ x ∈ [entry .durable], x.serial ≠ 0 + 1) := by
  unfold ends; decide +kernel

theorem witness_DiscardClearsTheRecord :
    (ends ready .discard ∧ (recordOf ready 0).slots = [])
      ∧ (ends (opened ready 0) .discard ∧ (opened ready 0).claims.waitList = [] ∧ (opened ready 0).staging.slotWait = [])
      ∧ ends (relocating ready .pending) .discard := by
  unfold ends; decide +kernel

/-- An open group with an idle deadline of 3 ms. -/
def idling (s : State) : State := withRecord (opened s 0) (.opened [0] (some 3))

theorem witness_ExpiriesDoomGroups_idle :
    (timed (idling ready) 2999).now / 1000 < 3
      ∧ recordOf (timed (idling ready) 3000) 0 = .opened [0] (some 3) ∧ 3 ≤ (timed (idling ready) 3000).now / 1000
      ∧ ((idling ready).claims.waitList = [] ∧ (idling ready).staging.slotWait = [])
      ∧ ((waiting (idling ready)).claims.waitList.map WaitRecord.write ++ (waiting (idling ready)).staging.slotWait).find?
        (fun h => h.stream == 0) = some heldOne := by decide +kernel

theorem witness_ExpiriesDoomGroups_conflict :
    (∀ r ∈ (timed (waiting ready) 999).claims.waitList, r.write.stream = 0 → (timed (waiting ready) 999).now < r.deadline)
      ∧ ((timed (waiting ready) 1000).claims.waitList.find? fun r => r.write.stream == 0 && r.deadline ≤ 1000)
        = some { write := heldOne, arrival := 1, deadline := 1000 }
      ∧ isDoomed (waiting ready) 0 = false ∧ (waiting ready).staging.slotWait = [] := by decide +kernel

/-- The grant of the arbiter at place 0. -/
def grantAt (foreground : Nat) : MediaGrant := { place := 0, readTurn := true, foreground }

theorem witness_MediaIssueSendsTheGrantedRequest :
    (mediaGrant (porting ready [{ issuedFor .relocLine with state := .retryWait 0 1 }]) = some (grantAt 0))
      ∧ (mediaGrant (porting ready [readRequest .relocLine 0x400]) = some (grantAt 0)
        ∧ Requester.relocLine.priority.isSome = true ∧ freeTag? (porting ready [readRequest .relocLine 0x400]) = some 0)
      ∧ mediaGrant (handOver ready [homeReadRequest (trackedOne 0)]) = some (grantAt 0)
      ∧ (mediaGrant (handOver (posting (tracking ready [trackedOne 1]) [postedOne false]) [postedRequest (postedOne false)])
          = some (grantAt 0)
        ∧ ((posting ready [postedOne false]).posted.records.find? fun q => q.serial == 4) = some (postedOne false)) := by
  decide +kernel

/-- A home read, a posted write and two background requests, all ready, after `n` foreground grants in a row. -/
def contested (n : Nat) : State :=
  { handOver ready
      [homeReadRequest (trackedOne 0), writeRequest (.posted 4) 0x800 3 zeroLine, writeRequest (.homeWrite 0) 0xC00 3 zeroLine,
        readRequest .checkpoint 0x1000] with
    media :=
      { (handOver ready
          [homeReadRequest (trackedOne 0), writeRequest (.posted 4) 0x800 3 zeroLine,
            writeRequest (.homeWrite 0) 0xC00 3 zeroLine, readRequest .checkpoint 0x1000]).media with
        foreground := n } }

theorem witness_MediaArbiterGrants :
    mediaGrant ready = none
      ∧ (∀ x ∈ (contested 0).media.requests.zipIdx, grantable (contested 0) x.2 x.1 = true)
      ∧ mediaGrant (contested 2) = some { place := 0, readTurn := false, foreground := 3 }
      ∧ (contested 2).media.foreground < (contested 2).regs.arbQuota - 1
      ∧ mediaGrant (contested 3) = some { place := 3, readTurn := true, foreground := 0 }
      ∧ (contested 3).regs.arbQuota - 1 ≤ (contested 3).media.foreground
      ∧ mediaGrant (handOver ready [homeReadRequest (trackedOne 0)]) = some (grantAt 0) := by decide +kernel

/-- A request under tag 0 that has had `n` RETRY responses. -/
def retried (n : Nat) : State := porting ready [{ issuedFor .relocLine with state := .issued 0 n 200 }]

theorem witness_RetryWaitsOrFailsAndStaleIsDiscarded :
    issuedAt ready 0 = none ∧ (issuedAt (retried 3) 0).map MediaReq.state = some (.issued 0 3 200)
      ∧ 3 < (retried 3).regs.retryLimit ∧ (issuedAt (retried 4) 0).map MediaReq.state = some (.issued 0 4 200)
      ∧ (retried 4).regs.retryLimit ≤ 4 ∧ tagRecord ready 0 = none
      ∧ (tagRecord (porting ready [{ issuedFor .relocLine with state := .retryWait 0 1 }]) 0).map MediaReq.state
        = some (.retryWait 0 1) := by decide +kernel

/-- A drain of origin READY, in DRAINING. -/
def ended (s : State) : State := draining (setMode s .draining) .ready

/-- A drain that began in FORMATTING. -/
def endedFormat (s : State) : State := draining (setMode s .formatting) .formatting

/-- A fatal command has a state outside a drain and the same state in a drain. -/
theorem witness_FatalCausesEnterFaulted_timeouts :
    (Fatal (.mediaTimeout 0) (timed (carrying ready .relocLine) 200)
        ∧ inDrain (timed (carrying ready .relocLine) 200) = false)
      ∧ (Fatal .linkResetTimeout (timed resetting 200) ∧ inDrain (timed resetting 200) = false)
      ∧ (Fatal (.mediaTimeout 0) (endedFormat (timed (carrying ready .formatLine) 200))
        ∧ inDrain (endedFormat (timed (carrying ready .formatLine) 200)) = true) :=
  ⟨⟨⟨_, .head _, 0, 200, rfl, by decide⟩, by decide +kernel⟩, ⟨⟨200, rfl, by decide⟩, by decide +kernel⟩,
    ⟨⟨_, .head _, 0, 200, rfl, by decide⟩, by decide +kernel⟩⟩

theorem witness_FatalCausesEnterFaulted_outcomes :
    (Fatal (.commitLineFail 0) (carrying ready .commitLine) ∧ inDrain (carrying ready .commitLine) = false)
      ∧ (Fatal (.homeWriteFail 0) (carrying ready (.homeWrite 0)) ∧ inDrain (carrying ready (.homeWrite 0)) = false)
      ∧ (Fatal (.recoveryMediaFail 0) (carrying (recovering .replay) (.replayWrite 0))
        ∧ Fatal (.recoveryMediaFail 0) (carrying (recovering .header) .headerRead)
        ∧ Fatal (.recoveryMediaFail 0) (carrying (recovering .final) .checkpoint)
        ∧ inDrain (carrying (recovering .final) .checkpoint) = false)
      ∧ (Fatal (.restoringSbFail 0) (relocating (carrying ready (.restoringSb .a)) (.retiringOld .restoring))
        ∧ inDrain (relocating (carrying ready (.restoringSb .a)) (.retiringOld .restoring)) = false) :=
  ⟨⟨carrying_carries _ _, by decide +kernel⟩, ⟨⟨0, carrying_carries _ _⟩, by decide +kernel⟩,
    ⟨.inl ⟨0, carrying_carries _ _⟩, .inr ⟨rfl, _, carrying_carries _ _, .inl rfl⟩,
      .inr ⟨rfl, _, carrying_carries _ _, .inr rfl⟩, by decide +kernel⟩,
    ⟨⟨.a, carrying_carries _ _⟩, .restoring, rfl⟩, by decide +kernel⟩

/-- Two checkpoints have failed in a row. -/
def failedTwice (s : State) : State := { s with ckpt := { s.ckpt with errors := 2 } }

theorem witness_FatalCausesEnterFaulted_checkpoint :
    (Fatal (.checkpointFail 0) (failedTwice (carrying ready .checkpoint))
        ∧ inDrain (failedTwice (carrying ready .checkpoint)) = false)
      ∧ (Fatal (.checkpointFail 0) (carrying (recovering .final) .checkpoint))
      ∧ (Fatal (.checkpointFail 0) (ended (failedTwice (carrying ready .checkpoint)))
        ∧ inDrain (ended (failedTwice (carrying ready .checkpoint))) = true)
      ∧ (Fatal (.commitLineFail 0) (ended (carrying ready .commitLine))
        ∧ Fatal (.homeWriteFail 0) (ended (carrying ready (.homeWrite 0)))
        ∧ Fatal (.recoveryMediaFail 0) (ended (carrying ready (.replayWrite 0)))) :=
  ⟨⟨⟨carrying_carries _ _, .inr (by decide)⟩, by decide +kernel⟩, ⟨carrying_carries _ _, .inl rfl⟩,
    ⟨⟨⟨_, rfl, rfl⟩, .inr (by decide)⟩, by decide +kernel⟩, ⟨_, rfl, rfl⟩, ⟨0, _, rfl, rfl⟩, .inl ⟨0, _, rfl, rfl⟩⟩

theorem witness_PowerFailWarningByMode :
    (inMode .idle).modes.mode = .idle ∧ (inMode .faulted).modes.mode = .faulted ∧ ready.modes.mode = .ready
      ∧ (ended ready).modes.mode = .draining ∧ (inMode .halted).modes.mode = .halted
      ∧ ((endedFormat ready).modes.mode = .formatting ∧ (endedFormat ready).drain.status = .active)
      ∧ (recovering .header).modes.mode = .recovering
      ∧ ((formatting .clearing false).modes.mode = .formatting ∧ (formatting .clearing false).drain.status ≠ .active) := by
  decide +kernel

theorem witness_DrainBudgetExpiryEntersHalted :
    ((timed (ended ready) 2000).drain.deadline = some 2000 ∧ 2000 ≤ (timed (ended ready) 2000).now)
      ∧ journalingEntry (queued (ended ready) [entry .journaling]) = some (entry .journaling)
      ∧ commitLineIssued (ended (carrying ready .commitLine)) = true ∧ commitLineIssued (ended ready) = false
      ∧ (posting (ended ready) [postedOne false]).posted.records ≠ []
      ∧ ((timed (endedFormat ready) 2000).drain.deadline = some 2000 ∧ (endedFormat ready).modes.mode = .formatting
        ∧ (endedFormat ready).drain.status = .active) := by decide +kernel

/-- The writer is writing the entry with serial 5, slot 0, and has `q` under tag 0. -/
def journaling (q : Requester) (failed : Bool) : State :=
  writing
    (queued (withVersion (carrying ready q) (version 0 .journaling (some (.entry 0 5)) 0)) [entry .journaling])
    (.writing failed)

theorem witness_JournalLineOutcomes :
    Carries (alsoCarrying (journaling (.journalLine 0) false) (.journalLine 1)) 0 (.journalLine 0)
      ∧ (∃ r ∈ requestsWithout (alsoCarrying (journaling (.journalLine 0) false) (.journalLine 1)) 0,
        r.requester.isJournalLine = true ∧ r.outstanding = true)
      ∧ Carries (journaling (.journalLine 0) false) 0 (.journalLine 0)
      ∧ (∀ r ∈ requestsWithout (journaling (.journalLine 0) false) 0, r.requester.isJournalLine = false)
      ∧ ((journaling (.journalLine 0) false).groups.queue.find? fun e => e.state == .journaling) = some (entry .journaling)
      ∧ (∀ n ∈ (entry .journaling).slots, (slotAt (journaling (.journalLine 0) false) n).isSome = true)
      ∧ (journaling (.journalLine 0) false).journal.writer = .writing false :=
  ⟨⟨_, rfl, rfl⟩, by decide +kernel, ⟨_, rfl, rfl⟩, by decide +kernel, by decide +kernel, by decide +kernel, rfl⟩

theorem witness_FailedRecordAbortsItsGroup :
    let s := journaling (.journalLine 0) true
    Carries s 0 (.journalLine 0) ∧ s.journal.writer = .writing true ∧ NoneHeld s ∧ s.reloc.state ≠ .pending
      ∧ s.modes.mode ≠ .draining ∧ (s.groups.queue.find? fun e => e.state == .journaling) = some (entry .journaling)
      ∧ (∀ x ∈ s.groups.queue, x.state ≠ .sealed)
      ∧ (∀ r ∈ requestsWithout s 0, r.requester.isJournalLine = true → r.outstanding = false)
      ∧ ∀ r ∈ requestsWithout s 0, r.requester.isJournalLine = false :=
  ⟨⟨_, rfl, rfl⟩, rfl, ⟨rfl, rfl⟩, by decide +kernel, by decide +kernel, by decide +kernel, by decide +kernel,
    by decide +kernel, by decide +kernel⟩

theorem witness_CommitLineOutcomes :
    let s := journaling .commitLine false
    Carries s 0 .commitLine ∧ (s.groups.queue.find? fun e => e.state == .journaling) = some (entry .journaling)
      ∧ (entry .journaling).extent = some { start := 0, length := 4 } ∧ (entry .journaling).seq = some 1
      ∧ SerialsDistinct s ∧ s.modes.mode ≠ .draining ∧ (entry .journaling).barrier = 0
      ∧ (entry .journaling).answered = false :=
  ⟨⟨_, rfl, rfl⟩, by decide +kernel, rfl, rfl, by unfold SerialsDistinct; decide +kernel, by decide +kernel, rfl, rfl⟩

/-- The apply engine has also slot 1 outstanding. -/
def applyingTwo : State :=
  { applying (carrying ready (.homeWrite 0)) false with apply := { current := some 5, outstanding := [0, 1], withdrawn := false } }

/-- A home write of the current group has been withdrawn. -/
def withdrawnOnce (s : State) : State := { s with apply := { s.apply with withdrawn := true } }

theorem witness_HomeWriteOkSpendsAndCompletes :
    (Carries applyingTwo 0 (.homeWrite 0) ∧ NoneHeld applyingTwo ∧ applyingTwo.reloc.state ≠ .pending
        ∧ applyingTwo.modes.mode ≠ .draining ∧ ∃ m ∈ applyingTwo.apply.outstanding, m ≠ 0)
      ∧ ∀ answered : Bool,
        let s := applying (carrying ready (.homeWrite 0)) answered
        Carries s 0 (.homeWrite 0) ∧ (∀ m ∈ s.apply.outstanding, m = 0) ∧ s.apply.current = some 5
          ∧ (s.groups.queue.find? fun y => y.serial == 5) = some { entry .applying with answered }
          ∧ s.apply.withdrawn = false ∧ (withdrawnOnce s).apply.withdrawn = true := by
  refine ⟨⟨⟨_, rfl, rfl⟩, ⟨rfl, rfl⟩, by decide +kernel, by decide +kernel, by decide +kernel⟩, fun answered => ?_⟩
  exact ⟨⟨_, rfl, rfl⟩, by decide +revert +kernel, rfl, by decide +revert +kernel, rfl, rfl⟩

/-- The checkpoint interval is 1. -/
def eager (s : State) : State := { s with regs := { s.regs with ckptInterval := 1 } }

theorem witness_HomeWriteOkSpendsAndCompletes_interval :
    (eager (applying (carrying ready (.homeWrite 0)) true)).regs.ckptInterval ≤ ((1 : Seq) - ready.ckpt.applied).toNat := by
  decide +kernel

/-- The final drain trigger has been raised. -/
def finalRaised (s : State) : State := { ended s with drain := { (ended s).drain with finalRaised := true } }

theorem witness_CheckpointOutcomes :
    (Carries (flying (carrying ready .checkpoint)) 0 .checkpoint
        ∧ (flying (carrying ready .checkpoint)).ckpt.inFlight.isSome = true)
      ∧ (keepTrigger (flying ready)).ckpt.trigger = true
      ∧ (Carries (flying (carrying (recovering .final) .checkpoint)) 0 .checkpoint
        ∧ (recovering .final).modes.mode = .recovering ∧ (recovering .final).recovery.any fun r => r.phase == .final)
      ∧ ((finalRaised ready).modes.mode = .draining ∧ (finalRaised ready).drain.finalRaised = true)
      ∧ ((flying ready).modes.mode = .ready ∧ (flying ready).ckpt.errors < 2) :=
  ⟨⟨⟨_, rfl, rfl⟩, rfl⟩, rfl, ⟨⟨_, rfl, rfl⟩, rfl, by decide +kernel⟩, ⟨rfl, rfl⟩, rfl, by decide⟩

theorem witness_FormatLinesRunTheTwoStages :
    ∀ (stage : ClearStage) (failed : Bool),
      let s := carrying (formatting stage failed) .formatLine
      Carries s 0 .formatLine ∧ s.format = some { stage, failed } ∧ inDrain s = false
        ∧ (¬∃ r ∈ requestsWithout s 0, r.requester = .formatLine)
        ∧ (∃ r ∈ requestsWithout (alsoCarrying s .formatLine) 0, r.requester = .formatLine ∧ r.outstanding = true) := by
  intro stage failed
  cases stage <;> cases failed <;>
    exact ⟨⟨_, rfl, rfl⟩, rfl, by decide +kernel, by decide +kernel, by decide +kernel⟩

theorem witness_RelocationLinesPrepareTheTarget :
    ∀ (stage : ClearStage) (failed : Bool),
      let s := relocating (carrying ready .relocLine) (.formattingNew stage failed)
      Carries s 0 .relocLine ∧ s.reloc.state = .formattingNew stage failed ∧ s.modes.mode ≠ .draining
        ∧ (¬∃ r ∈ requestsWithout s 0, r.requester = .relocLine)
        ∧ (∃ r ∈ requestsWithout (alsoCarrying s .relocLine) 0, r.requester = .relocLine ∧ r.outstanding = true)
        ∧ s.reloc.hold = true ∧ ready.reloc.hold = false := by
  intro stage failed
  cases stage <;> cases failed <;>
    exact ⟨⟨_, rfl, rfl⟩, rfl, by decide +kernel, by decide +kernel, by decide +kernel, rfl, rfl⟩

theorem witness_RetiringAndRestoringSuperblocks :
    (∀ y ∈ [RetireStep.first, .second],
      let s := relocating (carrying ready (.retiringSb .a)) (.retiringOld y)
      Carries s 0 (.retiringSb .a) ∧ s.reloc.state = .retiringOld y ∧ s.modes.mode ≠ .draining)
      ∧ (let s := relocating (carrying ready (.restoringSb .b)) (.retiringOld .restoring)
        Carries s 0 (.restoringSb .b) ∧ s.reloc.state = .retiringOld .restoring ∧ s.modes.mode ≠ .draining) := by
  refine ⟨?_, ⟨_, rfl, rfl⟩, rfl, by decide +kernel⟩
  intro y _
  cases y <;> exact ⟨⟨_, rfl, rfl⟩, rfl, by decide +kernel⟩

theorem witness_RelocationCommandsByState :
    (relocating ready .held).reloc.state = .held ∧ ready.reloc.state ≠ .held
      ∧ (relocating ready .pending).reloc.state = .pending ∧ ready.reloc.state ≠ .pending := by decide +kernel

/-- RELOC_CTRL names 4096 lines from the line after the active region, or from that region itself. -/
def aimedAt (s : State) (g : BitVec 28) : State := { s with regs := { s.regs with relocBase := g } }

theorem witness_RelocationRequestIsJudged :
    (let s := aimedAt ready 0x100040;
      s.modes.mode = .ready ∧ s.reloc.state = .none ∧ (s.regs.relocBase ++ 0#12).toNat % (2 ^ 12 * 64) = 0
        ∧ s.journal.region.base.toNat + 2 ^ 12 * 64 ≤ (s.regs.relocBase ++ 0#12).toNat
        ∧ s.staging.index = [] ∧ s.claims.waitList = [] ∧ s.staging.slotWait = [] ∧ s.groups.queue = []
        ∧ s.ckpt.inFlight = none ∧ (flying s).ckpt.inFlight.isSome = true
        ∧ (queued s [entry .durable]).groups.queue ≠ [])
      ∧ relocAcceptable (writeRelocCtrl (aimedAt ready 0x100040) 12 true) = true
      ∧ relocAcceptable (writeRelocCtrl (aimedAt ready 0x100000) 12 true) = false
      ∧ relocAcceptable (writeRelocCtrl (aimedAt ready 0x100040) 11 true) = false
      ∧ relocAcceptable (writeRelocCtrl (aimedAt ready 0x100001) 12 true) = false
      ∧ relocAcceptable (writeRelocCtrl (aimedAt (opened ready 0) 0) 12 true) = false
      ∧ relocAcceptable (writeRelocCtrl (aimedAt (waiting ready) 0) 12 true) = false := by decide +kernel

/-- A recovery that awaits the second superblock copy. -/
def awaiting (first : Line) : State := carrying (recovering (.superblocks (some first) none)) (.superblockRead .b)

theorem witness_SuperblockCopiesDecideTheRecovery :
    (Carries (carrying (recovering (.superblocks none none)) (.superblockRead .a)) 0 (.superblockRead .a)
        ∧ (recovering (.superblocks none none)).recovery = some (Recovery.entry (.superblocks none none) .start))
      ∧ (Carries (awaiting zeroLine) 0 (.superblockRead .b)
        ∧ (awaiting zeroLine).recovery = some (Recovery.entry (.superblocks (some zeroLine) none) .start))
      ∧ superblockValid zeroLine = false ∧ superblockValid (superblockLine (superblock 4)) = true
      ∧ (readSuperblock (superblockLine (superblock 4))).retired = false
      ∧ (readSuperblock (superblockLine { superblock 4 with retired := true })).retired = true
      ∧ (readSuperblock (superblockLine { superblock 4 with k := 13 })).k ≠ region.k.setWidth 8
      ∧ (readSuperblock (superblockLine (superblock 4))).base = region.base
      ∧ (readSuperblock (superblockLine (superblock 4))).k = region.k.setWidth 8 ∧ 4 ≤ region.ringLength :=
  ⟨⟨⟨_, rfl, rfl⟩, rfl⟩, ⟨⟨_, rfl, rfl⟩, rfl⟩, by decide +kernel, by decide +kernel, by decide +kernel, by decide +kernel,
    by decide +kernel, by decide +kernel, by decide +kernel, by decide +kernel⟩

/-- A recovery in HEADER with `n` lines scanned. -/
def scannedTo (n : Nat) : State :=
  { recovering .header with recovery := some { Recovery.entry .header .start with scanned := n } }

theorem witness_HeaderReadContinuesOrEndsTheScan :
    Carries (carrying (scannedTo 4090) .headerRead) 0 .headerRead
      ∧ (let h := headerLine 0 1 0
        field h 0 4 = 0x47520001 ∧ field h 8 8 = 0 ∧ field h 6 2 = 1 ∧ field h 16 2 = 4
          ∧ 4090 + 4 ≤ region.ringLength ∧ ¬(4091 + 4 ≤ region.ringLength))
      ∧ field zeroLine 0 4 ≠ 0x47520001 :=
  ⟨⟨_, rfl, rfl⟩, by decide +kernel, by decide +kernel⟩

theorem witness_RecordReadReplaysOrFindsTorn :
    Carries (carrying reading (.recordRead 1)) 0 (.recordRead 1)
      ∧ reading.staging.scratch = some [(0, headerLine 0 1 0)]
      ∧ (∃ q ∈ requestsWithout (alsoCarrying (carrying reading (.recordRead 1)) (.recordRead 2)) 0,
        q.requester.isRecordRead = true)
      ∧ (¬∃ q ∈ requestsWithout (carrying reading (.recordRead 1)) 0, q.requester.isRecordRead = true)
      ∧ (field closing 0 4 = 0x47520002 ∧ field closing 8 8 = 0 ∧ field closing 6 2 = 1
        ∧ field closing 16 4 = (crcLines [headerLine 0 1 0]).toNat)
      ∧ field zeroLine 0 4 ≠ 0x47520002 :=
  ⟨⟨_, rfl, rfl⟩, rfl, by decide +kernel, by decide +kernel, by decide +kernel, by decide +kernel⟩

/-- A recovery that replays a record of four lines after `n` scanned ones. -/
def replayingAt (n : Nat) : State :=
  carrying
    { recovering .replay with
      recovery := some { Recovery.entry .replay .start with lines := 1, length := 4, scanned := n } }
    (.replayWrite 0)

theorem witness_ReplayWriteOkAdvancesTheScan :
    Carries (replayingAt 0) 0 (.replayWrite 0)
      ∧ (∃ q ∈ requestsWithout (alsoCarrying (replayingAt 0) (.replayWrite 1)) 0, q.requester.isReplay = true)
      ∧ (¬∃ q ∈ requestsWithout (replayingAt 0) 0, q.requester.isReplay = true)
      ∧ 4086 + 4 + 4 ≤ (replayingAt 4086).journal.region.ringLength
      ∧ (replayingAt 4087).journal.region.ringLength < 4087 + 4 + 4 :=
  ⟨⟨_, rfl, rfl⟩, by decide +kernel, by decide +kernel, by decide +kernel, by decide +kernel⟩

theorem witness_LinkResetAckClearsThePort :
    ready.media.linkOwed = false
      ∧ ((askLinkReset (inMode .faulted)).media.linkOwed = true ∧ (inMode .faulted).recovery = none
        ∧ (inMode .faulted).modes.mode ≠ .draining)
      ∧ (resetting.media.linkOwed = true ∧ resetting.recovery = some (Recovery.entry .linkReset .start)) := by
  decide +kernel

/-- The journal k register. -/
def sized (s : State) (k : BitVec 5) : State := { s with regs := { s.regs with jnlK := k } }

theorem witness_StartAndFormatBeginTheirProcedures :
    ready.modes.mode ≠ .idle ∧ (inMode .idle).modes.mode = .idle
      ∧ (configRegion (sized (inMode .idle) 12)).valid = true ∧ (configRegion (sized (inMode .idle) 20)).valid = true
      ∧ (configRegion (sized (inMode .idle) 11)).valid = false ∧ (configRegion (sized (inMode .idle) 21)).valid = false
      ∧ (configRegion { inMode .idle with regs := { (inMode .idle).regs with jnlBase := 1 } }).valid = false := by
  decide +kernel

theorem witness_RestartAndResumeGoThroughRecovery :
    ((inMode .idle).modes.mode ≠ .ready ∧ (inMode .idle).modes.mode ≠ .faulted)
      ∧ (ready.modes.mode = .ready ∧ (configRegion ready).valid = true ∧ (configRegion (sized ready 11)).valid = false)
      ∧ ((inMode .faulted).modes.mode = .faulted ∧ (configRegion (inMode .faulted)).valid = true)
      ∧ (posting ready [postedOne false]).posted.records ≠ []
      ∧ ((inMode .halted).modes.mode = .halted ∧ (configRegion (inMode .halted)).valid = true
        ∧ (configRegion (sized (inMode .halted) 11)).valid = false) := by decide +kernel

theorem witness_ClearCountersAndUnknownCommands : (0 : Word) = 0 ∧ 7 < (8 : Word).toNat := by decide

theorem witness_EventFlagsEnablesAndAlert :
    (∀ b, Instr.start ≠ .hardReset b) ∧ (∀ v, Instr.start ≠ .eventFlagsClear v) ∧ flagSet (countAborted ready) .abort = true
      ∧ ∃ t, exec .start (countAborted ready) = .next t := ⟨by simp, by simp, by decide +kernel, _, rfl⟩

theorem witness_IdleTimeoutWriteKeepsOrRemovesDeadlines :
    65535 < (65536 : Word).toNat ∧ (0 < (65535 : Word).toNat ∧ (65535 : Word).toNat ≤ 65535) ∧ (0 : Word) = 0 := by decide

theorem witness_RegisterWritesHoldRangesAndFields :
    (0x10C : Word).getLsbD 9 = false
      ∧ (∀ i ∈ [(0x00 : BitVec 8), 0x01, 0x09, 0x0F, 0x19, 0x1F, 0x38, 0xFF],
        (i.toNat ≤ 0x01 ∨ 0x09 ≤ i.toNat) ∧ (i.toNat < 0x10 ∨ 0x18 < i.toNat) ∧ (i.toNat < 0x20 ∨ 0x37 < i.toNat))
      ∧ (0x00000 : Word).extractLsb' 16 2 = 0#2 ∧ (0x10000 : Word).extractLsb' 16 2 = 1#2
      ∧ (0x20000 : Word).extractLsb' 16 2 = 2#2 ∧ (0x30000 : Word).extractLsb' 16 2 = 3#2 := by decide

theorem witness_RecordLinesHaveTheirLayouts :
    256 ≤ 256 ∧ [((0x10000 : Addr), (3 : Mask))][4 * 0 + 0]? = some (0x10000, 3)
      ∧ [((0x10000 : Addr), (3 : Mask))][4 * 0 + 1]? = none := by decide

theorem witness_WrittenLinesReadBack :
    (superblock 4).tail < 2 ^ 32 ∧ 1 ≤ 1 ∧ 256 ≤ 256 ∧ [((0x10000 : Addr), (3 : Mask))][0]? = some (0x10000, 3) := by decide

/-- An ISSUED home read, which every law admits. -/
theorem witness_StepsKeep_laws :
    let s := carrying ready (.homeRead 6)
    CreditLaw s ∧ SameLineLaw s ∧ TagLaw s ∧ StagingLaw (opened s 0) ∧ FreeingLaw (opened s 0) ∧ HeldLaw (waiting s)
      ∧ DepthLaw s ∧ RangeLaw s ∧ step s = .next (tick s) ∧ step (opened s 0) = .next (tick (opened s 0)) := by
  refine ⟨by unfold CreditLaw; decide +kernel, .cons (by simp) .nil, .cons (by simp) .nil, ?_, ?_, ?_, ?_, ?_, rfl, rfl⟩
  · unfold StagingLaw; decide +kernel
  · unfold FreeingLaw; decide +kernel
  · unfold HeldLaw; decide +kernel
  · unfold DepthLaw; decide +kernel
  · unfold RangeLaw; decide +kernel

/-- An open group, a read behind it, an entry that is being journaled, one that is being applied, and what they owe. -/
def working : State :=
  let s := queued ready
    [{ entry .applying with answered := true }, { entry .journaling with slots := [1], serial := 7, stream := 1, seq := some 2 }]
  { tracking (withRecord s (.opened [2] none)) [{ trackedOne 0 with kind := .guarded, pinned := [0, 3] }] with
    fabric := { s.fabric with takenUnanswered := 2, takeSerial := 8 }
    staging :=
      { State.reset.staging with
        slots :=
          [version 0 .applying (some (.entry 0 5)) 1,
            { version 1 .journaling (some (.entry 1 7)) 0 with line := 0x10040 },
            { version 2 .opened (some (.record 0)) 0 with line := 0x10080 },
            { version 3 .spent none 1 with line := 0x10080 }]
        index := [{ line := 0x10000, slot := 0 }, { line := 0x10040, slot := 1 }, { line := 0x10080, slot := 2 }] }
    journal := { s.journal with writer := .writing false, used := 4090, durableThrough := 1, nextSeq := 2 }
    apply := { current := some 5, outstanding := [0], withdrawn := false }
    media := { s.media with requests := [issuedFor (.homeWrite 0)] } }

theorem witness_StepsKeepTheSharedLaws :
    FreshSerial working ∧ DepthLaw working ∧ SharedLaws working ∧ step working = .next (tick working)
      ∧ working.journal.appliedThrough.toNat + 33 < 2 ^ 48 := by
  refine ⟨?_, ?_, ⟨?_, ?_, ?_, ?_, ?_, ?_, ?_, ?_, ?_, ?_, ?_, ?_, ?_, ?_, ?_⟩, rfl, by decide +kernel⟩
  · unfold FreshSerial; decide +kernel
  · unfold DepthLaw; decide +kernel
  · unfold StagingLaw; decide +kernel
  · unfold HeldLaw; decide +kernel
  · unfold FreeingLaw; decide +kernel
  · unfold ModeLaw; decide +kernel
  · unfold ContentsLaw NoneHeld; decide +kernel
  · unfold ResponseLaw SerialsDistinct; decide +kernel
  · simp only [OwnerLaw, RecordOwns, Entry.owns]; decide +kernel
  · unfold IndexLaw; decide +kernel
  · unfold ClaimLaw; decide +kernel
  · simp only [HomeLaw, Entry.owns]; decide +kernel
  · unfold WriterLaw; decide +kernel
  · unfold SpaceLaw JournalInUse; decide +kernel
  · unfold PinLaw; decide +kernel
  · unfold SequenceLaw JournalInUse; decide +kernel
  · exact ⟨fun h => absurd rfl h, fun h => absurd h (by decide +kernel), fun h => absurd rfl h⟩

/-! ## Witnesses of the clauses about drains, held answers and writes that go on -/

theorem witness_SendRemovesHeadAndAdmitsHeldAnswers_room :
    (let s := enterEgress (owing (holding ready) 128) (plainAnswer 0 1 .ok);
      128 - ([] : List Response).length ≤ s.fabric.takenUnanswered ∧ (oldestHeld s).isSome = true)
      ∧ (let s := enterEgress (owing (holding ready) 127) (plainAnswer 0 1 .ok);
        s.fabric.takenUnanswered + 1 = 128 - ([] : List Response).length ∧ (oldestHeld s).isSome = true) := by
  decide +kernel

/-- What a clause about DRAINING asks of a command: both origins, with something left, with nothing left, and with the final
checkpoint not yet begun. -/
def Drains (s a : State) : Prop :=
  (ended s).modes.mode = .draining ∧ (ended s).drain.origin = some .ready
    ∧ (draining (ended s) .recovering).drain.origin = some .recovering ∧ (ended a).ckpt.inFlight = none
    ∧ ((ended a).journal.writer = .idle ∧ (ended a).posted.records = [] ∧ (ended a).reads = []
      ∧ (ended a).media.requests = [] ∧ (ended a).media.linkOwed = false)

theorem witness_HomeReadOutcomesAnswerTheRead_drain :
    let s := tracking (carrying ready (.homeRead 6)) [trackedOne 0]
    Carries (ended s) 0 (.homeRead 6) ∧ NoneHeld (ended s) ∧ Drains s (tracking (porting s []) [])
      ∧ (posting (ended s) [postedOne true]).posted.records ≠ [] :=
  ⟨⟨_, rfl, rfl⟩, ⟨rfl, rfl⟩, by unfold Drains; decide +kernel, by decide +kernel⟩

theorem witness_PostedOutcomesLowerBarriersAndSendCommitted_drain :
    let s := posting (carrying ready (.posted 4)) [postedOne true]
    Carries (ended s) 0 (.posted 4) ∧ (ended s).reloc.state ≠ .pending ∧ Drains s (posting (porting s []) [])
      ∧ ∀ e ∈ (ended s).groups.queue, e.answerable = false :=
  ⟨⟨_, rfl, rfl⟩, by decide +kernel, by unfold Drains; decide +kernel, by decide +kernel⟩

/-- Three entries of stream 0 that wait for one posted write: a group with lines, an empty commit, a group that is home. -/
def threeOwed : State :=
  queued (posting (carrying ready (.posted 4)) [postedOne true])
    [{ entry .applying with barrier := 1, homeDone := true }, { entry .durable with barrier := 1, serial := 6 },
      { entry .durable with barrier := 1, serial := 7, slots := [] }]

theorem witness_PostedOutcomesLowerBarriersAndSendCommitted_several :
    Carries threeOwed 0 (.posted 4) ∧ SerialsDistinct threeOwed ∧ threeOwed.reloc.state ≠ .pending
      ∧ threeOwed.modes.mode ≠ .draining
      ∧ (let owed := (threeOwed.groups.queue.map fun e =>
            if e.stream = 0 ∧ serialBefore 4 e.serial then { e with barrier := e.barrier - 1 } else e).filter fun e =>
          (e.state == .durable || e.state == .applying) && e.barrier == 0 && !e.answered
        owed.length = 3 ∧ ∀ e ∈ owed, e.stream = 0)
      ∧ after (.postedWriteOk 0) threeOwed (fun t =>
        t.fabric.egress.map Response.status == [.committed, .committed, .committed]
          && t.groups.queue.map Entry.serial == [6]) = true :=
  ⟨⟨_, rfl, rfl⟩, by unfold SerialsDistinct; decide +kernel, by decide +kernel, by decide +kernel, by decide +kernel,
    by decide +kernel⟩

theorem witness_CommitAbortsOrSeals_barrier :
    ends (posting ready [postedOne true]) .commit
      ∧ 0 < ((posting ready [postedOne true]).posted.records.filter fun p => p.stream == 0).length
      ∧ (posting ready [postedOne true]).journal.writer = .idle
      ∧ after .commit (headed (posting ready [postedOne true]) (ending .commit)) (fun t =>
        t.fabric.egress.isEmpty && t.groups.queue.map Entry.state == [.durable]) = true := by
  unfold ends; decide +kernel

/-- Streams 1 and 2 wait for line 01_0000h, which stream 0 claims. -/
def contending : State :=
  { opened ready 0 with
    claims :=
      { waitList :=
          [{ write := { heldOne with stream := 1 }, arrival := 1, deadline := 1000 },
            { write := { heldOne with stream := 2 }, arrival := 2, deadline := 1000 }]
        arrivalCount := 2 } }

theorem witness_DiscardClearsTheRecord_released :
    ends contending .discard ∧ contending.staging.slotWait = []
      ∧ Released contending { contending with staging := stagingAborted contending.staging [0] }
        (linesReleased contending [0]) { write := { heldOne with stream := 1 }, arrival := 1, deadline := 1000 }
        [{ write := { heldOne with stream := 2 }, arrival := 2, deadline := 1000 }] 0
      ∧ after .discard (headed contending (ending .discard)) (fun t =>
        t.fabric.egress == [plainAnswer 0 3 .ok, plainAnswer 1 2 .staged] && t.claims.waitList.length == 1
          && recordOf t 1 == .opened [0] none) = true :=
  ⟨by unfold ends; decide +kernel, rfl,
    ⟨rfl, by decide +kernel, by decide +kernel, by decide +kernel, by decide +kernel, by decide +kernel, by decide +kernel⟩,
    by decide +kernel⟩

/-- Slots 1 to `n` are SPENT and pinned. -/
@[irreducible] def pinnedSlots (n : Nat) : List Slot := (List.range n).map fun i => version (i + 1) .spent none 1

/-- Slot 0 holds a version and every other slot a pinned SPENT one; streams 1 and 2 wait for a slot. -/
def crammed (s : State) (v : Slot) : State :=
  { s with staging :=
    { slots := v :: pinnedSlots 1023
      index := [{ line := v.line, slot := 0 }]
      slotWait := [{ heldOne with stream := 1, line := 0x10080 }, { heldOne with stream := 2, line := 0x100C0 }]
      scratch := none } }

/-- The buffer of `crammed` when slot 0 has become FREE. -/
def relieved (s : State) (v : Slot) : State :=
  { s with staging := { (crammed s v).staging with slots := pinnedSlots 1023, index := [] } }

theorem pinnedSlots_length (m : Nat) : (pinnedSlots m).length = m := by unfold pinnedSlots; simp

theorem pinnedSlots_zero (m : Nat) : (pinnedSlots m).find? (fun v => v.num == 0) = none := by
  unfold pinnedSlots
  rw [List.find?_eq_none]
  intro v hv
  obtain ⟨i, -, rfl⟩ := List.mem_map.1 hv
  simp [version]

theorem pinnedSlots_closed (m : Nat) : (pinnedSlots m).countP (fun v => v.state == .opened) = 0 := by
  unfold pinnedSlots
  rw [List.countP_eq_zero]
  intro v hv
  obtain ⟨i, -, rfl⟩ := List.mem_map.1 hv
  exact Bool.false_ne_true

theorem pinnedSlots_find (m n : Nat) (h0 : n ≠ 0) (h : n ≤ m) :
    ((pinnedSlots m).find? fun v => v.num == n).isSome = true := by
  unfold pinnedSlots
  rw [List.find?_isSome]
  exact ⟨version n .spent none 1, List.mem_map.2 ⟨n - 1, List.mem_range.2 (by omega), by congr; omega⟩, by simp [version]⟩

theorem pinnedSlots_kept (m : Nat) (x : SlotState) : (pinnedSlots m).filterMap (fun v =>
    if v.num ∈ [0] then if v.pins = 0 then none else some { v with state := x, owner := none } else some v)
      = pinnedSlots m := by
  unfold pinnedSlots
  rw [List.filterMap_congr (g := some), List.filterMap_some]
  intro v hv
  obtain ⟨i, -, rfl⟩ := List.mem_map.1 hv
  simp [version]

theorem range_find_zero (p : Nat → Bool) (m : Nat) (h : p 0 = true) : (List.range (m + 1)).find? p = some 0 := by
  rw [List.range_succ_eq_map, List.find?_cons_of_pos h]

/-- The wake pass of the slot that `crammed` frees. -/
theorem crammed_woken (s : State) (v : Slot) (lines : List Addr) (hw : s.claims.waitList = [])
    (h1 : recordOf s 1 = .absent) (h2 : recordOf s 2 = .absent) :
    Woken (crammed s v) (relieved s v) lines { heldOne with stream := 1, line := 0x10080 }
      [{ heldOne with stream := 2, line := 0x100C0 }] 0 := by
  have hver : ∀ l, versions (relieved s v) l = [] := fun l => rfl
  have h0 : isFree (relieved s v) 0 = true := by
    have : slotAt (relieved s v) 0 = none := pinnedSlots_zero 1023
    rw [isFree, this]; rfl
  have hfree : ∀ n, n < 1024 → isFree (relieved s v) n = true → n = 0 := by
    intro n hn hf
    by_contra hne
    have : (slotAt (relieved s v) n).isSome = true := pinnedSlots_find 1023 n hne (by omega)
    rw [isFree, Option.isNone_eq_false_iff.2 this] at hf
    cases hf
  refine ⟨rfl, ?_, ?_, by decide, ?_, ?_, ?_, ?_, hfree⟩
  · intro r hr
    rw [show (crammed s v).claims.waitList = [] from hw] at hr
    cases hr
  · show (pinnedSlots 1023).length < (v :: pinnedSlots 1023).length
    rw [List.length_cons]; omega
  · intro x hx
    have hx : x.stream = 1 ∨ x.stream = 2 := by
      rcases List.mem_cons.1 hx with h | h
      · exact .inl (by rw [h])
      · rcases List.mem_cons.1 h with h | h
        · exact .inr (by rw [h])
        · cases h
    have hr : recordOf (crammed s v) x.stream = .absent := by
      rcases hx with h | h <;> rw [h]
      · exact h1
      · exact h2
    exact ⟨.inl (by rw [claimant, hver]; rfl), by rw [openVersion, hver]; rfl, by rw [isDoomed, hr],
      by rw [groupFull, hr]⟩
  · show (pinnedSlots 1023).countP (fun v => v.state == .opened) < 767
    rw [pinnedSlots_closed]; decide
  · exact range_find_zero _ 1023 h0
  · intro e he; cases he

theorem witness_DiscardClearsTheRecord_woken :
    let s := crammed (withRecord ready (.opened [0] none)) (version 0 .opened (some (.record 0)) 0)
    ends s .discard ∧ { s with staging := stagingAborted s.staging [0] } = relieved s (version 0 .opened (some (.record 0)) 0)
      ∧ Woken s (relieved s (version 0 .opened (some (.record 0)) 0)) (linesReleased s [0])
        { heldOne with stream := 1, line := 0x10080 } [{ heldOne with stream := 2, line := 0x100C0 }] 0 := by
  refine ⟨by unfold ends; decide +kernel, ?_, crammed_woken _ _ _ rfl (by decide +kernel) (by decide +kernel)⟩
  simp only [crammed, relieved, stagingAborted, List.filterMap_cons, pinnedSlots_kept]
  rfl

theorem witness_ExpiriesDoomGroups_others_held :
    let s := timed { contending with groups := (idling ready).groups } 3000
    recordOf s 0 = .opened [0] (some 3) ∧ 3 ≤ s.now / 1000 ∧ (∀ r ∈ s.claims.waitList, r.write.stream ≠ 0)
      ∧ (∀ h ∈ s.staging.slotWait, h.stream ≠ 0) ∧ s.claims.waitList ≠ [] := by decide +kernel

/-- Every tag is taken: a home read awaits its reissue under tag 0, and a background request has no tag. -/
def tagless : State :=
  porting ready
    ({ homeReadRequest (trackedOne 0) with state := .retryWait 0 1 } :: readRequest .checkpoint 0x1000
      :: (List.finRange 31).map fun i =>
        { readRequest (.homeRead 9) (BitVec.ofNat 40 (0x8000 + 64 * i.val)) with
          state := .issued (Fin.ofNat 32 (i.val + 1)) 0 200 })

theorem witness_MediaArbiterGrants_tagless :
    freeTag? tagless = none ∧ (anyEligible tagless fun q => q.priority.isSome) = true
      ∧ mediaGrant tagless = some { place := 0, readTurn := true, foreground := 1 } := by decide +kernel

/-- A held write, entries of every state and a read, all unanswered. -/
def owingAll (s : State) : State :=
  queued (tracking (waiting s) [trackedOne 0])
    [{ entry .applying with serial := 1 }, { entry .durable with serial := 2 }, { entry .journaling with serial := 3 },
      { entry .sealed with serial := 4 }]

theorem witness_FatalCausesEnterFaulted_answers :
    (let s := timed (carrying (owingAll ready) .relocLine) 200;
      Fatal (.mediaTimeout 0) s ∧ inDrain s = false ∧ SerialsDistinct s)
      ∧ (let s := carrying (owingAll ready) .commitLine;
        Fatal (.commitLineFail 0) s ∧ SerialsDistinct s
          ∧ after (.commitLineFail 0) s (fun t =>
            t.fabric.egress.map Response.status
              == [.indoubt, .aborted, .aborted, .committed, .committed, .portDown]) = true) :=
  ⟨⟨⟨_, .head _, 0, 200, rfl, by decide⟩, by decide +kernel, by unfold SerialsDistinct; decide +kernel⟩,
    ⟨_, rfl, rfl⟩, by unfold SerialsDistinct; decide +kernel, by decide +kernel⟩

theorem witness_PowerFailWarningByMode_answers :
    (owingAll ready).modes.mode = .ready ∧ SerialsDistinct (owingAll ready)
      ∧ after .pfwAssert (owingAll ready) (fun t =>
        t.fabric.egress.map Response.status == [.aborted, .aborted, .powerfail]
          && t.groups.queue.map Entry.serial == [1, 2, 3]) = true
      ∧ (let s := recovering .header;
        s.modes.mode = .recovering ∧ s.groups.queue = [] ∧ NoneHeld s ∧ s.reads = [])
      ∧ (let s := carrying (formatting .clearing false) .formatLine;
        s.modes.mode = .formatting ∧ s.drain.status ≠ .active
          ∧ ∃ r ∈ s.media.requests, r.outstanding = true ∧ r.requester.isFormat = true)
      ∧ ¬∃ r ∈ (formatting .clearing false).media.requests, r.outstanding = true ∧ r.requester.isFormat = true := by
  unfold SerialsDistinct NoneHeld; decide +kernel

/-- Streams 2 and 3 wait for the line of the group that is being journaled, and its commit line has been sent. -/
def awaited : State :=
  { journaling .commitLine false with
    claims :=
      { waitList :=
          [{ write := { heldOne with stream := 2 }, arrival := 1, deadline := 1000 },
            { write := { heldOne with stream := 3 }, arrival := 2, deadline := 1000 }]
        arrivalCount := 2 } }

theorem witness_CommitLineOutcomes_released :
    Carries awaited 0 .commitLine ∧ awaited.modes.mode = .ready
      ∧ Released awaited
        { awaited with staging :=
          { awaited.staging with slots := [version 0 .durable (some (.entry 0 5)) 0] } }
        (linesReleased awaited [0]) { write := { heldOne with stream := 2 }, arrival := 1, deadline := 1000 }
        [{ write := { heldOne with stream := 3 }, arrival := 2, deadline := 1000 }] 1
      ∧ (∀ y ∈ awaited.groups.queue, 1 ∉ y.slots)
      ∧ after (.commitLineOk 0) awaited (fun t =>
        t.fabric.egress.map Response.status == [.staged, .committed] && t.claims.waitList.length == 1) = true :=
  ⟨⟨_, rfl, rfl⟩, rfl,
    ⟨rfl, by decide +kernel, by decide +kernel, by decide +kernel, by decide +kernel, by decide +kernel, by decide +kernel⟩,
    by decide +kernel, by decide +kernel⟩

/-- The apply engine has slots 0 and 1023 outstanding in a full buffer. -/
def applyingFull : State :=
  { crammed (carrying ready (.homeWrite 0)) (version 0 .applying (some (.entry 0 5)) 0) with
    apply := { current := some 5, outstanding := [0, 1023], withdrawn := false } }

theorem witness_HomeWriteOkSpendsAndCompletes_woken :
    Carries applyingFull 0 (.homeWrite 0) ∧ applyingFull.reloc.state ≠ .pending ∧ applyingFull.modes.mode = .ready
      ∧ (∃ m ∈ applyingFull.apply.outstanding, m ≠ 0)
      ∧ ((pinnedSlots 1023).filterMap fun v =>
          if v.num = 0 then if v.pins = 0 then none else some { v with state := .spent, owner := none } else some v)
        = pinnedSlots 1023
      ∧ Woken (crammed (carrying ready (.homeWrite 0)) (version 0 .applying (some (.entry 0 5)) 0))
        (relieved (carrying ready (.homeWrite 0)) (version 0 .applying (some (.entry 0 5)) 0)) []
        { heldOne with stream := 1, line := 0x10080 } [{ heldOne with stream := 2, line := 0x100C0 }] 0 :=
  ⟨⟨_, rfl, rfl⟩, by decide +kernel, rfl, ⟨1023, by simp [applyingFull], by decide⟩,
    by simpa using pinnedSlots_kept 1023 .spent, crammed_woken _ _ _ rfl (by decide +kernel) (by decide +kernel)⟩

theorem witness_HomeWriteOkSpendsAndCompletes_drain :
    (let s := ended applyingTwo;
      Carries s 0 (.homeWrite 0) ∧ NoneHeld s ∧ s.reloc.state ≠ .pending ∧ s.modes.mode = .draining
        ∧ (∃ m ∈ s.apply.outstanding, m ≠ 0) ∧ Drains applyingTwo (porting applyingTwo []))
      ∧ ∀ answered : Bool,
        let s := withdrawnOnce (ended (applying (carrying ready (.homeWrite 0)) answered))
        Carries s 0 (.homeWrite 0) ∧ (∀ m ∈ s.apply.outstanding, m = 0) ∧ s.apply.current = some 5
          ∧ (s.groups.queue.find? fun y => y.serial == 5) = some { entry .applying with answered }
          ∧ s.apply.withdrawn = true ∧ s.modes.mode = .draining ∧ s.drain.origin = some .ready
          ∧ after (.homeWriteOk 0) s (fun t =>
            t.journal == s.journal && t.groups.queue.length == 1 && t.apply == Apply.reset) = true := by
  refine ⟨⟨⟨_, rfl, rfl⟩, ⟨rfl, rfl⟩, by decide +kernel, rfl, by decide +kernel, by unfold Drains; decide +kernel⟩,
    fun answered => ?_⟩
  exact ⟨⟨_, rfl, rfl⟩, by decide +revert +kernel, rfl, by decide +revert +kernel, rfl, rfl, rfl, by decide +revert +kernel⟩

/-- A checkpoint in flight for tag 0, with a relocation in PENDING. -/
def lastCheckpoint : State := relocating (flying (carrying ready .checkpoint)) .pending

/-- A writer that waits for space for a record of four lines, behind a checkpoint that frees `span` of the 4094 lines in use. -/
def cramped (span : Nat) : State :=
  let s := usedUp (writing (queued (withVersion (carrying ready .checkpoint) (version 0 .journaling (some (.entry 0 5)) 0))
    [entry .journaling]) .waitingSpace) 4094 8
  { s with ckpt := { s.ckpt with inFlight := some { sb := currentSuperblock s, span } } }

theorem witness_CheckpointOutcomes_relocation :
    Carries lastCheckpoint 0 .checkpoint ∧ lastCheckpoint.modes.mode = .ready ∧ lastCheckpoint.reloc.state = .pending
      ∧ lastCheckpoint.groups.queue = [] ∧ lastCheckpoint.ckpt.trigger = false ∧ lastCheckpoint.journal.writer = .idle
      ∧ (∀ f ∈ lastCheckpoint.ckpt.inFlight, f.sb.applied = lastCheckpoint.journal.durableThrough
        ∧ (lastCheckpoint.journal.appliedThrough - f.sb.applied).toNat < lastCheckpoint.regs.ckptInterval)
      ∧ (keepTrigger lastCheckpoint).ckpt.trigger = true ∧ (queued lastCheckpoint [entry .durable]).groups.queue ≠ [] := by
  refine ⟨⟨_, rfl, rfl⟩, rfl, rfl, rfl, rfl, rfl, ?_, rfl, by decide +kernel⟩
  intro f hf
  cases hf
  exact ⟨rfl, by decide +kernel⟩

theorem witness_CheckpointOutcomes_space :
    (Carries (cramped 4) 0 .checkpoint ∧ Carries (cramped 3) 0 .checkpoint)
      ∧ (∀ n ∈ [3, 4],
        (cramped n).journal.writer = .waitingSpace
          ∧ ((cramped n).groups.queue.find? fun e => e.state == .journaling) = some (entry .journaling)
          ∧ ((cramped n).ckpt.inFlight.map InFlight.span) = some n)
      ∧ 4 ≤ region.ringLength - (4094 - 4) ∧ region.ringLength - (4094 - 3) < 4 ∧ 0 < 8 - 3
      ∧ after (.checkpointOk 0) (cramped 4) (fun t => t.journal.writer == .writing false) = true
      ∧ after (.checkpointOk 0) (cramped 3) (fun t =>
        t.journal.writer == .waitingSpace && t.ckpt.inFlight.isSome) = true :=
  ⟨⟨⟨_, rfl, rfl⟩, ⟨_, rfl, rfl⟩⟩, by decide +kernel, by decide +kernel, by decide +kernel, by decide, by decide +kernel,
    by decide +kernel⟩

theorem witness_FormatLinesRunTheTwoStages_drain :
    let s := endedFormat (carrying ready .formatLine)
    Carries s 0 .formatLine ∧ s.format = none ∧ s.modes.mode = .formatting ∧ s.drain.status = .active
      ∧ (∀ r ∈ requestsWithout s 0, r.requester.isFormat = false)
      ∧ ∃ r ∈ requestsWithout (alsoCarrying s .formatLine) 0, r.requester.isFormat = true :=
  ⟨⟨_, rfl, rfl⟩, rfl, rfl, rfl, by decide +kernel, by decide +kernel⟩

/-- The clauses about outcomes in DRAINING have a state for each requester, with nothing left after it. -/
theorem witness_drains (q : Requester) :
    Carries (ended (carrying ready q)) 0 q ∧ (ended (carrying ready q)).reloc.state = .none
      ∧ (ended (carrying ready q)).recovery = none ∧ (ended (carrying ready q)).modes.mode = .draining
      ∧ Drains (carrying ready q) (porting (carrying ready q) []) ∧ requestsWithout (ended (carrying ready q)) 0 = []
      ∧ requestsWithout (alsoCarrying (ended (carrying ready q)) q) 0 ≠ [] :=
  ⟨⟨_, rfl, rfl⟩, rfl, rfl, rfl, ⟨rfl, rfl, rfl, rfl, rfl, rfl, rfl, rfl, rfl⟩, rfl, List.cons_ne_nil _ _⟩

theorem witness_LinkResetAckClearsThePort_drain :
    let s := ended (askLinkReset ready)
    s.media.linkOwed = true ∧ s.recovery = none ∧ s.modes.mode = .draining ∧ Drains (askLinkReset ready) ready := by
  unfold Drains; decide +kernel

theorem witness_RestartAndResumeGoThroughRecovery_answers :
    SerialsDistinct (owingAll ready) ∧ (owingAll ready).modes.mode = .ready
      ∧ after .restart (headed (owingAll ready) (readAt 0)) (fun t =>
        t.fabric.egress.map Response.status
          == [.aborted, .aborted, .aborted, .committed, .committed, .notReady, .notReady]) = true := by
  unfold SerialsDistinct; decide +kernel

theorem witness_Read48LowLatchesTheWholeValue_frames :
    (([0x5C#8] : List Byte).length < 2 ∧ ([0xA3#8, 2, 0, 0, 0] : List Byte).length < 6)
      ∧ frameCommand [0xA3, 0x02, 0, 0, 0, 1] false = some .start
      ∧ (∀ i ∈ [(0x42 : BitVec 8), 0x44, 0x46, 0x48], i ≠ 0x43 ∧ i ≠ 0x45 ∧ i ≠ 0x47)
      ∧ (∀ i ∈ [(0x0B : BitVec 8), 0x0F, 0x19, 0x1F, 0x38, 0x3F, 0x4C, 0x4F, 0x53, 0xFF],
        0x0A < i.toNat ∧ i.toNat < 0x10 ∨ 0x18 < i.toNat ∧ i.toNat < 0x20 ∨ 0x37 < i.toNat ∧ i.toNat < 0x40
          ∨ 0x4B < i.toNat ∧ i.toNat < 0x50 ∨ 0x52 < i.toNat) := by decide +kernel

theorem witness_RecordLinesHaveTheirLayouts_regions :
    region.valid = true ∧ 4093 < region.ringLength ∧ ¬4094 < region.ringLength
      ∧ (superblock 4).tail < 2 ^ 32 := by decide +kernel

/-! ## Witnesses of the clauses about what begins in the same event -/

theorem witness_PostedOutcomesLowerBarriersAndSendCommitted_due :
    (let s := ended threeOwed;
      Carries s 0 (.posted 4) ∧ SerialsDistinct s ∧ s.modes.mode = .draining ∧ s.reloc.state ≠ .pending
        ∧ s.drain.origin = some .ready
        ∧ after (.postedWriteOk 0) s (fun t => t.fabric.egress.length == 3 && t.drain.finalRaised) = true)
      ∧ (let s := relocating threeOwed .pending;
        Carries s 0 (.posted 4) ∧ SerialsDistinct s ∧ s.reloc.state = .pending ∧ s.modes.mode ≠ .draining
          ∧ after (.postedWriteOk 0) s (fun t => t.groups.queue.length == 1 && t.ckpt.inFlight.isNone) = true)
      ∧ ∀ flight : Bool,
        let owed := queued (posting (carrying ready (.posted 4)) [postedOne true])
          [{ entry .durable with barrier := 1, serial := 7, slots := [] }]
        let s := relocating (if flight then flying owed else owed) .pending
        Carries s 0 (.posted 4) ∧ s.ckpt.inFlight.isSome = flight ∧ SerialsDistinct s ∧ s.reloc.state = .pending
          ∧ s.modes.mode ≠ .draining
          ∧ after (.postedWriteOk 0) s (fun t =>
            t.groups.queue.isEmpty && t.ckpt.inFlight.isSome && t.ckpt.trigger == flight) = true := by
  refine ⟨⟨⟨_, rfl, rfl⟩, ?_, rfl, ?_, rfl, ?_⟩, ⟨⟨_, rfl, rfl⟩, ?_, rfl, ?_, ?_⟩, fun flight => ?_⟩
  · unfold SerialsDistinct; decide +kernel
  · decide +kernel
  · decide +kernel
  · unfold SerialsDistinct; decide +kernel
  · decide +kernel
  · decide +kernel
  · cases flight <;> exact ⟨⟨_, rfl, rfl⟩, rfl, by unfold SerialsDistinct; decide +kernel, rfl, by decide +kernel, by decide +kernel⟩

theorem crammed_full (s : State) (v : Slot) (h : v.num = 0) : freeSlot? (crammed s v) = none := by
  rw [freeSlot?, List.find?_eq_none]
  intro n hn
  have hs : (slotAt (crammed s v) n).isSome = true := by
    show ((v :: pinnedSlots 1023).find? fun u => u.num == n).isSome = true
    by_cases h0 : n = 0
    · rw [List.find?_cons_of_pos (by simp [h, h0])]; rfl
    · rw [List.find?_cons_of_neg (by simp [h]; omega)]
      exact pinnedSlots_find 1023 n h0 (by have : n < 1024 := List.mem_range.1 hn; omega)
  simp [isFree, Option.isNone_eq_false_iff.2 hs]

theorem witness_GuardedWriteIsRefusedOrHeld_copy :
    let v := version 0 .opened (some (.record 0)) 1
    let s := crammed (withRecord ready (.opened [0] none)) v
    writes s 0x10000 ∧ isDoomed s 0 = false ∧ claimant s 0x10000 = some 0 ∧ openVersion s 0 0x10000 = some v ∧ v.pins ≠ 0
      ∧ freeSlot? s = none :=
  ⟨by unfold writes; decide +kernel, by decide +kernel, by decide +kernel, by decide +kernel, by decide,
    crammed_full _ _ rfl⟩

/-- The target of `relocating` has one plain write that is UNISSUED at the port, number 4, and one behind it, number 8. -/
def overTarget (l : Addr) : State :=
  handOver
    (posting (relocating ready (.formattingNew .clearing false))
      [postedOne false, { postedOne false with serial := 8, line := l }])
    [postedRequest (postedOne false)]

theorem witness_MediaIssueSendsTheGrantedRequest_clearing :
    ((overTarget 0x800).posted.records.find? fun q => !q.issued && q.serial != 4)
        = some { postedOne false with serial := 8, line := 0x800 }
      ∧ mediaGrant (overTarget 0x800) = some (grantAt 0) ∧ (overTarget 0x800).reloc.target.contains 0x800 = false
      ∧ (∀ q ∈ (overTarget 0x800).media.requests, q.requester ≠ .relocLine)
      ∧ mediaGrant (overTarget 0x0200000080) = some (grantAt 0)
      ∧ (overTarget 0x0200000080).reloc.target.contains 0x0200000080 = true
      ∧ after .mediaIssue (overTarget 0x0200000080) (fun t =>
        t.media.requests.map MediaReq.requester == [.posted 4, .posted 8]) = true := by decide +kernel

theorem test_clearing_waits_for_the_last_write_to_the_target :
    after .mediaIssue (overTarget 0x800) (fun t =>
      t.media.requests.length == 4096
        && (t.media.requests.map MediaReq.requester).take 3 == [.posted 4, .posted 8, .relocLine]) = true := by
  decide +kernel

theorem witness_CheckpointOutcomes_target :
    let s := posting lastCheckpoint [{ postedOne false with line := 0x0200000080 }]
    Carries s 0 .checkpoint ∧ (∃ p ∈ s.posted.records, p.issued = false ∧ s.reloc.target.contains p.line = true)
      ∧ after (.checkpointOk 0) s (fun t =>
        t.reloc.state == .formattingNew .clearing false && t.media.requests.isEmpty) = true :=
  ⟨⟨_, rfl, rfl⟩, by decide +kernel, by decide +kernel⟩

theorem witness_CheckpointOutcomes_failed_in_drain :
    (let s := finalRaised (flying (carrying ready .checkpoint));
      Carries s 0 .checkpoint ∧ s.modes.mode = .draining ∧ s.ckpt.errors < 2 ∧ s.reloc.state ≠ .pending
        ∧ s.ckpt.trigger = false ∧ s.journal.writer = .idle ∧ s.drain.origin = some .ready
        ∧ after (.checkpointFail 0) s (fun t =>
          t.ckpt.errors == 1 && t.ckpt.inFlight.isSome && t.drain.finalRaised && t.modes.mode == .draining) = true)
      ∧ (let s := keepTrigger (ended (flying (carrying ready .checkpoint)));
        Carries s 0 .checkpoint ∧ s.modes.mode = .draining ∧ s.ckpt.trigger = true)
      ∧ ((ended (cramped 4)).journal.writer = .waitingSpace ∧ 0 < (ended (cramped 4)).journal.retiredSpan) :=
  ⟨⟨⟨_, rfl, rfl⟩, rfl, by decide, by decide +kernel, rfl, rfl, rfl, by decide +kernel⟩, ⟨⟨_, rfl, rfl⟩, rfl, rfl⟩,
    rfl, by decide +kernel⟩

/-- The group that is being journaled stands between a DURABLE one and, behind an empty commit, a SEALED one. -/
def between (q : Requester) (failed : Bool) : State :=
  let s := queued (journaling q failed)
    [{ entry .durable with serial := 3, slots := [2] }, entry .journaling, { entry .sealed with serial := 6, slots := [] },
      { entry .sealed with serial := 7, slots := [1], stream := 1 }]
  { s with staging :=
    { s.staging with
      slots :=
        [version 0 .journaling (some (.entry 0 5)) 0,
          { version 1 .sealed (some (.entry 1 7)) 0 with line := 0x10040 },
          { version 2 .durable (some (.entry 0 3)) 0 with line := 0x10080 }]
      index := [{ line := 0x10000, slot := 0 }, { line := 0x10040, slot := 1 }, { line := 0x10080, slot := 2 }] } }

theorem witness_FailedRecordAbortsItsGroup_next :
    let s := between (.journalLine 0) true
    Carries s 0 (.journalLine 0) ∧ s.journal.writer = .writing true ∧ NoneHeld s ∧ s.reloc.state ≠ .pending
      ∧ s.modes.mode = .ready ∧ SerialsDistinct s
      ∧ (s.groups.queue.find? fun e => e.state == .journaling) = some (entry .journaling)
      ∧ (oldestWith s fun x => x.state == .sealed) = some { entry .sealed with serial := 7, slots := [1], stream := 1 }
      ∧ (∀ n ∈ [1], n ∉ (entry .journaling).slots)
      ∧ (∀ r ∈ requestsWithout s 0, r.requester.isJournalLine = false)
      ∧ after (.journalLineOk 0) s (fun t =>
        t.journal.writer == .writing false && t.groups.queue.map Entry.serial == [3, 7]
          && t.media.requests.map MediaReq.requester == [.journalLine 0, .journalLine 1, .journalLine 2]) = true :=
  ⟨⟨_, rfl, rfl⟩, rfl, ⟨rfl, rfl⟩, by decide +kernel, rfl, by unfold SerialsDistinct; decide +kernel, by decide +kernel,
    by decide +kernel, by decide, by decide +kernel, by decide +kernel⟩

theorem witness_CommitLineOutcomes_next :
    let s := between .commitLine false
    Carries s 0 .commitLine ∧ NoneHeld s ∧ s.modes.mode = .ready ∧ s.reloc.state ≠ .pending ∧ SerialsDistinct s
      ∧ (s.groups.queue.find? fun e => e.state == .journaling) = some (entry .journaling)
      ∧ (entry .journaling).slots ≠ [] ∧ s.apply.current = none
      ∧ (oldestWith s fun y => y.state == .sealed) = some { entry .sealed with serial := 7, slots := [1], stream := 1 }
      ∧ (oldestWith s fun y => y.state == .durable || y.serial == (entry .journaling).serial)
        = some { entry .durable with serial := 3, slots := [2] }
      ∧ (∀ n ∈ [1], n ∉ ({ entry .durable with serial := 3, slots := [2] } : Entry).slots)
      ∧ after (.commitLineOk 0) s (fun t =>
        t.apply.current == some 3 && t.journal.writer == .writing false
          && t.media.requests.map MediaReq.requester
            == [.journalLine 0, .journalLine 1, .journalLine 2, .homeWrite 2]) = true
      ∧ (oldestWith (journaling .commitLine false) fun y => y.state == .sealed) = none
      ∧ (let busy := { s with apply := { current := some 3, outstanding := [2], withdrawn := false } };
        Carries busy 0 .commitLine ∧ busy.apply.current ≠ none) :=
  ⟨⟨_, rfl, rfl⟩, ⟨rfl, rfl⟩, rfl, by decide +kernel, by unfold SerialsDistinct; decide +kernel, by decide +kernel,
    by decide, rfl, by decide +kernel, by decide +kernel, by decide, by decide +kernel, by decide +kernel, ⟨_, rfl, rfl⟩,
    by decide +kernel⟩

theorem witness_HomeWriteOkSpendsAndCompletes_next :
    let s := queued (applying (carrying ready (.homeWrite 0)) true)
      [{ entry .applying with answered := true }, { entry .durable with serial := 7, slots := [2] }]
    Carries s 0 (.homeWrite 0) ∧ NoneHeld s ∧ s.modes.mode = .ready ∧ s.reloc.state ≠ .pending ∧ SerialsDistinct s
      ∧ (∀ m ∈ s.apply.outstanding, m = 0) ∧ s.apply.current = some 5 ∧ s.apply.withdrawn = false
      ∧ (s.groups.queue.find? fun y => y.serial == 5) = some { entry .applying with answered := true }
      ∧ (oldestWith s fun y => y.state == .durable) = some { entry .durable with serial := 7, slots := [2] }
      ∧ 0 ∉ ({ entry .durable with serial := 7, slots := [2] } : Entry).slots
      ∧ after (.homeWriteOk 0) s (fun t => t.apply.current == some 7 && t.groups.queue.map Entry.serial == [7]) = true
      ∧ (oldestWith (applying (carrying ready (.homeWrite 0)) true) fun y => y.state == .durable) = none :=
  ⟨⟨_, rfl, rfl⟩, ⟨rfl, rfl⟩, rfl, by decide +kernel, by unfold SerialsDistinct; decide +kernel, by decide +kernel, rfl, rfl,
    by decide +kernel, by decide +kernel, by decide, by decide +kernel, by decide +kernel⟩

end Sys2Proof.Tests
end

/-! PROOF. The window decoder classifies a request by the four steps of R56: what each step of the model tests, read as
numbers, then the class that each step gives. -/

namespace Sys2Proof.Machine

/-! ## What the steps test -/

/-- A line address is the byte address less its offset (R56 step 1). -/
@[simp] theorem toNat_lineOf (a : Addr) : (lineOf a).toNat = a.toNat - a.toNat % 64 := by
  have := a.isLt
  simp only [lineOf, BitVec.toNat_shiftLeft, BitVec.toNat_ushiftRight, Nat.shiftRight_eq_div_pow, Nat.shiftLeft_eq]
  omega

/-- A granule number is the byte address divided by 4 KiB (R54). -/
@[simp] theorem toNat_granuleOf (a : Addr) : (granuleOf a).toNat = a.toNat / 4096 := by
  have := a.isLt
  simp only [granuleOf, BitVec.extractLsb'_toNat, Nat.shiftRight_eq_div_pow]
  omega

/-- Step 1 of R56: the length is 0, or offset plus length exceeds 64. -/
theorem requestMalformed_iff (r : Request) :
    requestMalformed r = true ↔ r.length.toNat = 0 ∨ 64 < r.addr.toNat % 64 + r.length.toNat := by
  simp only [requestMalformed, Bool.or_eq_true, beq_iff_eq, decide_eq_true_eq]
  exact Iff.rfl

/-- A line lies in a region at or above its base and below the base plus 2^k lines of 64 bytes (R57). -/
theorem Region.contains_lineOf_iff (g : Region) (a : Addr) :
    g.contains (lineOf a) = true ↔
      g.base.toNat ≤ a.toNat - a.toNat % 64 ∧ a.toNat - a.toNat % 64 < g.base.toNat + 2 ^ g.k.toNat * 64 := by
  simp [Region.contains, Region.bytes]

/-- The journal guard is the active and the target region (R57). -/
theorem inGuard_iff (s : State) (l : Addr) :
    inGuard s l = true ↔
      (∃ g, s.decoder.guardActive = some g ∧ g.contains l = true)
        ∨ ∃ g, s.decoder.guardTarget = some g ∧ g.contains l = true := by
  simp [inGuard, Option.any_eq_true]

/-- An entry contains an address by the granule number (R54). -/
theorem Window.contains_iff (w : Window) (a : Addr) :
    w.contains a = true ↔ w.enabled = true ∧ w.base.toNat ≤ a.toNat / 4096 ∧ a.toNat / 4096 ≤ w.limit.toNat := by
  simp [Window.contains, and_assoc]

/-- The entry found is the lowest-numbered one that contains the address (R56 step 3). -/
theorem windowFor_eq_some_of_first {s : State} {a : Addr} {i : Fin 8} (hi : s.decoder.table[i].contains a = true)
    (hlow : ∀ j < i, ¬s.decoder.table[j].contains a = true) : windowFor s a = some s.decoder.table[i] := by
  refine List.find?_eq_some_iff_getElem.2 ⟨hi, i.val, by simp, by simp, fun j hj => ?_⟩
  simpa using hlow ⟨j, by omega⟩ hj

theorem windowFor_eq_none_of_forall {s : State} {a : Addr} (h : ∀ i : Fin 8, ¬s.decoder.table[i].contains a = true) :
    windowFor s a = none := by
  refine List.find?_eq_none.2 fun w hw => ?_
  obtain ⟨i, hi, rfl⟩ := List.getElem_of_mem hw
  simpa using h ⟨i, by simpa using hi⟩

/-! ## The class that each step gives -/

section Classes

variable {s : State} {st : Stream} {r : Request}

theorem classify_of_malformed (hm : requestMalformed r = true) : classify s st r = .denied := by
  simp [classify, hm]

theorem classify_of_inGuard (hm : ¬requestMalformed r = true) (hg : inGuard s (lineOf r.addr) = true) :
    classify s st r = .denied := by
  simp [classify, hm, hg]

theorem classify_of_windowFor_some (hm : ¬requestMalformed r = true) (hg : ¬inGuard s (lineOf r.addr) = true)
    {w : Window} (hw : windowFor s r.addr = some w) :
    classify s st r = if w.admits st then w.kind.confers else .denied := by
  simp [classify, hm, hg, hw]

theorem classify_of_windowFor_none (hm : ¬requestMalformed r = true) (hg : ¬inGuard s (lineOf r.addr) = true)
    (hw : windowFor s r.addr = none) : classify s st r = s.decoder.defaultKind.confers := by
  simp [classify, hm, hg, hw]

end Classes

/-- Settles O10: each step of R56 tests what the statement's numbers say, and the class of each step follows. -/
theorem decoderClassifiesInFourSteps : Obligations.DecoderClassifiesInFourSteps := by
  intro s st r n o l inRegion guarded granule holds
  have malformed : requestMalformed r = true ↔ n = 0 ∨ 64 < o + n := requestMalformed_iff r
  have inGuarded : inGuard s (lineOf r.addr) = true ↔ guarded := by
    simp only [inGuard_iff, Region.contains_lineOf_iff, guarded, inRegion, l, o]
  have contained (w : Window) : w.contains r.addr = true ↔ holds w := w.contains_iff r.addr
  have wellFormed (hn : n ≠ 0) (ho : o + n ≤ 64) : ¬requestMalformed r = true := by
    rw [malformed]
    omega
  refine ⟨fun h => ?malformed, fun hn ho hg => ?guard, fun hn ho hg i hi hlow => ?window, fun hn ho hg hnone => ?default⟩
  case malformed => exact classify_of_malformed (malformed.2 h)
  case guard => exact classify_of_inGuard (wellFormed hn ho) (inGuarded.2 hg)
  case window =>
    have found : windowFor s r.addr = some s.decoder.table[i] :=
      windowFor_eq_some_of_first ((contained _).2 hi) fun j hj => mt (contained _).1 (hlow j hj)
    rw [classify_of_windowFor_some (wellFormed hn ho) (mt inGuarded.1 hg) found]
    rfl
  case default =>
    have found : windowFor s r.addr = none := windowFor_eq_none_of_forall fun i => mt (contained _).1 (hnone i)
    rw [classify_of_windowFor_none (wellFormed hn ho) (mt inGuarded.1 hg) found]
    rfl

end Sys2Proof.Machine

/-! PROOF. A read taken in READY: what every TAKE_READ does there, the plain read (R72) and the guarded read (R75, R76). -/

namespace Sys2Proof.Machine

/-! ## A read taken in READY -/

/-- The decoder does not change when a head is taken, so neither does a class (R56). -/
@[simp] theorem classify_takeHead (s : State) (taken st : Stream) (r : Request) :
    classify (takeHead s taken) st r = classify s st r := rfl

/-- TAKE_READ of a granted read in READY: its head is taken and the read unit acts on it (R71, R161). -/
theorem exec_takeRead_ready {s : State} {g : Grant} (hr : s.modes.mode = .ready) (hg : takeGrant s = some g)
    (hk : g.req.kind = .read) : exec .takeRead s = .next (actRead (takeHead s g.stream) g) :=
  congrArg Host.Outcome.next (takeOf_ready .read actRead hr hg hk)

/-- A read of a PLAIN or READ_ONLY window is a plain read (R58, R71). -/
theorem actRead_of_plain {s : State} {g : Grant}
    (hc : classify s g.stream g.req = .plain ∨ classify s g.stream g.req = .readOnly) : actRead s g = plainRead s g := by
  obtain hc | hc := hc <;> simp only [actRead, hc]

/-- A read of a GUARDED window is a guarded read (R71). -/
theorem actRead_of_guarded {s : State} {g : Grant} (hc : classify s g.stream g.req = .guarded) :
    actRead s g = guardedRead s g := by
  simp only [actRead, hc]

/-! ## A plain read -/

@[simp] theorem handOver_nil (s : State) : handOver s [] = s := by simp [handOver]

/-- A plain read joins the tracker, and its home read is handed over exactly when its hold is 0 (R72). -/
theorem plainRead_eq_handOver_track (s : State) (g : Grant) :
    plainRead s g =
      let e := readEntry s g .plain [] (unissuedTo s (lineOf g.req.addr))
      handOver (track s e) (if e.hold = 0 then [homeReadRequest e] else []) := by
  simp only [plainRead]
  split
  · rfl
  · rw [handOver_nil]

/-- The hold counts the UNISSUED records of the line (R72). -/
theorem unissuedTo_eq_length_filter (s : State) (l : Addr) :
    unissuedTo s l = (s.posted.records.filter fun p => p.line == l && !p.issued).length :=
  List.countP_eq_length_filter

/-- Settles O12: the take frees the head, and the plain read's entry and hold are those of the state before it. -/
theorem plainReadIsTrackedAndHeldBehindPostedWrites : Obligations.PlainReadIsTrackedAndHeldBehindPostedWrites := by
  intro s g hr hg hk hc l hold e
  have counted : unissuedTo (takeHead s g.stream) l = hold := unissuedTo_eq_length_filter s l
  have entry : readEntry (takeHead s g.stream) g .plain [] hold = e := rfl
  have acted : actRead (takeHead s g.stream) g = plainRead (takeHead s g.stream) g :=
    actRead_of_plain (by simpa using hc)
  unfold Answers
  rw [exec_takeRead_ready hr hg hk, acted, plainRead_eq_handOver_track, counted, entry]
  rfl

/-! ## The versions that a guarded read selects and the bytes they cover -/

/-- The class guarded, plain or read-only is that of a request whose bytes stand in one line (R56 step 1). -/
theorem bytes_in_line_of_not_denied {s : State} {st : Stream} {r : Request} (hc : classify s st r ≠ .denied) :
    r.addr.toNat % 64 + r.length.toNat ≤ 64 := by
  by_contra hout
  exact hc (classify_of_malformed ((requestMalformed_iff r).2 (by omega)))

/-- A version is eligible when it is DURABLE or APPLYING, or claims its line for the reading stream (R75, R39). -/
theorem Slot.eligible_eq (st : Stream) (v : Slot) :
    v.eligible st =
      (v.state == .durable || v.state == .applying || (v.state.claims && v.owner.map Owner.stream == some st)) := by
  unfold Slot.eligible
  cases v.state <;> rfl

/-- Position `p` is in the union of masks when some version holds it (R76). -/
theorem getLsbD_unionMask (vs : List Slot) (p : Nat) :
    (unionMask vs).getLsbD p = true ↔ ∃ v ∈ vs, v.mask.getLsbD p = true := by
  have accumulated (m : Mask) : (vs.foldl (fun m v => m ||| v.mask) m).getLsbD p = true ↔
      m.getLsbD p = true ∨ ∃ v ∈ vs, v.mask.getLsbD p = true := by
    induction vs generalizing m with
    | nil => simp
    | cons v vs ih => simp [ih, or_assoc]
  simpa [unionMask] using accumulated 0#64

/-- The mask of a request has the positions from its offset on, as many as its length (R30, R61). -/
theorem getLsbD_byteMask (o n p : Nat) :
    (byteMask o n).getLsbD p = true ↔ p < 64 ∧ o ≤ p ∧ p < o + n := by
  simp only [byteMask, BitVec.getLsbD_ofNat, Nat.testBit_shiftLeft, Nat.testBit_two_pow_sub_one, Bool.and_eq_true,
    decide_eq_true_eq]
  omega

/-- A mask contains another when it has every position of it. -/
theorem and_eq_right_iff_getLsbD (a b : Mask) :
    a &&& b = b ↔ ∀ p, b.getLsbD p = true → a.getLsbD p = true := by
  constructor
  · intro h p hb
    rw [← h, BitVec.getLsbD_and, Bool.and_eq_true] at hb
    exact hb.1
  · intro h
    refine BitVec.eq_of_getLsbD_eq fun p _ => ?_
    rw [BitVec.getLsbD_and, Bool.and_eq_right_iff_imp]
    exact h p

/-- Every byte that a request asks for is held by some of the versions (R76). -/
def CoversRequest (vs : List Slot) (r : Request) : Prop :=
  ∀ p, r.addr.toNat % 64 ≤ p → p < r.addr.toNat % 64 + r.length.toNat → ∃ v ∈ vs, v.mask.getLsbD p = true

/-- The model's test of R76, for a request whose bytes stand in one line: the union has every requested byte. -/
theorem unionMask_and_byteMask_eq_iff {vs : List Slot} {r : Request}
    (hfit : r.addr.toNat % 64 + r.length.toNat ≤ 64) :
    unionMask vs &&& byteMask (requestOffset r) r.length.toNat = byteMask (requestOffset r) r.length.toNat ↔
      CoversRequest vs r := by
  simp only [and_eq_right_iff_getLsbD, getLsbD_unionMask, getLsbD_byteMask, requestOffset, offsetOf, CoversRequest]
  exact ⟨fun h p ho hn => h p ⟨by omega, ho, hn⟩, fun h p ⟨_, ho, hn⟩ => h p ho hn⟩

/-! ## A guarded read -/

section GuardedRead

variable {s : State} {g : Grant}

/-- A covered read is answered from its versions alone, in its take (R76). -/
theorem guardedRead_of_covers (hfit : g.req.addr.toNat % 64 + g.req.length.toNat ≤ 64)
    (hcov : CoversRequest (selectVersions s g.stream (lineOf g.req.addr)) g.req) :
    guardedRead s g =
      let vs := selectVersions s g.stream (lineOf g.req.addr)
      answerTaken s (readAnswer g.stream g.req.tag
        (bytesOf (layOver zeroLine vs) (requestOffset g.req) g.req.length.toNat)) :=
  if_pos ((unionMask_and_byteMask_eq_iff hfit).2 hcov)

/-- A read that is not covered pins its versions, joins the tracker and hands its home read over (R76). -/
theorem guardedRead_of_not_covers (hfit : g.req.addr.toNat % 64 + g.req.length.toNat ≤ 64)
    (hcov : ¬CoversRequest (selectVersions s g.stream (lineOf g.req.addr)) g.req) :
    guardedRead s g =
      let vs := selectVersions s g.stream (lineOf g.req.addr)
      let e := readEntry s g .guarded (vs.map Slot.num) 0
      handOver (track (pin s e.pinned) e) [homeReadRequest e] :=
  if_neg (mt (unionMask_and_byteMask_eq_iff hfit).1 hcov)

end GuardedRead

/-- Settles O13: the versions selected are those of the state before the take, and the guarded read's two branches are the
statement's two cases. -/
theorem guardedReadIsCoveredOrPinned : Obligations.GuardedReadIsCoveredOrPinned := by
  intro s g hr hg hk hc l o n vs covered e
  have inLine : o + n ≤ 64 := bytes_in_line_of_not_denied (by rw [hc]; decide)
  have selected : selectVersions (takeHead s g.stream) g.stream l = vs :=
    List.filter_congr fun v _ => v.eligible_eq g.stream
  have acted : actRead (takeHead s g.stream) g = guardedRead (takeHead s g.stream) g :=
    actRead_of_guarded (by simpa using hc)
  unfold Answers
  rw [exec_takeRead_ready hr hg hk, acted]
  refine ⟨fun hcov => ?covered, fun hcov => ?pinned⟩
  case covered =>
    have covers : CoversRequest (selectVersions (takeHead s g.stream) g.stream l) g.req := by rwa [selected]
    rw [guardedRead_of_covers inLine covers, selected, takeHead_answered]
    rfl
  case pinned =>
    have uncovered : ¬CoversRequest (selectVersions (takeHead s g.stream) g.stream l) g.req := by rwa [selected]
    rw [guardedRead_of_not_covers inLine uncovered, selected]
    rfl

end Sys2Proof.Machine

/-! PROOF. The CRC of the journal (R89): its register steps as the rule names them, and the bytes at which the commit line
and the superblock line store it. -/

namespace Sys2Proof.Machine

/-! ## The register -/

/-- A repetition spelled by recursion is the one spelled by a fold over a range. -/
theorem repeat_eq_foldl_range {α : Type} (f : α → α) (n : Nat) (a : α) :
    Nat.repeat f n a = (List.range n).foldl (fun c _ => f c) a := by
  induction n with
  | zero => rfl
  | succ n ih => rw [Nat.repeat, ih, List.range_succ, List.foldl_append, List.foldl_cons, List.foldl_nil]

/-- A byte enters the register by exclusive-or into its low eight bits and eight shifts (R89). -/
theorem crcByte_eq_foldl_range (c : BitVec 32) (b : Byte) :
    crcByte c b = (List.range 8).foldl (fun c _ => crcShift c) (c ^^^ b.setWidth 32) :=
  repeat_eq_foldl_range crcShift 8 _

/-- The CRC of the nine ASCII bytes of 123456789 (R89). -/
theorem crc_checkText :
    crc ([0x31, 0x32, 0x33, 0x34, 0x35, 0x36, 0x37, 0x38, 0x39] : List Byte) = 0xCBF43926#32 := by
  simp [crc, crcByte_eq_foldl_range, crcShift, List.range_succ]

/-- The CRC of no bytes: the initial value inverted (R89). -/
theorem crc_nil : crc [] = 0#32 := by
  decide

/-! ## Bytes of a number and of a line -/

@[simp] theorem length_leBytes (n value : Nat) : (leBytes n value).length = n := by
  simp [leBytes]

/-- Byte `i` of a word stored little-endian is its bits from 8i on (R87, R89). -/
theorem getD_leBytes_toNat {w : Nat} (c : BitVec w) {n i : Nat} (hi : i < n) :
    (leBytes n c.toNat).getD i 0#8 = c.extractLsb' (8 * i) 8 := by
  have inside : i < (leBytes n c.toNat).length := by simpa using hi
  rw [List.getD_eq_getElem _ _ inside]
  simp [leBytes, BitVec.extractLsb']

/-- A line made of bytes has those bytes at their places, and zero beyond them. -/
@[simp] theorem getElem_lineOfBytes (bs : List Byte) (p : Nat) (hp : p < 64) :
    (lineOfBytes bs)[p] = bs.getD p 0#8 := by
  simp [lineOfBytes]

/-- What a line was made of stands at its front. -/
theorem take_toList_lineOfBytes_append {front : List Byte} {k : Nat} (hf : front.length = k) (hk : k ≤ 64)
    (rest : List Byte) : (lineOfBytes (front ++ rest)).toList.take k = front := by
  refine List.ext_getElem (by simp [hf, hk]) fun p _ hp => ?_
  simp [List.getElem?_append_left hp, List.getElem?_eq_getElem hp]

/-- A word put after `k` bytes of a line stands little-endian from byte `k` on. -/
theorem getElem_lineOfBytes_append_leBytes {front : List Byte} {k : Nat} (hf : front.length = k) {w : Nat}
    (c : BitVec w) {n i : Nat} (hi : i < n) (hk : k + i < 64) :
    (lineOfBytes (front ++ leBytes n c.toNat))[k + i] = c.extractLsb' (8 * i) 8 := by
  rw [getElem_lineOfBytes, List.getD_append_right _ _ _ _ (by omega), hf, Nat.add_sub_cancel_left,
    getD_leBytes_toNat c hi]

/-! ## Where the CRC is stored -/

/-- A commit line stores the record CRC little-endian at bytes 16..19 (R88, R89). -/
theorem commitLine_crc (n : Nat) (seq : Seq) (c : BitVec 32) (i : Fin 4) :
    (commitLine n seq c)[16 + i.val] = c.extractLsb' (8 * i.val) 8 :=
  getElem_lineOfBytes_append_leBytes (by simp) c i.isLt (by omega)

/-- The fields of a superblock before its CRC fill bytes 0..59 (R90). -/
@[simp] theorem length_superblockBody (sb : Superblock) : (superblockBody sb).length = 60 := by
  simp [superblockBody, signature]

@[simp] theorem take_toList_superblockLine (sb : Superblock) :
    (superblockLine sb).toList.take 60 = superblockBody sb :=
  take_toList_lineOfBytes_append (length_superblockBody sb) (by decide) _

/-- A superblock line stores the CRC of its bytes 0..59 little-endian at bytes 60..63 (R89, R90). -/
theorem superblockLine_crc (sb : Superblock) (i : Fin 4) :
    (superblockLine sb)[60 + i.val] = (crc ((superblockLine sb).toList.take 60)).extractLsb' (8 * i.val) 8 := by
  rw [take_toList_superblockLine]
  exact getElem_lineOfBytes_append_leBytes (length_superblockBody sb) (crc (superblockBody sb)) i.isLt (by omega)

/-- Settles O52: each byte's step is the rule's fold of eight shifts, the two check values are computed, and both lines end
their fields with the CRC's four bytes. -/
theorem crcFollowsItsDefinition : Obligations.CrcFollowsItsDefinition := by
  refine ⟨fun bs => ?steps, crc_checkText, crc_nil, commitLine_crc, superblockLine_crc⟩
  case steps =>
    rw [crc, funext₂ crcByte_eq_foldl_range]
    rfl

end Sys2Proof.Machine

/-! PROOF. RELOC_GO and RELOC_CANCEL: each command's meaning by the relocation state (R137), the retiring that a go begins
(R138) and the end that a cancel makes (R133). -/

namespace Sys2Proof.Machine

/-! ## The two commands by the relocation state (R137) -/

/-- RELOC_GO in HELD is taken and begins RETIRING_OLD. -/
theorem exec_relocGo_of_held {s : State} (h : s.reloc.state = .held) :
    exec .relocGo s = .next (enterRetiring (accept s)) := by
  simp only [exec, execRelocGo, h]

/-- RELOC_GO outside HELD is ignored. -/
theorem exec_relocGo_of_not_held {s : State} (h : s.reloc.state ≠ .held) : exec .relocGo s = .next (reject s) := by
  cases hs : s.reloc.state with
  | held => exact absurd hs h
  | none | pending | formattingNew _ _ | retiringOld _ => simp only [exec, execRelocGo, hs]

/-- RELOC_CANCEL in PENDING or HELD is taken and ends the relocation CANCELLED. -/
theorem exec_relocCancel_of_pending_or_held {s : State} (h : s.reloc.state = .pending ∨ s.reloc.state = .held) :
    exec .relocCancel s = .next (endReloc (accept s) .cancelled) := by
  obtain h | h := h <;> simp only [exec, execRelocCancel, h]

/-- RELOC_CANCEL outside PENDING and HELD is ignored. -/
theorem exec_relocCancel_of_not_pending_of_not_held {s : State} (hp : s.reloc.state ≠ .pending)
    (hh : s.reloc.state ≠ .held) : exec .relocCancel s = .next (reject s) := by
  cases hs : s.reloc.state with
  | pending => exact absurd hs hp
  | held => exact absurd hs hh
  | none | formattingNew _ _ | retiringOld _ => simp only [exec, execRelocCancel, hs]

/-! ## What the commands leave -/

/-- An ignored command changes the last-command status alone (R118, R137). -/
theorem reject_eq (s : State) : reject s = { s with modes := { s.modes with lastCommand := .rejected } } := rfl

/-- The old region's superblock does not depend on the last-command status. -/
@[simp] theorem oldSuperblock_accept (s : State) (plus : BitVec 64) (retired : Bool) :
    oldSuperblock (accept s) plus retired = oldSuperblock s plus retired := rfl

/-- An accepted go changes the last-command status, the relocation state and the port's requests, which get the first
retiring superblock, for the checkpoint writer's next slot (R137, R138). -/
theorem enterRetiring_accept_eq (s : State) :
    enterRetiring (accept s) =
      { s with
        modes := { s.modes with lastCommand := .accepted }
        reloc := { s.reloc with state := .retiringOld .first }
        media :=
          { s.media with
            requests := s.media.requests
              ++ [superblockRequest (.retiringSb s.ckpt.nextSlot) s.journal.region s.ckpt.nextSlot
                    (oldSuperblock s 1 true)] } } := by
  rw [enterRetiring, oldSuperblock_accept]
  rfl

/-- A relocation that ends without success leaves the target unguarded and the flag RELOC_DONE set, besides its own state and
result (R133, R137). -/
theorem endReloc_eq (s : State) (result : RelocResult) :
    endReloc s result =
      { s with
        reloc := { s.reloc with state := .none, result }
        decoder := { s.decoder with guardTarget := none }
        regs := flagged s.regs .relocDone } := rfl

/-- Settles O38: a case for each row and judgement of R137's table, the go's superblock being the retiring one of R138. -/
theorem relocationCommandsByState : Obligations.RelocationCommandsByState := by
  intro s rejected retiring
  have retired : oldSuperblock s 1 true = retiring := rfl
  have ignored : reject s = rejected := reject_eq s
  unfold Answers
  refine ⟨fun hheld => ?go, fun hother => ?goRejected, fun heither => ?cancel, fun hpending hheld => ?cancelRejected⟩
  case go => rw [exec_relocGo_of_held hheld, enterRetiring_accept_eq, retired]
  case goRejected => rw [exec_relocGo_of_not_held hother, ignored]
  case cancel =>
    rw [exec_relocCancel_of_pending_or_held heither, endReloc_eq]
    rfl
  case cancelRejected => rw [exec_relocCancel_of_not_pending_of_not_held hpending hheld, ignored]

end Sys2Proof.Machine

/-! PROOF. Event flags, their enables and ALERT_N (R166): what the two writes leave, when ALERT_N is asserted, and that every
move of a command other than EVENT_FLAGS_CLEAR and HARD_RESET keeps the flags that are set. -/

namespace Sys2Proof.Machine

/-! ## The two writes and ALERT_N -/

/-- A flag is left set by a write of EVENT_FLAGS when it was set and its bit in the written word is zero (R166). -/
theorem getLsbD_flags_clearFlags (s : State) (v : Word) (i : Fin 12) :
    (clearFlags s (v.setWidth 12)).regs.flags.getLsbD i = (s.regs.flags.getLsbD i && !v.getLsbD i) := by
  simp [clearFlags]

/-- An enable is the bit of the word last written (R166). -/
theorem getLsbD_enables_writeEnables (s : State) (v : Word) (i : Fin 12) :
    (writeEnables s (v.setWidth 12)).regs.enables.getLsbD i = v.getLsbD i := by
  simp [writeEnables]

/-- A register value is not zero when one of its bits is set. -/
theorem ne_zero_iff_exists_getLsbD {w : Nat} (b : BitVec w) : b ≠ 0 ↔ ∃ i : Fin w, b.getLsbD i = true := by
  constructor
  · intro hne
    by_contra hnone
    refine hne (BitVec.eq_of_getLsbD_eq fun i hi => ?_)
    simpa using fun hset => hnone ⟨⟨i, hi⟩, hset⟩
  · rintro ⟨i, hset⟩ rfl
    simp at hset

/-- ALERT_N is asserted when some flag and its enable are both set (R166). -/
theorem alertAsserted_iff (s : State) :
    alertAsserted s = true ↔ ∃ i : Fin 12, s.regs.flags.getLsbD i = true ∧ s.regs.enables.getLsbD i = true := by
  simp only [alertAsserted, bne_iff_ne, ne_zero_iff_exists_getLsbD, BitVec.getLsbD_and, Bool.and_eq_true]

/-! ## The flags that stay set -/

theorem FlagsKept.trans {a b c : Regs} (hab : FlagsKept a b) (hbc : FlagsKept b c) : FlagsKept a c :=
  fun i hi => hbc i (hab i hi)

/-- A move that changes the registers carries that it keeps their flags; every other move leaves the registers. -/
theorem Move.keepsFlags {s t : State} (h : Move s t) : FlagsKept s.regs t.regs := by
  cases h with
  | regs _ _ hf => exact hf
  | ranged _ _ hf => exact hf
  | _ => exact .rfl' _

theorem Path.keepsFlags {s t : State} (h : Path s t) : FlagsKept s.regs t.regs :=
  h.keeps (P := fun u => FlagsKept s.regs u.regs) (fun _ _ hm hu => hu.trans hm.keepsFlags) (.rfl' _)

@[simp] theorem sendHead_regs (s : State) : (sendHead s).regs = s.regs := by
  simp [sendHead_fields s]

/-- RESPONSE_SEND is a chain of moves from the state without the head of the egress queue. -/
theorem execResponseSend_keepsFlags {s t : State} (h : execResponseSend s = .next t) : FlagsKept s.regs t.regs := by
  have kept := (execResponseSend_path s t h).keepsFlags
  rwa [sendHead_regs] at kept

/-- No command but HARD_RESET and EVENT_FLAGS_CLEAR clears a flag (R166). -/
theorem exec_keepsFlags {c : Instr} {s t : State} (hc : ∀ b, c ≠ .hardReset b) (hf : ∀ v, c ≠ .eventFlagsClear v)
    (h : exec c s = .next t) : FlagsKept s.regs t.regs := by
  by_cases hr : c = .responseSend
  · subst hr
    exact execResponseSend_keepsFlags h
  · exact (exec_path c s t hc hr hf h).keepsFlags

/-- Settles O48: the two writes bit by bit, ALERT_N by the conjunction of flags and enables, the chains of moves for the
commands that keep the flags, and the reset values computed. -/
theorem eventFlagsEnablesAndAlert : Obligations.EventFlagsEnablesAndAlert := by
  refine ⟨fun s v => ⟨?clear, ?enable, alertAsserted_iff s⟩, fun c s t hc hf h f => ?kept, rfl, rfl, by decide⟩
  case clear => exact ⟨clearFlags s (v.setWidth 12), rfl, getLsbD_flags_clearFlags s v, rfl⟩
  case enable => exact ⟨writeEnables s (v.setWidth 12), rfl, getLsbD_enables_writeEnables s v, rfl⟩
  case kept => exact exec_keepsFlags hc hf h f.index

end Sys2Proof.Machine

/-! PROOF. The laws that every move keeps: the credits (R159), the media port's same-line rule and tags (R151, R152), and the
ranges of the configuration registers (R165). -/

namespace Sys2Proof.Machine

/-! ## Credits (R159) -/

/-- The credit law reads the ingress queues and the credits alone. -/
theorem CreditLaw.of_fabric {s t : State} (h : CreditLaw s) (hi : t.fabric.ingress = s.fabric.ingress)
    (hc : t.fabric.credits = s.fabric.credits) : CreditLaw t := by
  intro st
  simpa only [ingressOf, hi, hc] using h st

/-- A freed head returns its credit. -/
theorem freeHead_credits {s : State} {st : Stream} (hne : ingressOf s st ≠ []) (h : CreditLaw s) :
    CreditLaw (freeHead s st) := by
  intro u
  have hu := h u
  have hpos := List.length_pos_iff.2 hne
  by_cases hst : st = u
  · subst hst
    simp only [ingressOf, freeHead, PerStream.read_write, if_true, List.length_tail] at hu hpos ⊢
    omega
  · simpa [ingressOf, freeHead, hst] using hu

/-- Each move keeps a stream's entries and credits at eight together: only an arrival and a freed head change them, one
for the other. -/
theorem Move.keepsCredits {s t : State} (h : Move s t) (hs : CreditLaw s) : CreditLaw t := by
  cases h with
  | fabric f hi hc he => exact hs.of_fabric hi hc
  | freeHead st hne => exact freeHead_credits hne hs
  | answered status =>
    intro u
    simpa [ingressOf, PerStream.read] using hs u
  | arrival e st n hlt =>
    intro u
    have hu := hs u
    by_cases hst : st = u
    · subst hst
      simp only [ingressOf, PerStream.read_write, if_true, List.length_append, List.length_singleton] at hu hlt ⊢
      omega
    · simpa [ingressOf, hst] using hu
  | _ => exact hs.of_fabric rfl rfl

theorem resetWith_credits (cs : List Instr) (b : Bool) : CreditLaw (resetWith cs b) := by
  intro st
  simp [ingressOf, resetWith, State.reset, Fabric.reset, PerStream.read]

/-- Settles O56: every move keeps the law, and so do reset, the clock, a sent response and cleared flags. -/
theorem stepsKeepCredits : Obligations.StepsKeepCredits :=
  fun s t => step_keeps CreditLaw (fun _ _ => Move.keepsCredits) resetWith_credits (fun _ _ h => h) (fun _ h => h)
    (fun s h => h.of_fabric (by simp [sendHead_fields s]) (by simp [sendHead_fields s])) (fun _ _ h => h) s t

/-! ## The media port's rules (R151, R152) -/

/-- Two requests with a common line, both outstanding, are reads (R152). -/
def SameLineOk (q r : MediaReq) : Prop :=
  q.outstanding = true → r.outstanding = true → q.line = r.line → q.isRead = true ∧ r.isRead = true

/-- Two requests have no tag in common (R151). -/
def TagsApart (q r : MediaReq) : Prop := ∀ t, q.tag? = some t → r.tag? ≠ some t

theorem SameLineOk.symm {q r : MediaReq} (h : SameLineOk q r) : SameLineOk r q :=
  fun hr hq hl => (h hq hr hl.symm).symm

theorem TagsApart.symm {q r : MediaReq} (h : TagsApart q r) : TagsApart r q := fun t hr hq => h t hq hr

theorem sameLineLaw_iff (s : State) : SameLineLaw s ↔ s.media.requests.Pairwise SameLineOk := Iff.rfl

theorem tagLaw_iff (s : State) : TagLaw s ↔ s.media.requests.Pairwise TagsApart := Iff.rfl

/-- A request that is ready has no tag. -/
theorem tag?_of_ready {r : MediaReq} (h : r.state = .ready) : r.tag? = none := by simp [MediaReq.tag?, h]

/-- A symmetric relation that holds pairwise holds still when one element changes and the new one is related to all the
others. -/
theorem pairwise_set {α : Type} {R : α → α → Prop} (symm : ∀ {a b}, R a b → R b a) {l : List α} {i : Nat} {x : α}
    (h : l.Pairwise R) (hx : ∀ q ∈ l.eraseIdx i, R q x) : (l.set i x).Pairwise R := by
  induction l generalizing i with
  | nil => simp
  | cons a l ih =>
    rw [List.pairwise_cons] at h
    cases i with
    | zero =>
      rw [List.set_cons_zero, List.pairwise_cons]
      exact ⟨fun b hb => symm (hx b (by simpa using hb)), h.2⟩
    | succ i =>
      rw [List.eraseIdx_cons_succ] at hx
      rw [List.set_cons_succ, List.pairwise_cons]
      refine ⟨fun b hb => ?_, ih h.2 fun q hq => hx q (List.mem_cons_of_mem _ hq)⟩
      obtain hb | rfl := List.mem_or_eq_of_mem_set hb
      · exact h.1 b hb
      · exact hx a List.mem_cons_self

/-- An element of a pairwise list is related to every other element of it. -/
theorem pairwise_eraseIdx {α : Type} {R : α → α → Prop} (symm : ∀ {a b}, R a b → R b a) {l : List α} {i : Nat} {x : α}
    (h : l.Pairwise R) (hi : l[i]? = some x) : ∀ q ∈ l.eraseIdx i, R q x := by
  induction l generalizing i with
  | nil => simp at hi
  | cons a l ih =>
    rw [List.pairwise_cons] at h
    cases i with
    | zero =>
      obtain rfl : a = x := by simpa using hi
      exact fun q hq => symm (h.1 q (by simpa using hq))
    | succ i =>
      rw [List.eraseIdx_cons_succ]
      intro q hq
      obtain rfl | hq := List.mem_cons.1 hq
      · exact h.1 x (List.mem_of_getElem? (by simpa using hi))
      · exact ih h.2 (by simpa using hi) q hq

/-- What a move may do to the port's requests: leave them, take some away, add some that are ready, issue one, or change
states under their tags. A relation that is kept by each of these holds pairwise after every move. -/
theorem Move.keepsPairwise {R : MediaReq → MediaReq → Prop} (symm : ∀ {a b}, R a b → R b a)
    (ready : ∀ q r, r.state = .ready → R q r)
    (issued : ∀ (s : State) (i : Nat) (r : MediaReq) (t : MediaTag) (n d : Nat), s.media.requests.Pairwise R →
      s.media.requests[i]? = some r → (r.tag? = some t ∨ (r.tag? = none ∧ tagRecord s t = none)) →
      (∀ q ∈ s.media.requests.eraseIdx i,
        q.outstanding = true → q.line ≠ r.line ∨ (q.isRead = true ∧ r.isRead = true)) →
      ∀ q ∈ s.media.requests.eraseIdx i, R q { r with state := .issued t n d })
    (restated : ∀ f : MediaReq → MediaReq, (∀ r, (f r).tag? = r.tag?) → (∀ r, (f r).line = r.line) →
      (∀ r, (f r).write = r.write) → ∀ q r, R q r → R (f q) (f r))
    {s t : State} (h : Move s t) (hs : s.media.requests.Pairwise R) : t.media.requests.Pairwise R := by
  cases h with
  | media m hm => exact hs.sublist hm
  | handed rs hr =>
    refine List.pairwise_append.2 ⟨hs, ?_, fun q _ r hrs => ready q r (hr r hrs)⟩
    exact List.pairwise_iff_forall_sublist.2 fun {q r} hqr => ready q r (hr r (hqr.subset (by simp)))
  | issued i r t n d hi ht hl => exact pairwise_set symm hs (issued s i r t n d hs hi ht hl)
  | restated f ht hl hw => exact hs.map f fun q r => restated f ht hl hw q r
  | _ => exact hs

theorem Move.keepsSameLine {s t : State} (h : Move s t) (hs : SameLineLaw s) : SameLineLaw t := by
  refine h.keepsPairwise (R := SameLineOk) SameLineOk.symm ?ready ?issued ?restated hs
  case ready =>
    intro q r hr _ ho
    simp [MediaReq.outstanding, tag?_of_ready hr] at ho
  case issued =>
    intro s i r t n d _ _ _ hl q hq ho _ hline
    exact (hl q hq ho).resolve_left (fun hne => hne hline)
  case restated =>
    intro f ht hl hw q r h ho ho' hline
    simp only [MediaReq.outstanding, MediaReq.isRead, ht, hl, hw] at *
    exact h ho ho' hline

theorem Move.keepsTags {s t : State} (h : Move s t) (hs : TagLaw s) : TagLaw t := by
  refine h.keepsPairwise (R := TagsApart) TagsApart.symm ?ready ?issued ?restated hs
  case ready =>
    intro q r hr t _
    simp [tag?_of_ready hr]
  case issued =>
    intro s i r t n d hs hi ht _ q hq u hu
    have own : MediaReq.tag? { r with state := .issued t n d } = some t := rfl
    rw [own]
    obtain hr | ⟨-, hfree⟩ := ht
    · rintro ⟨⟩
      exact pairwise_eraseIdx TagsApart.symm hs hi q hq _ hu hr
    · rintro ⟨⟩
      have := List.find?_eq_none.1 hfree q (List.mem_of_mem_eraseIdx hq)
      simp [hu] at this
  case restated =>
    intro f ht _ _ q r h u
    simpa only [ht] using h u

@[simp] theorem sendHead_media (s : State) : (sendHead s).media = s.media := by
  simp [sendHead_fields s]

/-- Settles O57: each of the two rules is a symmetric relation between requests that every move keeps pairwise. -/
theorem stepsKeepTheMediaRules : Obligations.StepsKeepTheMediaRules := by
  refine ⟨fun s t => ?sameLine, fun s t => ?tags⟩
  case sameLine =>
    refine step_keeps SameLineLaw (fun _ _ => Move.keepsSameLine) (fun _ _ => .nil) (fun _ _ h => h) (fun _ h => h)
      (fun s h => ?_) (fun _ _ h => h) s t
    rwa [SameLineLaw, sendHead_media]
  case tags =>
    refine step_keeps TagLaw (fun _ _ => Move.keepsTags) (fun _ _ => .nil) (fun _ _ h => h) (fun _ h => h)
      (fun s h => ?_) (fun _ _ h => h) s t
    rwa [TagLaw, sendHead_media]

/-! ## Ranges (R165) -/

/-- The range of each configuration register, in their order in `Regs.config` (R165). -/
def configRanges : List (Nat × Nat) :=
  [(1, 256), (1, 65535), (0, 65535), (1, 4095), (0, 15), (1, 65535), (2, 16), (1, 64)]

/-- Every value of a list of register values lies in its register's range. -/
def InRanges (config : List Nat) : Prop :=
  ∀ (i v : Nat), config[i]? = some v → ∃ low high, configRanges[i]? = some (low, high) ∧ low ≤ v ∧ v ≤ high

/-- The law of ranges says of each register that its value lies in its range. -/
theorem rangeLaw_iff (s : State) : RangeLaw s ↔ InRanges s.regs.config := by
  constructor
  · rintro ⟨h0, h1, h2, h3, h4, h5, h6, h7⟩ i v hv
    have hi : i < 8 := (List.getElem?_eq_some_iff.1 hv).1
    interval_cases i <;> simp [Regs.config] at hv <;> subst hv <;> simp [configRanges] <;> omega
  · intro h
    have h0 := h 0 _ rfl
    have h1 := h 1 _ rfl
    have h2 := h 2 _ rfl
    have h3 := h 3 _ rfl
    have h4 := h 4 _ rfl
    have h5 := h 5 _ rfl
    have h6 := h 6 _ rfl
    have h7 := h 7 _ rfl
    simp only [configRanges, List.getElem?_cons_zero, List.getElem?_cons_succ, Option.some.injEq, Prod.mk.injEq,
      exists_and_left, exists_eq_left', and_assoc] at h0 h1 h2 h3 h4 h5 h6 h7
    exact ⟨h0, h1, h2.2, h3, h4.2, h5, h6, h7⟩

theorem Move.keepsRanges {s t : State} (h : Move s t) (hs : InRanges s.regs.config) : InRanges t.regs.config := by
  cases h with
  | regs r hr _ => exact hr ▸ hs
  | ranged r hr _ => exact fun i v hv => (hr i v hv).elim (hs i v) id
  | _ => exact hs

/-- Settles O59: a move leaves a configuration register as it is or gives it a value of its range. -/
theorem stepsKeepRegisterRanges : Obligations.StepsKeepRegisterRanges := by
  intro s t h
  rw [rangeLaw_iff, rangeLaw_iff]
  refine step_keeps (fun s => InRanges s.regs.config) (fun _ _ => Move.keepsRanges) ?reset (fun _ _ h => h)
    (fun _ h => h) (fun s h => ?_) (fun _ _ h => h) s t h
  case reset => exact fun cs b => (rangeLaw_iff (resetWith cs b)).1 (by simp [RangeLaw, resetWith, State.reset, Regs.reset])
  case _ => rwa [sendHead_regs]

end Sys2Proof.Machine

/-! PROOF. The staging bounds, the depths, the law of slot freeing (R36) and one held write for each stream (R43): what the
shared operations keep. -/

namespace Sys2Proof.Machine

/-! ## Staging bounds and depths: kept by every move -/

theorem insertSlot_perm (v : Slot) (l : List Slot) : (insertSlot v l).Perm (v :: l) := by
  induction l with
  | nil => exact .refl _
  | cons u us ih =>
    unfold insertSlot
    split
    · exact .refl _
    · exact (ih.cons u).trans (.swap v u us)

theorem mem_insertSlot {v u : Slot} {l : List Slot} : u ∈ insertSlot v l ↔ u = v ∨ u ∈ l := by
  simpa using (insertSlot_perm v l).mem_iff (a := u)

/-- A slot of a new number put into its place keeps the numbers rising. -/
theorem insertSlot_pairwise {v : Slot} {l : List Slot} (h : (l.map Slot.num).Pairwise (· < ·))
    (hv : v.num ∉ l.map Slot.num) : ((insertSlot v l).map Slot.num).Pairwise (· < ·) := by
  induction l with
  | nil => simp [insertSlot]
  | cons u us ih =>
    simp only [List.map_cons, List.pairwise_cons, List.mem_cons, not_or] at h hv
    unfold insertSlot
    split
    · rename_i hlt
      simp only [List.map_cons, List.pairwise_cons]
      refine ⟨fun n hn => ?_, h⟩
      obtain rfl | hn := List.mem_cons.1 hn
      · exact hlt
      · exact hlt.trans (h.1 n hn)
    · simp only [List.map_cons, List.pairwise_cons]
      refine ⟨fun n hn => ?_, ih h.2 hv.2⟩
      obtain ⟨w, hw, rfl⟩ := List.mem_map.1 hn
      obtain rfl | hw := mem_insertSlot.1 hw
      · omega
      · exact h.1 _ (List.mem_map_of_mem hw)

/-- A move keeps the staging bounds: slots shrink, or one of a FREE number below 1024 is added under the quota. -/
theorem Move.keepsStaging {s t : State} (h : Move s t) (hs : StagingLaw s) : StagingLaw t := by
  obtain ⟨hrise, hlow, hquota⟩ := hs
  cases h with
  | slots g h =>
    obtain ⟨hsub, hopen⟩ := h
    refine ⟨hrise.sublist hsub, fun v hv => ?_, hopen.trans hquota⟩
    obtain ⟨u, hu, hn⟩ := List.mem_map.1 (hsub.subset (List.mem_map_of_mem hv))
    exact hn ▸ hlow u hu
  | slotAdded g h =>
    obtain ⟨v, c, hv, hc, hfree, hg, hopen⟩ := h
    rw [← hc] at hrise hfree
    refine ⟨?_, fun u hu => ?_, ?_⟩
    · simpa only [hg] using insertSlot_pairwise hrise hfree
    · simp only [hg, mem_insertSlot] at hu
      obtain rfl | hu := hu
      · exact hv
      · obtain ⟨w, hw, hn⟩ := List.mem_map.1 (hc ▸ List.mem_map_of_mem (f := Slot.num) hu)
        exact hn ▸ hlow w hw
    · simp only [openSlots] at hquota ⊢
      omega
  | _ => exact ⟨hrise, hlow, hquota⟩

theorem Path.keepsStaging {s t : State} (h : Path s t) (hs : StagingLaw s) : StagingLaw t :=
  h.keeps (fun _ _ => Move.keepsStaging) hs

/-- A move keeps the depths: a queue grows by one only when it has room. -/
theorem Move.keepsDepths {s t : State} (h : Move s t) (hs : DepthLaw s) : DepthLaw t := by
  obtain ⟨hq, hp, hr⟩ := hs
  cases h with
  | groups g h => exact ⟨h.trans hq, hp, hr⟩
  | sealed g h hg => exact ⟨hg ▸ h, hp, hr⟩
  | posted p h => exact ⟨hq, h.trans hp, hr⟩
  | postedAdded p h hp' => exact ⟨hq, hp' ▸ h, hr⟩
  | reads es h => exact ⟨hq, hp, h.trans hr⟩
  | readAdded e h => exact ⟨hq, hp, by simpa using h⟩
  | _ => exact ⟨hq, hp, hr⟩

/-! ## Held writes and freed slots -/

/-- The streams of the writes in the wait list. -/
def waitStreams (s : State) : List Stream := s.claims.waitList.map fun r => r.write.stream

/-- The streams of the writes in the slot-wait list. -/
def slotStreams (s : State) : List Stream := s.staging.slotWait.map HeldWrite.stream

/-- No stream has two writes held: none in either list twice, none in both. -/
theorem heldLaw_iff (s : State) :
    HeldLaw s ↔ (waitStreams s).Nodup ∧ (slotStreams s).Nodup ∧ ∀ st ∈ waitStreams s, st ∉ slotStreams s := by
  simp only [HeldLaw, heldWrites, List.map_append, List.map_map, List.nodup_append, waitStreams, slotStreams]
  exact and_congr_right fun _ => and_congr_right fun _ =>
    ⟨fun h st hw hs => h st hw st hs rfl, fun h a ha b hb hab => h a ha (hab ▸ hb)⟩

theorem inWaitList_iff (s : State) (st : Stream) : inWaitList s st = true ↔ st ∈ waitStreams s := by
  simp [inWaitList, waitStreams]

theorem inSlotWait_iff (s : State) (st : Stream) : inSlotWait s st = true ↔ st ∈ slotStreams s := by
  simp [inSlotWait, slotStreams]

/-- Writes that leave their lists leave no stream with two. -/
theorem HeldLaw.of_sublist {s t : State} (h : HeldLaw s) (hw : t.claims.waitList.Sublist s.claims.waitList)
    (hs : t.staging.slotWait.Sublist s.staging.slotWait) : HeldLaw t :=
  List.Nodup.sublist (((hw.map WaitRecord.write).append hs).map HeldWrite.stream) h

/-- The law of slot freeing for one slot (R36). -/
def Slot.Kept (v : Slot) : Prop := (v.state = .spent ∨ v.state = .aborted) → 0 < v.pins

theorem freeingLaw_iff (s : State) : FreeingLaw s ↔ ∀ v ∈ s.staging.slots, v.Kept := Iff.rfl

/-- What a part of an event keeps: the staging bounds, the law of slot freeing, and the law of held writes where `p`
holds. -/
structure CalmIf (p : Prop) (s t : State) : Prop where
  staging : StagingLaw s → StagingLaw t
  held : p → HeldLaw s → HeldLaw t
  freed : StagingLaw s → FreeingLaw s → FreeingLaw t

/-- A part of an event that keeps the three laws. -/
abbrev Calm (s t : State) : Prop := CalmIf True s t

theorem Calm.refl (s : State) : Calm s s := ⟨id, fun _ => id, fun _ => id⟩

theorem CalmIf.of {p : Prop} {s t : State} (h : CalmIf p s t) (hp : p) : Calm s t := ⟨h.staging, fun _ => h.held hp, h.freed⟩

theorem Calm.when {s t : State} (h : Calm s t) (p : Prop) : CalmIf p s t := ⟨h.staging, fun _ => h.held trivial, h.freed⟩

theorem Calm.trans {s t u : State} (h : Calm s t) (k : Calm t u) : Calm s u :=
  ⟨fun x => k.staging (h.staging x), fun hp x => k.held hp (h.held hp x),
    fun x y => k.freed (h.staging x) (h.freed x y)⟩

/-- A part that touches neither the wait list nor the buffer. -/
theorem Calm.still {s t : State} (hc : t.claims = s.claims) (hs : t.staging = s.staging) : Calm s t :=
  ⟨fun x => by rwa [StagingLaw, openSlots, hs], fun _ x => x.of_sublist (by rw [hc]) (by rw [hs]), fun _ x => by rwa [freeingLaw_iff, hs]⟩

/-- Something that touches neither the wait list nor the buffer, and then a part. -/
theorem Calm.after {s t u : State} (k : Calm t u) (hc : t.claims = s.claims) (hs : t.staging = s.staging) : Calm s u :=
  (Calm.still hc hs).trans k

/-- A chain that takes held writes away at most, and leaves each slot that a law speaks of pinned. -/
theorem Calm.ofSlots {s t : State} (h : Path s t) (hc : t.claims.waitList.Sublist s.claims.waitList)
    (hw : t.staging.slotWait.Sublist s.staging.slotWait)
    (hs : FreeingLaw s → ∀ v ∈ t.staging.slots, v.Kept) : Calm s t :=
  ⟨h.keepsStaging, fun _ x => x.of_sublist hc hw, fun _ x => hs x⟩

theorem Calm.foldl {α : Type} {f : State → α → State} (h : ∀ s a, Calm s (f s a)) (l : List α) (s : State) :
    Calm s (l.foldl f s) := by
  induction l generalizing s with
  | nil => exact .refl _
  | cons a l ih => exact (h s a).trans (ih (f s a))

theorem Calm.foldlWork {α : Type} {f : Work → α → Work} (h : ∀ w a, Calm w.s (f w a).s) (l : List α) (w : Work) :
    Calm w.s (l.foldl f w).s := by
  induction l generalizing w with
  | nil => exact .refl _
  | cons a l ih => exact (h w a).trans (ih (f w a))

theorem Calm.ite {s t u : State} {p : Prop} [Decidable p] (h1 : p → Calm s t) (h2 : ¬p → Calm s u) :
    Calm s (if p then t else u) := by
  split
  · exact h1 ‹_›
  · exact h2 ‹_›

/-! ### Operations that leave the wait list and the buffer alone -/

theorem enterHeldAnswers_still (n : Nat) (s : State) :
    (enterHeldAnswers n s).claims = s.claims ∧ (enterHeldAnswers n s).staging = s.staging := by
  induction n generalizing s with
  | zero => exact ⟨rfl, rfl⟩
  | succ n ih =>
    unfold enterHeldAnswers
    split
    · exact ⟨rfl, rfl⟩
    · split
      · exact ih _
      · exact ⟨rfl, rfl⟩

theorem settleHeldAnswers_calm (s : State) : Calm s (settleHeldAnswers s) :=
  .still (enterHeldAnswers_still _ _).1 (enterHeldAnswers_still _ _).2

theorem answerQueues_calm (s : State) (x : Status) : Calm s (answerQueues s x) :=
  .still (enterHeldAnswers_still _ _).1 (enterHeldAnswers_still _ _).2

theorem tryAnswer_still (s : State) (n : Serial) :
    (tryAnswer s n).claims = s.claims ∧ (tryAnswer s n).staging = s.staging := by
  unfold tryAnswer
  split
  · exact ⟨rfl, rfl⟩
  · split
    · split <;> exact ⟨rfl, rfl⟩
    · exact ⟨rfl, rfl⟩

theorem tryAnswer_calm (s : State) (n : Serial) : Calm s (tryAnswer s n) :=
  .still (tryAnswer_still s n).1 (tryAnswer_still s n).2

theorem answerOwed_calm (s : State) : Calm s (answerOwed s) := .foldl tryAnswer_calm _ s

theorem raiseTrigger_calm (s : State) : Calm s (raiseTrigger s) :=
  .still (by simp) (by simp)

theorem raiseIf_calm (s : State) (p : Bool) : Calm s (if p then raiseTrigger s else s) :=
  .ite (fun _ => raiseTrigger_calm s) fun _ => .refl s

theorem relocTrigger_calm (b s : State) : Calm s (relocTrigger b s) := raiseIf_calm s _

theorem sendOwed_calm (s : State) (e : Entry) : Calm s (sendOwed s e) := by
  refine .still ?_ ?_
  all_goals
    unfold sendOwed
    split
    · rfl
    · rfl
    · split <;> rfl
    · split <;> rfl

theorem disposeEntry_calm (s : State) (e : Entry) : Calm s (disposeEntry s e) := by
  refine .still ?_ ?_
  all_goals
    unfold disposeEntry
    split
    · rfl
    · rfl
    · split <;> rfl
    · split <;> rfl

theorem cancelReloc_calm (s : State) : Calm s (cancelReloc s) := by
  refine .still ?_ ?_
  all_goals
    unfold cancelReloc
    split <;> rfl

theorem dropPosted_calm (s : State) : Calm s (dropPosted s) :=
  (Calm.foldl (f := fun t p => countLost t p.stream) (fun _ _ => .still rfl rfl) s.posted.records s).trans
    (.still rfl rfl)

theorem faultReport_calm (s : State) : Calm s (faultReport s) := by
  refine .still ?_ ?_
  all_goals
    unfold faultReport
    split
    · rfl
    · split <;> rfl
    all_goals rfl

theorem markFaultLoss_calm (s : State) : Calm s (markFaultLoss s) := by
  refine .still ?_ ?_
  all_goals
    unfold markFaultLoss
    split <;> rfl

/-! ### Slots -/

theorem mapSlots_calm {s : State} {ns : List Nat} {f : Slot → Slot} (h : Path s (mapSlots s ns f))
    (hf : ∀ v ∈ s.staging.slots, v.num ∈ ns → v.Kept → (f v).Kept) : Calm s (mapSlots s ns f) := by
  refine .ofSlots h (.refl _) (.refl _) fun hs u hu => ?_
  obtain ⟨v, hv, rfl⟩ := List.mem_map.1 hu
  split
  · exact hf v hv ‹_› (hs v hv)
  · exact hs v hv

/-- Slots that pass into a state of an entry are none that the law of slot freeing speaks of. -/
theorem relabel_calm (s : State) (ns : List Nat) (x : QueueState) :
    Calm s (mapSlots s ns fun v => { v with state := x.slotState }) := by
  refine mapSlots_calm (relabel_path s ns _ (by cases x <;> decide)) fun v _ _ _ h => ?_
  cases x <;> simp [QueueState.slotState] at h

theorem pin_calm (s : State) (ns : List Nat) : Calm s (pin s ns) :=
  mapSlots_calm (pin_path s ns) fun _ _ _ _ _ => Nat.succ_pos _

theorem endVersions_calm (w : Work) (ns : List Nat) (x : SlotState) (hx : x ≠ .opened) :
    Calm w.s (endVersions w ns x).s := by
  refine .ofSlots (endVersions_path w ns x hx) (.refl _) (.refl _) fun hs u hu => ?_
  obtain ⟨v, hv, hu⟩ := List.mem_filterMap.1 hu
  unfold endSlot at hu
  split at hu
  · split at hu
    · cases hu
    · cases hu
      exact fun _ => Nat.pos_of_ne_zero ‹_›
  · cases hu
    exact hs _ hv

theorem abortVersions_calm (w : Work) (ns : List Nat) : Calm w.s (abortVersions w ns).s :=
  endVersions_calm w ns .aborted (by decide)

theorem abortQuietly_calm (s : State) (ns : List Nat) : Calm s (abortQuietly s ns) :=
  endVersions_calm (Work.start s) ns .aborted (by decide)

theorem unpin_calm (w : Work) (ns : List Nat) : Calm w.s (unpin w ns).s := by
  refine .ofSlots (unpin_path w ns) (.refl _) (.refl _) fun hs u hu => ?_
  obtain ⟨v, hv, hu⟩ := List.mem_filterMap.1 hu
  unfold unpinSlot at hu
  split at hu
  · split at hu
    · cases hu
    · rename_i hnot
      cases hu
      exact fun hstate => Nat.pos_of_ne_zero fun hpins => hnot ⟨hpins, hstate⟩
  · cases hu
    exact hs _ hv

theorem reinitStaging_calm (s : State) : Calm s (reinitStaging s) :=
  .ofSlots (reinitStaging_path s) (.refl _) (List.nil_sublist _) fun _ v hv => by cases hv

/-! ### Guarded writes -/

theorem leaveSlotWait_calm (s : State) (st : Stream) : Calm s (leaveSlotWait s st) :=
  .ofSlots (leaveSlotWait_path s st) (.refl _) List.filter_sublist id

theorem leaveWaitList_calm (s : State) (st : Stream) : Calm s (leaveWaitList s st) :=
  .ofSlots (leaveWaitList_path s st) List.filter_sublist (.refl _) id

theorem setRecord_calm (s : State) (st : Stream) (r : GroupRecord) : Calm s (setRecord s st r) :=
  .still rfl rfl

theorem countAborted_calm (s : State) : Calm s (countAborted s) := .still rfl rfl

theorem answerTaken_calm (s : State) (r : Response) : Calm s (answerTaken s r) := .still rfl rfl

theorem doom_calm (w : Work) (st : Stream) (r : DoomReason) : Calm w.s (doom w st r).s := by
  unfold doom
  split
  · exact .refl _
  · exact (setRecord_calm _ _ _).trans (countAborted_calm _)
  · exact (abortVersions_calm w _).trans ((setRecord_calm _ _ _).trans (countAborted_calm _))

theorem refuseWrite_calm (w : Work) (h : HeldWrite) (r : DoomReason) : Calm w.s (refuseWrite w h r).s :=
  (leaveSlotWait_calm w.s h.stream).trans
    ((doom_calm { w with s := leaveSlotWait w.s h.stream } h.stream r).trans (answerTaken_calm _ _))

theorem answerStaged_calm (s : State) (h : HeldWrite) : Calm s (answerStaged s h) :=
  (leaveSlotWait_calm s h.stream).trans (answerTaken_calm _ _)

theorem mergeInPlace_calm (s : State) (h : HeldWrite) (v : Slot) : Calm s (mergeInPlace s h v) := by
  have merged : Path s (mapSlots s [v.num] (mergeInto h)) :=
    mapSlots_path s [v.num] (mergeInto h) (fun _ => rfl) fun _ => id
  exact ((mapSlots_calm merged fun _ _ _ => id).trans (setRecord_calm _ _ _)).trans (answerStaged_calm _ h)

/-- A slot of the list with a number is the only one, when numbers rise. -/
theorem StagingLaw.eq_of_num {s : State} (h : StagingLaw s) {v u : Slot} (hv : v ∈ s.staging.slots)
    (hu : u ∈ s.staging.slots) (hn : u.num = v.num) : u = v :=
  Option.some.inj ((h.slotAt_of_mem hu).symm.trans (hn ▸ h.slotAt_of_mem hv))

/-- A merge by copy detaches a version that a read pins, and the copy is OPEN. -/
theorem mergeByCopy_calm {s : State} {h : HeldWrite} {v : Slot} {c : Nat} (hc : freeSlot? s = some c)
    (hv : v ∈ s.staging.slots) (ho : v.state = .opened) (hp : v.pins ≠ 0) : Calm s (mergeByCopy s h v c) := by
  refine ⟨(mergeByCopy_path s h v c hc hv ho).keepsStaging, fun _ hs => hs.of_sublist (.refl _) List.filter_sublist, fun hst hs => ?_⟩
  intro u hu
  obtain rfl | hu := mem_insertSlot.1 hu
  · intro hstate
    simp [mergeInto, ho] at hstate
  · obtain ⟨x, hx, rfl⟩ := List.mem_map.1 hu
    split
    · rename_i hn
      obtain rfl := hst.eq_of_num hv hx (by simpa using hn)
      exact fun _ => Nat.pos_of_ne_zero hp
    · exact hs x hx

theorem stageNew_calm {s : State} {h : HeldWrite} {c : Nat} (hc : freeSlot? s = some c)
    (hq : openSlots s < Config.openQuota) : Calm s (stageNew s h c) := by
  refine .ofSlots (stageNew_path s h c hc hq) (.refl _) List.filter_sublist fun hs u hu => ?_
  obtain rfl | hu := mem_insertSlot.1 hu
  · intro hstate
    simp [newVersion] at hstate
  · exact hs u hu

/-- What the checks of R3 from check 3 on do to the lists of held writes: the wait list stays, and the write joins the slot
wait, or is in it no more. -/
theorem fromCheck3_lists (w : Work) (h : HeldWrite) : (fromCheck3 w h).s.claims = w.s.claims := by
  have refused (r : DoomReason) : (refuseWrite w h r).s.claims = w.s.claims := by
    unfold refuseWrite doom
    split <;> rfl
  have joined : (joinSlotWait w.s h).claims = w.s.claims := by
    unfold joinSlotWait
    split <;> rfl
  unfold fromCheck3 fromCheck4
  split
  · split
    · exact refused _
    · split
      · exact refused _
      · split
        · exact joined
        · rfl
  · split
    · rfl
    · split
      · exact joined
      · rfl

/-- A write whose stream does not wait for a line may join the slot wait. -/
theorem joinSlotWait_calm (s : State) (h : HeldWrite) : CalmIf (h.stream ∉ waitStreams s) s (joinSlotWait s h) := by
  refine ⟨(joinSlotWait_path s h).keepsStaging, fun hw hs => ?_, fun _ hs => ?_⟩
  · unfold joinSlotWait
    split
    · exact hs
    · rename_i hnot
      rw [inSlotWait_iff] at hnot
      rw [heldLaw_iff] at hs ⊢
      obtain ⟨hwait, hslot, hapart⟩ := hs
      simp only [slotStreams, waitStreams, List.map_append, List.map_cons, List.map_nil, List.nodup_append,
        List.mem_append, List.mem_singleton, not_or] at *
      refine ⟨hwait, ⟨hslot, by simp, fun a ha b hb => ?_⟩, fun st hst => ⟨hapart st hst, ?_⟩⟩
      · rintro rfl
        exact hnot (hb ▸ ha)
      · rintro rfl
        exact hw hst
  · unfold joinSlotWait
    split <;> exact hs

theorem fromCheck4_calm (w : Work) (h : HeldWrite) : CalmIf (h.stream ∉ waitStreams w.s) w.s (fromCheck4 w h).s := by
  unfold fromCheck4
  split
  · exact (refuseWrite_calm w h _).when _
  · split
    · exact (refuseWrite_calm w h _).when _
    · split
      · exact joinSlotWait_calm w.s h
      · exact (stageNew_calm ‹_› (by omega)).when _

theorem fromCheck3_calm (w : Work) (h : HeldWrite) : CalmIf (h.stream ∉ waitStreams w.s) w.s (fromCheck3 w h).s := by
  unfold fromCheck3
  split
  · exact fromCheck4_calm w h
  · obtain ⟨hv, ho⟩ := openVersion_spec ‹_›
    split
    · exact (mergeInPlace_calm _ _ _).when _
    · split
      · exact joinSlotWait_calm w.s h
      · exact (mergeByCopy_calm ‹_› hv ho ‹_›).when _

/-- The claim unit sends a write to the wait list when its stream has none there. -/
theorem claimDecision_calm (w : Work) (h : HeldWrite) (t : Stream) :
    CalmIf (h.stream ∉ waitStreams w.s) w.s (claimDecision w h t).s := by
  unfold claimDecision
  split
  · exact (refuseWrite_calm w h _).when _
  · refine ⟨(leaveSlotWait_calm w.s h.stream).staging, fun hw hs => ?_, fun _ hs => hs⟩
    rw [heldLaw_iff] at hs ⊢
    obtain ⟨hwait, hslot, hapart⟩ := hs
    simp only [slotStreams, waitStreams, joinWaitList, leaveSlotWait, List.map_append, List.map_cons, List.map_nil,
      List.nodup_append, List.mem_append, List.mem_singleton] at *
    refine ⟨⟨hwait, by simp, fun a ha b hb => ?_⟩, hslot.sublist (List.filter_sublist.map _), fun st hst hin => ?_⟩
    · rintro rfl
      exact hw (hb ▸ ha)
    · obtain ⟨x, hx, rfl⟩ := List.mem_map.1 hin
      obtain ⟨hmem, hne⟩ := List.mem_filter.1 hx
      obtain hst | heq := hst
      · exact hapart _ hst (List.mem_map_of_mem hmem)
      · simp [heq] at hne

theorem fromCheck2_calm (w : Work) (h : HeldWrite) : CalmIf (h.stream ∉ waitStreams w.s) w.s (fromCheck2 w h).s := by
  unfold fromCheck2
  split
  · exact fromCheck3_calm w h
  · split
    · exact fromCheck3_calm w h
    · exact claimDecision_calm w h _

/-- The checks from check 2 on add at most the write's own stream to the wait list. -/
theorem fromCheck2_waitStreams {w : Work} {h : HeldWrite} {st : Stream} (hst : st ∈ waitStreams (fromCheck2 w h).s) :
    st ∈ waitStreams w.s ∨ st = h.stream := by
  have check3 (hst : st ∈ waitStreams (fromCheck3 w h).s) : st ∈ waitStreams w.s := by
    rwa [waitStreams, fromCheck3_lists] at hst
  unfold fromCheck2 at hst
  split at hst
  · exact .inl (check3 hst)
  · split at hst
    · exact .inl (check3 hst)
    · unfold claimDecision at hst
      split at hst
      · refine .inl ?_
        unfold refuseWrite doom at hst
        split at hst <;> exact hst
      · simpa [waitStreams, joinWaitList, leaveSlotWait] using hst

theorem guardedWrite_calm (w : Work) (h : HeldWrite) :
    CalmIf (h.stream ∉ waitStreams w.s) w.s (guardedWrite w h).s := by
  unfold guardedWrite
  split
  · exact (answerTaken_calm _ _).when _
  · exact fromCheck2_calm w h
  · exact fromCheck2_calm w h

theorem not_mem_waitStreams_leaveWaitList (s : State) (st : Stream) : st ∉ waitStreams (leaveWaitList s st) := by
  simp [waitStreams, leaveWaitList]

theorem reexamineOne_calm (w : Work) (r : WaitRecord) : Calm w.s (reexamineOne w r).s := by
  unfold reexamineOne
  split
  · exact (leaveWaitList_calm w.s r.write.stream).trans
      ((fromCheck3_calm { w with s := leaveWaitList w.s r.write.stream } r.write).of
        (not_mem_waitStreams_leaveWaitList w.s r.write.stream))
  · exact .refl _

theorem reexamine_calm (w : Work) (l : Addr) : Calm w.s (reexamine w l).s := .foldlWork reexamineOne_calm _ w

theorem releaseRounds_calm (n : Nat) (w : Work) : Calm w.s (releaseRounds n w).s := by
  induction n generalizing w with
  | zero => exact .refl _
  | succ n ih =>
    unfold releaseRounds
    split
    · exact .refl _
    · exact (Calm.foldlWork reexamine_calm w.release { w with release := [] }).trans (ih _)

/-- A wake pass over writes of distinct streams, none of which waits for a line. -/
theorem foldl_fromCheck2_calm (hs : List HeldWrite) (w : Work) :
    CalmIf ((hs.map HeldWrite.stream).Nodup ∧ ∀ h ∈ hs, h.stream ∉ waitStreams w.s) w.s (hs.foldl fromCheck2 w).s := by
  induction hs generalizing w with
  | nil => exact (Calm.refl _).when _
  | cons h hs ih =>
    have first := fromCheck2_calm w h
    refine ⟨fun hx => (ih _).staging (first.staging hx), fun ⟨hd, hw⟩ hl => ?_,
      fun hx hy => (ih _).freed (first.staging hx) (first.freed hx hy)⟩
    rw [List.map_cons, List.nodup_cons] at hd
    refine (ih _).held ⟨hd.2, fun x hx hin => ?_⟩ (first.held (hw h List.mem_cons_self) hl)
    obtain hin | heq := fromCheck2_waitStreams hin
    · exact hw x (List.mem_cons_of_mem _ hx) hin
    · exact hd.1 (heq ▸ List.mem_map_of_mem hx)

theorem wakePass_calm (w : Work) : Calm w.s (wakePass w).s := by
  have pass := foldl_fromCheck2_calm w.s.staging.slotWait { w with freed := false }
  refine ⟨pass.staging, fun _ hl => pass.held ?_ hl, pass.freed⟩
  obtain ⟨-, hslot, hapart⟩ := (heldLaw_iff w.s).1 hl
  exact ⟨hslot, fun h hh hin => hapart _ hin (List.mem_map_of_mem hh)⟩

theorem settlePasses_calm (n : Nat) (w : Work) : Calm w.s (settlePasses n w).s := by
  induction n generalizing w with
  | zero => exact .refl _
  | succ n ih =>
    have released := releaseRounds_calm (w.s.claims.waitList.length + 1) w
    unfold settlePasses
    dsimp only
    split
    · exact (released.trans (wakePass_calm _)).trans (ih _)
    · exact released

theorem settle_calm (w : Work) : Calm w.s (settle w) := settlePasses_calm _ w

/-! ### The engines -/

theorem mapEntry_calm (s : State) (n : Serial) (f : Entry → Entry) : Calm s (mapEntry s n f) :=
  .still rfl rfl

theorem enterWriting_calm (s : State) (e : Entry) : Calm s (enterWriting s e) := .still rfl rfl

theorem beginJournal_calm (s : State) (e : Entry) : Calm s (beginJournal s e) := by
  have begun := (mapEntry_calm s e.serial (begunEntry s)).trans (relabel_calm _ e.slots .journaling)
  refine .ite (fun _ => begun.trans (enterWriting_calm _ _)) fun _ => begun.trans ?_
  have waits (u : State) : Calm u (setFlag (setWriter u .waitingSpace) .journalLow) := .still rfl rfl
  exact (waits _).trans (raiseIf_calm _ _)

theorem writerLooks_calm (n : Nat) (s : State) : Calm s (writerLooks n s) := by
  induction n generalizing s with
  | zero => exact .refl _
  | succ n ih =>
    unfold writerLooks
    refine .ite (fun _ => ?_) fun _ => .refl _
    split
    · exact .refl _
    · exact .ite (fun _ => ((mapEntry_calm s _ _).trans (tryAnswer_calm _ _)).trans (ih _)) fun _ => beginJournal_calm s _

theorem writerLook_calm (s : State) : Calm s (writerLook s) := writerLooks_calm _ s

theorem beginApply_calm (s : State) (e : Entry) : Calm s (beginApply s e) := by
  have begun := (mapEntry_calm s e.serial fun e => { e with state := .applying }).trans (relabel_calm _ e.slots .applying)
  exact ⟨begun.staging, begun.held, begun.freed⟩

theorem applyLook_calm (s : State) : Calm s (applyLook s) := by
  refine .ite (fun _ => ?_) fun _ => .refl _
  split
  · exact .refl _
  · exact beginApply_calm s _

theorem recheckSpace_calm (s : State) : Calm s (recheckSpace s) := by
  refine .ite (fun _ => ?_) fun _ => .refl _
  split
  · exact .refl _
  · exact .ite (fun _ => enterWriting_calm _ _) fun _ => .refl _

theorem retireEntry_calm (s : State) (e : Entry) : Calm s (retireEntry s e) :=
  .ite (fun _ => .still rfl rfl) fun _ => mapEntry_calm _ _ _

theorem applyIdle_calm (s : State) : Calm s (applyIdle s) := .still rfl rfl

theorem completeGroup_calm (s : State) (e : Entry) : Calm s (completeGroup s e) := by
  have advanced : Calm s (advanceApplied s (e.seq.getD 0) (extentOf s e)) := .still rfl rfl
  exact (((advanced.trans (raiseIf_calm _ _)).trans (raiseIf_calm _ _)).trans (retireEntry_calm _ e)).trans
    ((applyIdle_calm _).trans (applyLook_calm _))

/-! ### Changes of mode -/

theorem massAbortRecord_calm (s : State) (st : Stream) : Calm s (massAbortRecord s st) := by
  unfold massAbortRecord
  split
  · exact .refl _
  · exact setRecord_calm _ _ _
  · exact ((abortQuietly_calm s _).trans (setRecord_calm _ _ _)).trans (countAborted_calm _)

theorem abortHeld_calm (s : State) (r : Reason) : Calm s (abortHeld s r) := by
  have answered : Calm s ((heldWrites s).foldl (answerHeldAborted r) s) :=
    .foldl (fun _ _ => answerTaken_calm _ _) _ s
  refine ⟨answered.staging, fun _ _ => ?_, answered.freed⟩
  rw [HeldLaw, heldWrites]
  exact .nil

theorem abortEntry_calm (s : State) (e : Entry) (r : Reason) : Calm s (abortEntry s e r) :=
  (abortQuietly_calm s e.slots).trans
    (.still rfl rfl)

theorem indoubtEntry_calm (s : State) (e : Entry) : Calm s (indoubtEntry s e) :=
  (abortQuietly_calm s e.slots).trans (.still rfl rfl)

theorem endJournaling_calm (s : State) (e : Entry) (r : Reason) : Calm s (endJournaling s e r) :=
  .ite (fun _ => indoubtEntry_calm s e) fun _ => abortEntry_calm s e r

theorem massAbortEntry_calm (c : AbortCause) (s : State) (e : Entry) : Calm s (massAbortEntry c s e) := by
  unfold massAbortEntry
  split
  · exact abortEntry_calm _ _ _
  · exact .ite (fun _ => .refl _) fun _ => endJournaling_calm _ _ _
  · exact .refl _
  · exact .refl _

theorem massAbort_calm (s : State) (c : AbortCause) : Calm s (massAbort s c) := by
  have ended := ((Calm.foldl massAbortRecord_calm allStreams s).trans (abortHeld_calm _ c.reason)).trans
    (.foldl (massAbortEntry_calm c) (abortHeld (allStreams.foldl massAbortRecord s) c.reason).groups.queue _)
  exact .ite (fun _ => ended) fun _ => ended.trans (.foldl disposeEntry_calm _ _)

theorem endReads_calm (s : State) (es : List TrackerEntry) (x : Status) : Calm s (endReads s es x) := by
  refine .foldlWork (fun w e => ?_) es (Work.start s)
  exact (unpin_calm w e.pinned).trans (.still rfl rfl)

theorem enterHalted_calm (s : State) (x : DrainStatus) : Calm s (enterHalted s x) := by
  have answered := (Calm.foldl sendOwed_calm s.groups.queue s).trans (answerQueues_calm _ .powerfail)
  have claims : (enterHalted s x).claims = (answerQueues (s.groups.queue.foldl sendOwed s) .powerfail).claims := by
    simp [enterHalted, discardVolatile]
  have staging : (enterHalted s x).staging = Staging.reset := by simp [enterHalted, discardVolatile]
  refine ⟨(enterHalted_path s x).keepsStaging, fun _ hs => ?_, fun _ _ => ?_⟩
  · exact HeldLaw.of_sublist (answered.held trivial hs) (by rw [claims]) (by simp [staging, Staging.reset])
  · simp [freeingLaw_iff, staging, Staging.reset]

theorem faultAnswers_calm (s : State) : Calm s (faultAnswers s) :=
  ((((cancelReloc_calm s).trans (massAbort_calm _ _)).trans (endReads_calm _ _ _)).trans (markFaultLoss_calm _)).trans
    (dropPosted_calm _)

theorem faultQuiet_calm (s : State) : Calm s (faultQuiet s) :=
  .ofSlots (faultQuiet_path s) (by simp [faultQuiet]) (by simp [faultQuiet, Staging.reset]) fun _ v hv => by
    simp [faultQuiet, Staging.reset] at hv

theorem enterFaulted_calm (s : State) : Calm s (enterFaulted s) := by
  have marked (u : State) : Calm u (setMode (setFlag u .fault) .faulted) :=
    .still rfl rfl
  have faulted := (((faultAnswers_calm s).trans (faultQuiet_calm _)).trans (faultReport_calm _)).trans (marked _)
  exact .ite (fun _ => faulted.trans (enterHalted_calm _ _)) fun _ => faulted

theorem drainTest_calm (s : State) : Calm s (drainTest s) := by
  have setFinal (s : State) : Calm s { s with drain := { s.drain with finalRaised := true } } :=
    .still rfl rfl
  unfold drainTest
  split
  · split
    · exact .ite (fun _ => (setFinal s).trans (raiseTrigger_calm _)) fun _ => .refl _
    · exact .ite (fun _ => enterHalted_calm _ _) fun _ => .refl _
    · exact .refl _
    · exact .refl _
  · exact .refl _

theorem withdrawHomeWrites_calm (s : State) : Calm s (withdrawHomeWrites s) := by
  refine .still ?_ ?_
  all_goals
    unfold withdrawHomeWrites
    dsimp only
    split <;> rfl

theorem powerfailReads_calm (s : State) : Calm s (powerfailReads s) :=
  (endReads_calm s _ _).trans (.still rfl rfl)

theorem withdraw_calm (s : State) (p : Requester → Bool) : Calm s (withdraw s p) := .still rfl rfl

theorem stopRecovery_calm (s : State) : Calm s (stopRecovery s) := .still rfl rfl

theorem enterDraining_calm (s : State) (o : DrainOrigin) : Calm s (enterDraining s o) := by
  have begun (u : State) : Calm u (setMode (beginDrain u o) .draining) :=
    .still rfl rfl
  have aborted := ((cancelReloc_calm s).trans (withdraw_calm _ Requester.isReloc)).trans (massAbort_calm _ .powerfail)
  have withdrawn := ((aborted.trans (powerfailReads_calm _)).trans (answerQueues_calm _ .powerfail)).trans
    (withdrawHomeWrites_calm _)
  unfold enterDraining
  refine ((withdrawn.trans ?_).trans (begun _)).trans (drainTest_calm _)
  exact .ite (fun _ => stopRecovery_calm _) fun _ => .refl _

theorem beginRecovering_calm (s : State) (p : Phase) (c : Cause) : Calm s (beginRecovering s p c) :=
  .ofSlots (beginRecovering_path s p c) (.refl _) (.refl _) id

theorem enterRecovering_calm (s : State) (c : Cause) : Calm s (enterRecovering s c) := by
  have handed (u : State) : Calm u (handOver u (superblockReads u)) := .still rfl rfl
  have asked (u : State) : Calm u (startLinkDeadline (askLinkReset u)) := .still (by simp) (by simp)
  unfold enterRecovering
  split
  · exact (beginRecovering_calm s _ _).trans (handed _)
  · exact (beginRecovering_calm s _ _).trans (asked _)
  · exact (beginRecovering_calm s _ _).trans (asked _)

theorem leaveRecovering_calm (s : State) : Calm s (leaveRecovering s) :=
  .ofSlots (leaveRecovering_path s) (.refl _) (.refl _) id

theorem becomeReady_calm (s : State) : Calm s (becomeReady s) := by
  have ready : Calm s { setMode (setStart s .ok) .ready with drain := { s.drain with faultLoss := false } } := .still rfl rfl
  exact ready.trans (applyLook_calm _)

theorem enterFinal_calm (s : State) (r : Recovery) : Calm s (enterFinal s r) :=
  .still (by simp [enterFinal]) (by simp [enterFinal])

theorem enterHeader_calm (s : State) (r : Recovery) : Calm s (enterHeader s r) :=
  .ite (fun _ => enterFinal_calm s r) fun _ => .still rfl rfl

end Sys2Proof.Machine

/-! PROOF. The staging bounds, the law of slot freeing and the held writes: what the events keep. -/

namespace Sys2Proof.Machine

/-! ### Takes -/

theorem takeHead_calm (s : State) (st : Stream) : Calm s (takeHead s st) := .still rfl rfl

/-- A take keeps the laws when its act in READY does, for a stream that has no write in the wait list. -/
theorem takeOf_calm {act : State → Grant → State} (ha : ∀ s g, g.stream ∉ waitStreams s → Calm s (act s g))
    (k : RequestKind) (s : State) : Calm s (takeOf k act s) := by
  unfold takeOf
  split
  · exact .refl _
  · rename_i g hg
    split
    · split
      · exact (takeHead_calm s _).trans (answerTaken_calm _ _)
      · obtain ⟨-, -, hmode⟩ := takeGrant_spec hg
        have ready := ready_of hmode ‹_›
        refine (takeHead_calm s _).trans (ha _ g fun hin => ?_)
        simpa [(takeGrant_notHeld ready hg).1] using (inWaitList_iff s g.stream).2 hin
    · exact .refl _

theorem actRead_calm (s : State) (g : Grant) : Calm s (actRead s g) := by
  have plain : Calm s (plainRead s g) := by
    unfold plainRead
    dsimp only
    split <;> exact .still rfl rfl
  have guarded : Calm s (guardedRead s g) := by
    refine .ite (fun _ => answerTaken_calm _ _) fun _ => ?_
    exact (pin_calm s _).trans (.still rfl rfl)
  unfold actRead
  split
  · exact plain
  · exact plain
  · exact guarded
  · exact answerTaken_calm _ _

theorem actWrite_calm (s : State) (g : Grant) (hw : g.stream ∉ waitStreams s) : Calm s (actWrite s g) := by
  have plain : Calm s (plainWrite s g) := by
    unfold plainWrite
    dsimp only
    split <;> exact .still rfl rfl
  unfold actWrite
  split
  · exact plain
  · exact ((guardedWrite_calm (Work.start s) (heldWrite g)).of hw).trans (settle_calm _)
  · exact answerTaken_calm _ _
  · exact answerTaken_calm _ _

theorem sealGroup_calm (s : State) (g : Grant) : Calm s (sealGroup s g) := by
  have sealed : Path s (mapSlots s (sealedEntry s g).slots (sealSlot (sealedEntry s g))) :=
    mapSlots_path s _ _ (fun _ => rfl) fun _ h => by cases h
  refine (mapSlots_calm sealed fun v _ _ _ hstate => ?_).trans (.still rfl rfl)
  simp [sealSlot] at hstate

theorem actCommit_calm (s : State) (g : Grant) : Calm s (actCommit s g) := by
  unfold actCommit
  split
  · exact .still rfl rfl
  all_goals exact (sealGroup_calm s g).trans (writerLook_calm _)

theorem actDiscard_calm (s : State) (g : Grant) : Calm s (actDiscard s g) := by
  have answered : Calm s (setRecord (answerTaken s (plainAnswer g.stream g.req.tag .ok)) g.stream .absent) := .still rfl rfl
  exact (answered.trans (abortVersions_calm (Work.start _) _)).trans (settle_calm _)

/-! ### Timers -/

theorem abortHeldOf_calm (s : State) (st : Stream) (r : Reason) : Calm s (abortHeldOf s st r) := by
  unfold abortHeldOf
  split
  · exact .refl _
  · exact ((leaveWaitList_calm s st).trans (leaveSlotWait_calm _ st)).trans (answerTaken_calm _ _)

theorem idleExpiry_calm (st : Stream) (s : State) :
    Calm s (settle { doom (Work.start s) st .idle with s := abortHeldOf (doom (Work.start s) st .idle).s st .idle }) :=
  ((doom_calm (Work.start s) st .idle).trans (abortHeldOf_calm _ st .idle)).trans (settle_calm { doom (Work.start s) st .idle with s := _ })

theorem conflictExpiry_calm (st : Stream) (s : State) (h : HeldWrite) :
    Calm s (settle (refuseWrite (Work.start (leaveWaitList s st)) h .conflict)) :=
  ((leaveWaitList_calm s st).trans (refuseWrite_calm (Work.start (leaveWaitList s st)) h .conflict)).trans (settle_calm _)

/-! ### Outcomes -/

theorem answerRead_calm (s : State) (e : TrackerEntry) (r : Response) : Calm s (answerRead s e r) := by
  have answered : Calm s (untrack (answerTaken s r) e) := .still rfl rfl
  exact ((answered.trans (unpin_calm (Work.start _) e.pinned)).trans (settle_calm _)).trans (drainTest_calm _)

theorem homeReadReturned_calm (n : Serial) (l : Line) (s : State) : Calm s (homeReadReturned n l s) := by
  unfold homeReadReturned
  split
  · exact .refl _
  · exact answerRead_calm _ _ _

theorem homeReadFailed_calm (n : Serial) (s : State) : Calm s (homeReadFailed n s) := by
  unfold homeReadFailed
  split
  · exact .refl _
  · exact answerRead_calm _ _ _

theorem reportPosted_calm (s : State) (p : PostedRecord) : Calm s (reportPosted s p) := by
  have lowered : Calm s { s with groups := { s.groups with queue := s.groups.queue.map (lowerBarrier p.stream p.serial) } } :=
    .still rfl rfl
  exact lowered.trans (answerOwed_calm _)

theorem retirePosted_calm (s : State) (p : PostedRecord) : Calm s (retirePosted s p) := by
  have removed : Calm s (removePosted s p.serial) := .still rfl rfl
  exact ((removed.trans (reportPosted_calm _ p)).trans (relocTrigger_calm _ _)).trans (drainTest_calm _)

theorem postedAcked_calm (n : Serial) (s : State) : Calm s (postedAcked n s) := by
  unfold postedAcked
  split
  · exact .refl _
  · exact retirePosted_calm _ _

theorem postedFailed_calm (n : Serial) (s : State) : Calm s (postedFailed n s) := by
  have counted (st : Stream) : Calm s (countLost s st) := .still rfl rfl
  unfold postedFailed
  split
  · exact .refl _
  · exact (counted _).trans (retirePosted_calm _ _)

theorem abortJournaled_calm (s : State) (e : Entry) : Calm s (abortJournaled s e) := by
  have removed : Calm s (removeEntry (countAborted (answerCommitAborted s e.stream e.tag .journalError)) e.serial) :=
    .still rfl rfl
  exact (removed.trans (abortVersions_calm (Work.start _) e.slots)).trans (settle_calm _)

theorem setWriter_calm (s : State) (w : Writer) : Calm s (setWriter s w) := .still rfl rfl

theorem setFlag_calm (s : State) (f : EventFlag) : Calm s (setFlag s f) := .still rfl rfl

theorem finishFailedRecord_calm (s : State) : Calm s (finishFailedRecord s) := by
  have ended : Calm s (match journalingEntry (setFlag s .journalError) with
      | none => setFlag s .journalError
      | some e => abortJournaled (setFlag s .journalError) e) := by
    split
    · exact setFlag_calm s _
    · exact (setFlag_calm s _).trans (abortJournaled_calm _ _)
  exact (((ended.trans (setWriter_calm _ .idle)).trans (writerLook_calm _)).trans (relocTrigger_calm _ _)).trans
    (drainTest_calm _)

theorem recordLinesDone_calm (s : State) : Calm s (recordLinesDone s) := by
  unfold recordLinesDone handCommitLine
  split
  · exact .refl _
  · exact .refl _
  · split
    · exact .refl _
    · exact .still rfl rfl
  · exact finishFailedRecord_calm s

theorem journalLineAcked_calm (s : State) : Calm s (journalLineAcked s) :=
  .ite (fun _ => .refl _) fun _ => recordLinesDone_calm s

theorem journalLineFailed_calm (s : State) : Calm s (journalLineFailed s) := by
  unfold journalLineFailed
  split
  · exact .refl _
  · exact .refl _
  · exact ((withdraw_calm s _).trans (setWriter_calm _ _)).trans (journalLineAcked_calm _)

theorem groupDurable_calm (s : State) (e : Entry) : Calm s (groupDurable s e) := by
  have counted : Calm s (countCommitted (advanceDurable s (e.seq.getD 0) (extentOf s e).length)) := .still rfl rfl
  have durable (u : State) : Calm u (makeDurable u e) := (mapEntry_calm u e.serial _).trans (relabel_calm _ e.slots .durable)
  have released (u : State) : Calm u (releaseClaims u e) :=
    settle_calm { Work.start u with release := unclaimed u (linesOf u e.slots) }
  exact ((((counted.trans (durable _)).trans (released _)).trans (tryAnswer_calm _ _)).trans (setWriter_calm _ _)).trans
    ((writerLook_calm _).trans (applyLook_calm _))

theorem commitLineAcked_calm (s : State) : Calm s (commitLineAcked s) := by
  unfold commitLineAcked
  split
  · exact .refl _
  · exact ((groupDurable_calm s _).trans (relocTrigger_calm _ _)).trans (drainTest_calm _)

theorem commitLineFailed_calm (s : State) : Calm s (commitLineFailed s) := by
  unfold commitLineFailed
  split
  · exact enterFaulted_calm s
  · exact (indoubtEntry_calm s _).trans (enterFaulted_calm _)

theorem afterHomeWrite_calm (s : State) : Calm s (afterHomeWrite s) := by
  unfold afterHomeWrite lastHomeWrite
  refine .ite (fun _ => ?_) fun _ => .refl _
  split
  · exact applyIdle_calm s
  · exact .ite (fun _ => applyIdle_calm s) fun _ => completeGroup_calm s _

theorem homeWriteAcked_calm (n : Nat) (s : State) : Calm s (homeWriteAcked n s) := by
  have left : Calm s (leaveOutstanding s n) := .still rfl rfl
  have spent := left.trans (endVersions_calm (Work.start (leaveOutstanding s n)) [n] .spent (by decide))
  have settled := (spent.trans (afterHomeWrite_calm _)).trans
    (settle_calm { endVersions (Work.start (leaveOutstanding s n)) [n] .spent with s := _ })
  exact (settled.trans (relocTrigger_calm _ _)).trans
    (drainTest_calm _)

/-! ### Relocation, checkpoints, formats -/

theorem endReloc_calm (s : State) (x : RelocResult) : Calm s (endReloc s x) := .still rfl rfl

theorem handClearing_calm (s : State) : Calm s (handClearing s) :=
  .ite (fun _ => .refl _) fun _ => .still rfl rfl

theorem releaseClearing_calm (s : State) : Calm s (releaseClearing s) :=
  .ite (fun _ => handClearing_calm s) fun _ => .refl _

theorem enterFormattingNew_calm (s : State) : Calm s (enterFormattingNew s) := by
  have entered : Calm s (setReloc s (.formattingNew .clearing false)) := .still rfl rfl
  exact entered.trans (handClearing_calm _)

theorem relocLinesDone_calm (s : State) : Calm s (relocLinesDone s) := by
  unfold relocLinesDone
  split
  · exact endReloc_calm _ _
  · exact .still rfl rfl
  · exact .ite (fun _ => .still rfl rfl) fun _ => .still rfl rfl
  all_goals exact .refl _

theorem relocLineAcked_calm (s : State) : Calm s (relocLineAcked s) :=
  (Calm.ite (fun _ => .refl _) fun _ => relocLinesDone_calm s).trans (drainTest_calm _)

theorem relocLineFailed_calm (s : State) : Calm s (relocLineFailed s) := by
  have failed (x : RelocState) : Calm s (setReloc (withdraw s Requester.isRelocLine) x) := .still rfl rfl
  unfold relocLineFailed
  split
  · exact (failed _).trans (relocLineAcked_calm _)
  all_goals exact relocLineAcked_calm s

theorem retiringAcked_calm (s : State) : Calm s (retiringAcked s) := by
  refine Calm.trans ?_ (drainTest_calm _)
  split
  · exact .still rfl rfl
  · exact .still rfl rfl
  all_goals exact .refl _

theorem retiringFailed_calm (x : SbSlot) (s : State) : Calm s (retiringFailed x s) := by
  refine Calm.trans ?_ (drainTest_calm _)
  split
  · exact .still rfl rfl
  all_goals exact .refl _

theorem restoringAcked_calm (x : SbSlot) (s : State) : Calm s (restoringAcked x s) := by
  refine Calm.trans ?_ (drainTest_calm _)
  split
  · exact .still rfl rfl
  all_goals exact .refl _

theorem restoringFailed_calm (s : State) : Calm s (restoringFailed s) := by
  unfold restoringFailed
  split
  · exact (endReloc_calm s _).trans (enterFaulted_calm _)
  all_goals exact drainTest_calm s

theorem endCheckpoint_calm (s : State) : Calm s (endCheckpoint s) := by
  unfold endCheckpoint
  dsimp only
  split <;> exact .still rfl rfl

theorem requestAtEnd_calm (s : State) (b : Bool) : Calm s (requestAtEnd s b) :=
  .ite (fun _ => .still rfl rfl) fun _ => .refl _

theorem checkpointEnds_calm (s : State) : Calm s (checkpointEnds s) := by
  unfold checkpointEnds
  split
  · exact .ite (fun _ => (leaveRecovering_calm s).trans (becomeReady_calm _)) fun _ => .refl _
  · exact .ite (fun _ => enterHalted_calm _ _) fun _ => drainTest_calm _
  all_goals exact .refl _

theorem checkpointAcked_calm (s : State) : Calm s (checkpointAcked s) := by
  unfold checkpointAcked
  split
  · exact .refl _
  · rename_i f _
    have pointers : Calm s (checkpointPointers s f) := .still rfl rfl
    have ended := (pointers.trans (recheckSpace_calm _)).trans
      ((requestAtEnd_calm _ (wantsSpace (recheckSpace (checkpointPointers s f))
        || intervalReached (recheckSpace (checkpointPointers s f)))).trans (endCheckpoint_calm _))
    refine (ended.trans ?_).trans (checkpointEnds_calm _)
    exact .ite (fun _ => enterFormattingNew_calm _) fun _ => .refl _

theorem checkpointFailed_calm (s : State) : Calm s (checkpointFailed s) := by
  have counted : Calm s (countCheckpointError s) := .still rfl rfl
  refine .ite (fun _ => counted.trans (enterFaulted_calm _)) fun _ => ?_
  exact ((counted.trans (requestAtEnd_calm _ _)).trans (endCheckpoint_calm _)).trans (drainTest_calm _)

theorem formatLinesDone_calm (s : State) : Calm s (formatLinesDone s) := by
  unfold formatLinesDone
  refine .ite (fun _ => enterHalted_calm _ _) fun _ => ?_
  split
  · exact .refl _
  · refine .ite (fun _ => .still rfl rfl) fun _ => ?_
    split
    · exact .still rfl rfl
    · exact (becomeReady_calm _).after rfl rfl

theorem formatLineAcked_calm (s : State) : Calm s (formatLineAcked s) :=
  .ite (fun _ => .refl _) fun _ => formatLinesDone_calm s

theorem formatLineFailed_calm (s : State) : Calm s (formatLineFailed s) := by
  have failed (g : ClearStage) : Calm s (setFormat (withdraw s Requester.isFormat) g true) := .still rfl rfl
  unfold formatLineFailed
  split
  · exact formatLineAcked_calm s
  · exact (failed _).trans (formatLineAcked_calm _)

theorem interruptFormat_calm (s : State) : Calm s (interruptFormat s) := by
  have begun : Calm s (beginDrain (setStart { withdraw s Requester.isFormat with format := none } .interrupted) .formatting) :=
    .still rfl rfl
  exact begun.trans (formatLineAcked_calm _)

/-! ### Recovery -/

theorem recoveryToIdle_calm (s : State) (v : StartStatus) : Calm s (recoveryToIdle s v) :=
  (leaveRecovering_calm s).trans (.still rfl rfl)

theorem judgeCopies_calm (s : State) (r : Recovery) (a b : Line) : Calm s (judgeCopies s r a b) := by
  have relocated (sb : Superblock) : Calm s (setRelocated s sb) := .still rfl rfl
  unfold judgeCopies
  split
  · exact recoveryToIdle_calm s _
  · refine .ite (fun _ => (relocated _).trans (recoveryToIdle_calm _ _)) fun _ => ?_
    refine .ite (fun _ => recoveryToIdle_calm s _) fun _ => ?_
    exact (enterHeader_calm _ _).after rfl rfl

theorem superblockRead_calm (x : SbSlot) (l : Line) (s : State) : Calm s (superblockRead x l s) := by
  unfold superblockRead
  split
  · exact drainTest_calm s
  · split
    · split
      · exact judgeCopies_calm _ _ _ _
      · exact .still rfl rfl
    all_goals exact .refl _

theorem setScratch_calm (s : State) (ls : List (Nat × Line)) : Calm s (setScratch s ls) :=
  .ofSlots (setScratch_path s ls) (.refl _) (.refl _) id

theorem headerRead_calm (l : Line) (s : State) : Calm s (headerRead l s) := by
  unfold headerRead
  split
  · exact drainTest_calm s
  · split
    · split
      · exact .ite (fun _ => (setScratch_calm s _).trans (.still rfl rfl)) fun _ => enterFinal_calm _ _
      · exact enterFinal_calm _ _
    all_goals exact .refl _

theorem judgeRecord_calm (s : State) (r : Recovery) : Calm s (judgeRecord s r) :=
  .ite (fun _ => .still rfl rfl) fun _ => (setFlag_calm s _).trans (enterFinal_calm _ _)

theorem recordRead_calm (i : Nat) (l : Line) (s : State) : Calm s (recordRead i l s) := by
  unfold recordRead
  split
  · exact drainTest_calm s
  · split
    · exact .ite (fun _ => setScratch_calm s _) fun _ => (setScratch_calm s _).trans (judgeRecord_calm _ _)
    all_goals exact .refl _

theorem replayAcked_calm (s : State) : Calm s (replayAcked s) := by
  unfold replayAcked
  split
  · exact drainTest_calm s
  · split
    · refine .ite (fun _ => .refl _) fun _ => ?_
      exact (enterHeader_calm _ _).after rfl rfl
    all_goals exact .refl _

theorem recoveryReadFailed_calm (s : State) : Calm s (recoveryReadFailed s) :=
  .ite (fun _ => enterFaulted_calm s) fun _ => drainTest_calm s

theorem linkReady_calm (s : State) : Calm s (linkReady s) := by
  unfold linkReady
  split
  · exact drainTest_calm s
  · split
    · exact .still rfl rfl
    all_goals exact .refl _

/-! ### Drain and commands -/

theorem takeWarning_calm (s : State) : Calm s (takeWarning s) := by
  unfold takeWarning
  split
  · exact enterHalted_calm _ _
  · exact .ite (fun _ => .refl _) fun _ => interruptFormat_calm s
  · exact enterDraining_calm _ _
  · exact enterDraining_calm _ _
  · exact enterHalted_calm _ _
  all_goals exact .refl _

theorem abandonAll_calm (s : State) : Calm s (abandonAll s) := .still rfl rfl

theorem endWriterGroup_calm (s : State) : Calm s (endWriterGroup s) := by
  unfold endWriterGroup
  split
  · exact .refl _
  · exact endJournaling_calm _ _ _

theorem expireDrain_calm (s : State) : Calm s (expireDrain s) :=
  ((((endWriterGroup_calm s).trans (abandonAll_calm _)).trans (endReads_calm _ _ _)).trans (dropPosted_calm _)).trans
    (enterHalted_calm _ _)

theorem expireBudget_calm (s : State) : Calm s (expireBudget s) := by
  unfold expireBudget
  split
  · exact expireDrain_calm s
  · exact .ite (fun _ => (abandonAll_calm s).trans (enterHalted_calm _ _)) fun _ => .refl _
  all_goals exact .refl _

theorem startProcedure_calm (s : State) {run : State → State} (h : ∀ x, Calm x (run x)) : Calm s (startProcedure s run) := by
  have accepted : Calm s (accept s) := .still rfl rfl
  exact .ite (fun _ => accepted.trans (h _)) fun _ => .still rfl rfl

theorem restartPart_calm (s : State) : Calm s (restartPart s) := by
  have idle (u : State) : Calm u (abandonAll (idleWorkers u)) := .still rfl rfl
  have ended := ((cancelReloc_calm s).trans (massAbort_calm _ .restart)).trans
    (endReads_calm _ (massAbort (cancelReloc s) .restart).reads .notReady)
  have answered := (ended.trans (dropPosted_calm _)).trans (answerQueues_calm _ .notReady)
  have idled := (answered.trans (idle _)).trans (reinitStaging_calm _)
  unfold restartPart
  exact idled.trans (enterRecovering_calm _ _)

theorem resumePart_calm (s : State) : Calm s (resumePart s) :=
  (enterRecovering_calm _ _).after rfl rfl

theorem acceptReloc_calm (s : State) : Calm s (acceptReloc s) := by
  unfold acceptReloc
  exact (raiseIf_calm _ _).after rfl rfl

/-! ### The media port and the registers -/

theorem reportIssue_calm (s : State) (n : Serial) : Calm s (reportIssue s n) := by
  unfold reportIssue
  split
  · exact .refl _
  · exact (releaseClearing_calm _).after rfl rfl

theorem afterFirstIssue_calm (s : State) (q : Requester) : Calm s (afterFirstIssue s q) := by
  unfold afterFirstIssue
  split
  · exact .still rfl rfl
  · exact reportIssue_calm _ _
  all_goals exact .refl _

theorem issueGranted_calm (s : State) (g : MediaGrant) (r : MediaReq) : Calm s (issueGranted s g r) := by
  have sent (t : MediaTag) (n : Nat) : Calm s (sendRequest (setArbiter s g) g.place r t n) := .still rfl rfl
  unfold issueGranted
  split
  · exact .refl _
  · exact .ite (fun _ => sent _ _) fun _ => (sent _ _).trans (afterFirstIssue_calm _ _)

theorem failedOutcome_calm (s : State) (q : Requester) : Calm s (failedOutcome s q) := by
  cases q with
  | homeRead n => exact homeReadFailed_calm _ _
  | posted n => exact postedFailed_calm _ _
  | journalLine i => exact journalLineFailed_calm _
  | commitLine => exact commitLineFailed_calm _
  | homeWrite n => exact enterFaulted_calm _
  | checkpoint => exact checkpointFailed_calm _
  | formatLine => exact formatLineFailed_calm _
  | relocLine => exact relocLineFailed_calm _
  | retiringSb x => exact retiringFailed_calm _ _
  | restoringSb x => exact restoringFailed_calm _
  | superblockRead x => exact recoveryReadFailed_calm _
  | headerRead => exact recoveryReadFailed_calm _
  | recordRead i => exact recoveryReadFailed_calm _
  | replayWrite i => exact enterFaulted_calm _

theorem writePlain_calm (s : State) (i : BitVec 8) (v : Word) : Calm s (writePlain s i v) := by
  have ranged (low high : Nat) (r : Regs) : Calm s (writeRanged s low high v r) :=
    .ite (fun _ => .still rfl rfl) fun _ => .refl _
  have kind : Calm s (writeDefaultKind s v) := by
    unfold writeDefaultKind
    split
    · exact .still rfl rfl
    · exact .still rfl rfl
    · exact .refl _
  unfold writePlain
  split
  all_goals first | exact .still rfl rfl | exact ranged _ _ _ | exact kind

theorem writeRegister_calm (s : State) (i : BitVec 8) (v : Word) : Calm s (writeRegister s i v) := by
  unfold writeRegister
  split
  · exact .still rfl rfl
  · exact writePlain_calm _ _ _

theorem sendHead_calm (s : State) : Calm s (sendHead s) :=
  .still (by simp [sendHead_fields s]) (by simp [sendHead_fields s])

end Sys2Proof.Machine

/-! PROOF. The staging bounds, the depths, the law of slot freeing and the held writes: what every command and every step
keeps. -/

namespace Sys2Proof.Machine

/-! ### Every command -/

/-- An outcome keeps the laws when each requester's act does. -/
theorem onOutcome_calm (s : State) (t : MediaTag) {act : Requester → Option (State → State)}
    (h : ∀ q f, act q = some f → ∀ x, Calm x (f x)) : Calm s (onOutcome s t act) := by
  unfold onOutcome
  split
  · exact .refl _
  · split
    · exact .refl _
    · rename_i f hf
      exact Calm.after (h _ _ hf (dropTag s t)) rfl rfl

theorem execIdleExpiry_calm {st : Stream} {s t : State} (h : execIdleExpiry st s = .next t) : Calm s t := by
  cases h
  exact .ite (fun _ => idleExpiry_calm st s) fun _ => .refl _

theorem execConflictExpiry_calm {st : Stream} {s t : State} (h : execConflictExpiry st s = .next t) : Calm s t := by
  cases h
  split
  · exact .refl _
  · exact conflictExpiry_calm st s _

theorem execMediaIssue_calm {s t : State} (h : execMediaIssue s = .next t) : Calm s t := by
  cases h
  split
  · exact .refl _
  · split
    · exact .refl _
    · exact issueGranted_calm _ _ _

theorem execMediaRetry_calm {x : MediaTag} {s t : State} (h : execMediaRetry x s = .next t) : Calm s t := by
  cases h
  split
  · exact .refl _
  · exact .ite (fun _ => .still rfl rfl) fun _ => (failedOutcome_calm (dropTag s x) _).after rfl rfl

theorem execResponseSend_calm {s t : State} (h : execResponseSend s = .next t) : Calm s t := by
  cases h
  split
  · exact .refl _
  · exact (sendHead_calm s).trans (settleHeldAnswers_calm _)

theorem execRecoveryMediaFail_calm {x : MediaTag} {s t : State} (h : execRecoveryMediaFail x s = .next t) : Calm s t := by
  cases h
  refine onOutcome_calm s x fun q f hf u => ?_
  split at hf
  · cases hf; exact recoveryReadFailed_calm u
  · cases hf; exact recoveryReadFailed_calm u
  · cases hf; exact recoveryReadFailed_calm u
  · cases hf; exact enterFaulted_calm u
  · split at hf
    · cases hf; exact checkpointFailed_calm u
    · cases hf
  · cases hf

theorem exec_calm {c : Instr} {s t : State} (hc : ∀ b, c ≠ .hardReset b) (h : exec c s = .next t) : Calm s t := by
  cases c with
  | hardReset b => exact absurd rfl (hc b)
  | requestArrival r =>
    cases h
    exact .ite (fun _ => .refl _) fun _ =>
      .ite (fun _ => (settleHeldAnswers_calm _).after rfl rfl) fun _ => .still rfl rfl
  | takeRead => cases h; exact takeOf_calm (fun s g _ => actRead_calm s g) .read s
  | takeWrite => cases h; exact takeOf_calm actWrite_calm .write s
  | commit => cases h; exact takeOf_calm (fun s g _ => actCommit_calm s g) .commit s
  | discard => cases h; exact takeOf_calm (fun s g _ => actDiscard_calm s g) .discard s
  | responseSend => exact execResponseSend_calm h
  | idleExpiry st => exact execIdleExpiry_calm h
  | conflictExpiry st => exact execConflictExpiry_calm h
  | mediaIssue => exact execMediaIssue_calm h
  | mediaRetry x => exact execMediaRetry_calm h
  | staleResponse x y => cases h; exact .refl _
  | mediaTimeout x => cases h; exact .ite (fun _ => enterFaulted_calm s) fun _ => .refl _
  | homeReadReturn x d =>
    cases h
    refine onOutcome_calm s x fun q f hf u => ?_
    split at hf <;> cases hf
    exact homeReadReturned_calm _ _ _
  | homeReadFail x =>
    cases h
    refine onOutcome_calm s x fun q f hf u => ?_
    split at hf <;> cases hf
    exact homeReadFailed_calm _ _
  | postedWriteOk x =>
    cases h
    refine onOutcome_calm s x fun q f hf u => ?_
    split at hf <;> cases hf
    exact postedAcked_calm _ _
  | postedWriteFail x =>
    cases h
    refine onOutcome_calm s x fun q f hf u => ?_
    split at hf <;> cases hf
    exact postedFailed_calm _ _
  | journalLineOk x =>
    cases h
    refine onOutcome_calm s x fun q f hf u => ?_
    split at hf <;> cases hf
    exact journalLineAcked_calm _
  | journalLineFail x =>
    cases h
    refine onOutcome_calm s x fun q f hf u => ?_
    split at hf <;> cases hf
    exact journalLineFailed_calm _
  | commitLineOk x =>
    cases h
    refine onOutcome_calm s x fun q f hf u => ?_
    split at hf <;> cases hf
    exact commitLineAcked_calm _
  | commitLineFail x =>
    cases h
    refine onOutcome_calm s x fun q f hf u => ?_
    split at hf <;> cases hf
    exact commitLineFailed_calm _
  | homeWriteOk x =>
    cases h
    refine onOutcome_calm s x fun q f hf u => ?_
    split at hf <;> cases hf
    exact homeWriteAcked_calm _ _
  | homeWriteFail x =>
    cases h
    refine onOutcome_calm s x fun q f hf u => ?_
    split at hf <;> cases hf
    exact enterFaulted_calm _
  | checkpointOk x =>
    cases h
    refine onOutcome_calm s x fun q f hf u => ?_
    split at hf <;> cases hf
    exact checkpointAcked_calm _
  | checkpointFail x =>
    cases h
    refine onOutcome_calm s x fun q f hf u => ?_
    split at hf <;> cases hf
    exact checkpointFailed_calm _
  | formatLineOk x =>
    cases h
    refine onOutcome_calm s x fun q f hf u => ?_
    split at hf <;> cases hf
    exact formatLineAcked_calm _
  | formatLineFail x =>
    cases h
    refine onOutcome_calm s x fun q f hf u => ?_
    split at hf <;> cases hf
    exact formatLineFailed_calm _
  | relocLineOk x =>
    cases h
    refine onOutcome_calm s x fun q f hf u => ?_
    split at hf <;> cases hf
    exact relocLineAcked_calm _
  | relocLineFail x =>
    cases h
    refine onOutcome_calm s x fun q f hf u => ?_
    split at hf <;> cases hf
    exact relocLineFailed_calm _
  | retiringSbOk x =>
    cases h
    refine onOutcome_calm s x fun q f hf u => ?_
    split at hf <;> cases hf
    exact retiringAcked_calm _
  | retiringSbFail x =>
    cases h
    refine onOutcome_calm s x fun q f hf u => ?_
    split at hf <;> cases hf
    exact retiringFailed_calm _ _
  | restoringSbOk x =>
    cases h
    refine onOutcome_calm s x fun q f hf u => ?_
    split at hf <;> cases hf
    exact restoringAcked_calm _ _
  | restoringSbFail x =>
    cases h
    refine onOutcome_calm s x fun q f hf u => ?_
    split at hf <;> cases hf
    exact restoringFailed_calm _
  | superblockReadOk x d =>
    cases h
    refine onOutcome_calm s x fun q f hf u => ?_
    split at hf <;> cases hf
    exact superblockRead_calm _ _ _
  | headerReadOk x d =>
    cases h
    refine onOutcome_calm s x fun q f hf u => ?_
    split at hf <;> cases hf
    exact headerRead_calm _ _
  | recordReadOk x d =>
    cases h
    refine onOutcome_calm s x fun q f hf u => ?_
    split at hf <;> cases hf
    exact recordRead_calm _ _ _
  | replayWriteOk x =>
    cases h
    refine onOutcome_calm s x fun q f hf u => ?_
    split at hf <;> cases hf
    exact replayAcked_calm _
  | recoveryMediaFail x => exact execRecoveryMediaFail_calm h
  | linkResetAck => cases h; exact .ite (fun _ => (linkReady_calm (clearLink s)).after rfl rfl) fun _ => .refl _
  | linkResetTimeout => cases h; exact .ite (fun _ => enterFaulted_calm s) fun _ => .refl _
  | pfwAssert => cases h; exact (takeWarning_calm (samplePfw s true)).after rfl rfl
  | drainBudgetExpiry => cases h; exact .ite (fun _ => expireBudget_calm s) fun _ => .refl _
  | start =>
    cases h
    exact .ite (fun _ => startProcedure_calm s fun x => enterRecovering_calm x .start) fun _ => .still rfl rfl
  | format => cases h; exact .ite (fun _ => startProcedure_calm s fun _ => .still rfl rfl) fun _ => .still rfl rfl
  | restart => cases h; exact .ite (fun _ => startProcedure_calm s restartPart_calm) fun _ => .still rfl rfl
  | resume b =>
    cases h
    exact Calm.after (t := samplePfw s b)
      (.ite (fun _ => startProcedure_calm _ resumePart_calm) fun _ => .still rfl rfl) rfl rfl
  | relocGo => cases h; split <;> exact .still rfl rfl
  | relocCancel => cases h; split <;> exact .still rfl rfl
  | clearCounters => cases h; exact .still rfl rfl
  | unknownCommand v => cases h; exact .ite (fun _ => .refl _) fun _ => .still rfl rfl
  | relocRequest k b =>
    cases h
    exact .ite (fun _ => (acceptReloc_calm (writeRelocCtrl s k b)).after rfl rfl) fun _ => .still rfl rfl
  | eventFlagsClear v => cases h; exact .still rfl rfl
  | eventEnableWrite v => cases h; exact .still rfl rfl
  | idleTimeoutWrite v =>
    cases h
    exact .ite (fun _ => .refl _) fun _ => .ite (fun _ => .still rfl rfl) fun _ => .still rfl rfl
  | read48Low r => cases h; cases r <;> exact .still rfl rfl
  | registerWrite i v => cases h; exact .ite (fun _ => .refl _) fun _ => writeRegister_calm s i v

theorem resetWith_laws (cs : List Instr) (b : Bool) :
    StagingLaw (resetWith cs b) ∧ DepthLaw (resetWith cs b) ∧ HeldLaw (resetWith cs b) ∧ FreeingLaw (resetWith cs b) := by
  simp [StagingLaw, DepthLaw, HeldLaw, FreeingLaw, heldWrites, openSlots, resetWith, State.reset, Staging.reset,
    Groups.reset, Posted.reset, Claims.reset]

/-- Every step keeps the law of held writes and the law of slot freeing. -/
theorem step_calm {s t : State} (h : step s = .next t) :
    (HeldLaw s → HeldLaw t) ∧ (StagingLaw s → FreeingLaw s → FreeingLaw t) := by
  have ends {a b : State} (k : Calm a b) : (HeldLaw a → HeldLaw b) ∧ (StagingLaw a → FreeingLaw a → FreeingLaw b) :=
    ⟨k.held trivial, k.freed⟩
  unfold step at h
  split at h
  · cases h
    exact ends (.still rfl rfl)
  · rename_i c rest _
    by_cases hc : ∃ b, c = .hardReset b
    · obtain ⟨b, rfl⟩ := hc
      cases h
      obtain ⟨hst, -, hheld, hfreed⟩ := resetWith_laws rest b
      have reset := ends (Calm.ite (p := b = true) (fun _ => enterHalted_calm (resetWith rest b) .complete) fun _ => .refl _)
      exact ⟨fun _ => reset.1 hheld, fun _ _ => reset.2 hst hfreed⟩
    · exact ends (Calm.after (exec_calm (fun b hb => hc ⟨b, hb⟩) h) rfl rfl)

/-- Settles O58: moves keep the bounds and the depths, every command keeps the other two laws, and sixteen streams have at
most sixteen writes held. -/
theorem stepsKeepBoundsAndDepths : Obligations.StepsKeepBoundsAndDepths := by
  refine ⟨fun s t => ?staging, fun s t => ?depths, fun s t h => (step_calm h).2, fun s t h => (step_calm h).1, fun s h => ?held⟩
  case staging =>
    refine step_keeps StagingLaw (fun _ _ => Move.keepsStaging) (fun cs b => (resetWith_laws cs b).1) (fun _ _ h => h)
      (fun _ h => h) (fun s h => ?_) (fun _ _ h => h) s t
    exact (sendHead_calm s).staging h
  case depths =>
    refine step_keeps DepthLaw (fun _ _ => Move.keepsDepths) (fun cs b => (resetWith_laws cs b).2.1) (fun _ _ h => h)
      (fun _ h => h) (fun s h => ?_) (fun _ _ h => h) s t
    simpa [DepthLaw, sendHead_fields s] using h
  case held => simpa [heldWrites] using streams_length_le h

end Sys2Proof.Machine

/-! PROOF. A step, the frame of every command, and reset (O1, O2, O3, O4). -/

namespace Sys2Proof.Machine

/-! ## The step (log 2) -/

/-- Settles O1: both equations unfold the step. -/
theorem stepRunsFrontCommandOrPassesTime : Obligations.StepRunsFrontCommandOrPassesTime := by
  refine ⟨fun c rest s => ?front, fun s hp => ?tick⟩
  case front => rfl
  case tick =>
    have ticks : step s = .next (tick s) := by simp only [step, hp]
    exact ticks

/-! ## Every command answers, and none touches the queue -/

/-- A move touches neither the waiting commands nor the clock. -/
theorem Move.keepsQueueAndClock {s t : State} (h : Move s t) : t.pending = s.pending ∧ t.now = s.now := by
  cases h <;> exact ⟨rfl, rfl⟩

theorem Path.keepsQueueAndClock {s t : State} (h : Path s t) : t.pending = s.pending ∧ t.now = s.now :=
  h.keeps (P := fun u => u.pending = s.pending ∧ u.now = s.now)
    (fun _ _ hm hu => ⟨hm.keepsQueueAndClock.1.trans hu.1, hm.keepsQueueAndClock.2.trans hu.2⟩) ⟨rfl, rfl⟩

/-- Every command answers a next state. -/
theorem exec_completes (c : Instr) (s : State) : ∃ t, exec c s = .next t := by
  cases c <;> exact ⟨_, rfl⟩

theorem exec_keepsQueue {c : Instr} {s t : State} (h : exec c s = .next t) :
    t.pending = s.pending ∧ ((∀ b, c ≠ .hardReset b) → t.now = s.now) := by
  by_cases hc : ∃ b, c = .hardReset b
  · obtain ⟨b, rfl⟩ := hc
    exact ⟨(execHardReset_path b s t h).keepsQueueAndClock.1, fun hne => absurd rfl (hne b)⟩
  · have kept : t.pending = s.pending ∧ t.now = s.now := by
      by_cases hr : c = .responseSend
      · subst hr
        have sent := (execResponseSend_path s t h).keepsQueueAndClock
        simpa [sendHead_fields s] using sent
      · by_cases hf : ∃ v, c = .eventFlagsClear v
        · obtain ⟨v, rfl⟩ := hf
          cases h
          exact ⟨rfl, rfl⟩
        · exact (exec_path c s t (fun b hb => hc ⟨b, hb⟩) hr (fun v hv => hf ⟨v, hv⟩) h).keepsQueueAndClock
    exact ⟨kept.1, fun _ => kept.2⟩

/-- Settles O2: every arm ends in a next state, and every chain of moves leaves the queue and the clock. -/
theorem everyCommandAnswersAndKeepsTheQueue : Obligations.EveryCommandAnswersAndKeepsTheQueue := by
  refine ⟨fun c s => ?_, fun c s t => exec_keepsQueue⟩
  obtain ⟨t, ht⟩ := exec_completes c s
  exact ⟨t, ht, trivial⟩

/-! ## Reset -/

theorem count_resetCredits (st : Stream) : (Wires.reset.fabricOut).count (.credit st) = 8 := by
  revert st
  decide +kernel

/-- Every stream after reset: an empty queue, eight credits, no group and no loss. -/
theorem reset_stream (st : Stream) :
    ingressOf State.reset st = [] ∧ State.reset.fabric.credits.read st = 8 ∧ recordOf State.reset st = .absent
      ∧ lossMark State.reset st = false := by
  revert st
  decide +kernel

/-- The registers that read as a value of their own after reset (12.4). -/
theorem readRegister_reset :
    [0x00#8, 0x10#8, 0x11#8, 0x12#8, 0x13#8, 0x14#8, 0x15#8, 0x16#8, 0x17#8, 0x18#8, 0x47#8].map (readRegister State.reset)
      = [0x4B580416#32, 64, 1000, 0, 200, 4, 2000, 4, 8, 0, 1] := by
  decide +kernel

/-- The registers that read as zero after reset (12.4). -/
theorem readRegister_reset_zero :
    ∀ i ∈ [0x01#8, 0x03#8, 0x04#8, 0x05#8, 0x06#8, 0x07#8, 0x08#8, 0x09#8, 0x0A#8, 0x40#8, 0x41#8, 0x42#8, 0x43#8,
      0x44#8, 0x45#8, 0x46#8, 0x48#8, 0x49#8, 0x4A#8, 0x4B#8, 0x50#8, 0x51#8, 0x52#8], readRegister State.reset i = 0 := by
  decide +kernel

/-- The words of the window table read as zero after reset (R54). -/
theorem readRegister_reset_window : ∀ i ∈ List.range 24, readRegister State.reset (BitVec.ofNat 8 (0x20 + i)) = 0 := by
  decide +kernel

/-- Settles O3: each value is read off the reset state. -/
theorem resetLeavesSpecValues : Obligations.ResetLeavesSpecValues :=
  ⟨⟨rfl, rfl, rfl⟩, reset_stream, ⟨rfl, rfl, rfl, rfl⟩, ⟨rfl, by decide +kernel, rfl, rfl⟩, ⟨rfl, rfl, rfl, rfl, rfl, rfl⟩, rfl,
    ⟨rfl, rfl⟩, rfl, ⟨rfl, rfl⟩, rfl, ⟨rfl, rfl, rfl, rfl, rfl⟩, ⟨rfl, rfl, rfl, rfl, rfl⟩, rfl, ⟨rfl, rfl, rfl⟩,
    ⟨rfl, rfl, rfl⟩, ⟨rfl, rfl, rfl, rfl, rfl, rfl, rfl⟩, ⟨rfl, rfl, rfl⟩, readRegister_reset, readRegister_reset_zero,
    readRegister_reset_window, count_resetCredits⟩

/-- With no request in a queue, answering the queues changes nothing. -/
theorem answerQueues_of_empty {s : State} (h : s.fabric.ingress = Vector.replicate 16 []) (x : Status) :
    answerQueues s x = s := by
  have mapped : s.fabric.ingress.map (List.map (answerEntry x)) = s.fabric.ingress := by simp [h]
  have none : ingressCount s = 0 := by simp [ingressCount, ingressOf, h, PerStream.read, allStreams]
  simp only [answerQueues, mapped, settleHeldAnswers, none, enterHeldAnswers]

/-- Settles O4: with the pin deasserted the command is the reset state, and with the pin asserted HALTED is entered from it,
where no queue holds a request and no entry is owed an answer. -/
theorem hardResetFromAnyState : Obligations.HardResetFromAnyState := by
  intro s
  have answered : answerQueues (resetWith s.pending true) .powerfail = resetWith s.pending true :=
    answerQueues_of_empty rfl .powerfail
  have noEntries : (resetWith s.pending true).groups.queue = [] := rfl
  have halted : exec (.hardReset true) s = .next (enterHalted (resetWith s.pending true) .complete) :=
    congrArg Host.Outcome.next (if_pos rfl)
  refine ⟨rfl, ?_⟩
  rw [Answers, halted, enterHalted, noEntries, List.foldl_nil, answered]
  rfl

end Sys2Proof.Machine

/-! PROOF. The laws of the shared structures hold at reset (O55). -/

namespace Sys2Proof.Machine

/-! ## The laws right after reset -/

theorem recordOf_reset (st : Stream) : recordOf State.reset st = .absent := (reset_stream st).2.2.1

/-- After reset there is no slot, no entry, no read and no request, so each law that speaks of them holds. -/
theorem sharedLaws_reset : SharedLaws State.reset := by
  have staging : State.reset.staging = Staging.reset := rfl
  have lines : State.reset.claims.waitList = [] := rfl
  have queue : State.reset.groups.queue = [] := rfl
  have reads : State.reset.reads = [] := rfl
  have requests : State.reset.media.requests = [] := rfl
  have mode : State.reset.modes.mode = .idle := rfl
  have reloc : State.reset.reloc.state = .none := rfl
  have runs : State.reset.recovery = none ∧ State.reset.format = none := ⟨rfl, rfl⟩
  have engines : State.reset.apply = Apply.reset ∧ State.reset.journal.writer = .idle := ⟨rfl, rfl⟩
  have fabric : State.reset.fabric.takenUnanswered = 0 ∧ State.reset.fabric.egress = [] := ⟨rfl, rfl⟩
  have sequences : State.reset.journal.nextSeq = 1 ∧ State.reset.journal.durableThrough = 0
    ∧ State.reset.journal.appliedThrough = 0 := ⟨rfl, rfl, rfl⟩
  have records := recordOf_reset
  revert staging lines queue reads requests mode reloc runs engines fabric sequences records
  generalize State.reset = s
  intro staging lines queue reads requests mode reloc runs engines fabric sequences records
  refine ⟨?_, ?_, ?_, ?_, ?_, ?_, ?_, ?_, ?_, ?_, ?_, ?_, ?_, ?_, ?_⟩
  · simp [StagingLaw, openSlots, staging, Staging.reset]
  · simp [HeldLaw, heldWrites, staging, Staging.reset, lines]
  · simp [FreeingLaw, staging, Staging.reset]
  · simp [ModeLaw, anyRequest, requests, reloc, runs, engines, Apply.reset]
  · simp [ContentsLaw, NoneHeld, lines, staging, Staging.reset, records, queue, reads, mode]
  · simp [ResponseLaw, SerialsDistinct, heldWrites, owedEntries, staging, Staging.reset, lines, queue, reads, fabric]
  · simp [OwnerLaw, records, GroupRecord.slots, queue, staging, Staging.reset]
  · simp [IndexLaw, staging, Staging.reset]
  · simp [ClaimLaw, staging, Staging.reset]
  · simp [HomeLaw, homeSlots, requests, queue, mode, engines, Apply.reset]
  · simp [WriterLaw, anyRequest, requests, queue, engines]
  · simp [SpaceLaw, JournalInUse, mode, inFinal, runs]
  · simp [PinLaw, reads, staging, Staging.reset]
  · simp [SequenceLaw, unappliedEntries, queue, sequences]
  · simp [TargetLaw, reloc, anyRequest, requests]

/-- Settles O55: the state after reset holds nothing that a law could speak against. -/
theorem lawsHoldAtReset : Obligations.LawsHoldAtReset := by
  refine ⟨resetWith_credits [] false, .nil, .nil, (resetWith_laws [] false).1, (resetWith_laws [] false).2.1, ?_,
    sharedLaws_reset, ?_⟩
  · simp [RangeLaw, State.reset, Regs.reset]
  · simp [FreshSerial, State.reset, Groups.reset]

end Sys2Proof.Machine

/-! PROOF. The fabric port: the per-stream stores, the held answers and REQUEST_ARRIVAL (R159, R161, R163). -/

namespace Sys2Proof.Machine

/-! ## What each stream has -/

theorem PerStream.ext_read {α : Type} {v w : PerStream α} (h : ∀ i, v.read i = w.read i) : v = w :=
  Vector.ext fun i hi => h ⟨i, hi⟩

@[simp] theorem PerStream.write_write {α : Type} (v : PerStream α) (i : Stream) (x y : α) :
    (v.write i x).write i y = v.write i y :=
  PerStream.ext_read fun j => by by_cases h : i = j <;> simp [h]

@[simp] theorem PerStream.write_read {α : Type} (v : PerStream α) (i : Stream) : v.write i (v.read i) = v :=
  PerStream.ext_read fun j => by by_cases h : i = j <;> simp [h]

/-! ## The oldest held answer (R162) -/

/-- A stream has no held answer exactly when its head, if it has one, is no answered entry. -/
theorem heldAnswer?_eq_none_iff (s : State) (st : Stream) :
    heldAnswer? s st = none ↔ ∀ e es, ingressOf s st = e :: es → e.answer = none := by
  unfold heldAnswer?
  cases hq : ingressOf s st with
  | nil => simp
  | cons e es => simp

/-- A held answer is the answered entry at its stream's head. -/
theorem heldAnswer?_eq_some_iff (s : State) (st : Stream) (h : HeldAnswer) :
    heldAnswer? s st = some h ↔
      h.stream = st ∧ (∃ es, ingressOf s st = h.entry :: es) ∧ h.entry.answer = some h.status := by
  unfold heldAnswer?
  cases hq : ingressOf s st with
  | nil => simp
  | cons e es =>
    simp only [Option.map_eq_some_iff, List.cons.injEq]
    constructor
    · rintro ⟨x, hx, rfl⟩
      exact ⟨rfl, ⟨es, rfl, rfl⟩, hx⟩
    · rintro ⟨rfl, ⟨_, rfl, rfl⟩, ha⟩
      exact ⟨h.status, ha, rfl⟩

theorem earlierHeld_isSome (b : Option HeldAnswer) (x : HeldAnswer) : (earlierHeld b x).isSome = true := by
  unfold earlierHeld
  split
  · rfl
  · split <;> rfl

/-- The first of some held answers arrived no later than any of them. -/
theorem foldl_earlierHeld_le {hs : List HeldAnswer} {b : Option HeldAnswer} {h : HeldAnswer}
    (hh : hs.foldl earlierHeld b = some h) :
    (∀ x ∈ hs, h.entry.arrival ≤ x.entry.arrival) ∧ ∀ x, b = some x → h.entry.arrival ≤ x.entry.arrival := by
  induction hs generalizing b with
  | nil =>
    obtain rfl : b = some h := hh
    simp
  | cons y ys ih =>
    obtain ⟨hys, hfirst⟩ := ih hh
    have better : h.entry.arrival ≤ y.entry.arrival ∧ ∀ x, b = some x → h.entry.arrival ≤ x.entry.arrival := by
      unfold earlierHeld at hfirst
      cases b with
      | none => exact ⟨hfirst y rfl, by simp⟩
      | some x =>
        dsimp only at hfirst
        split at hfirst
        · have := hfirst y rfl
          exact ⟨this, fun z hz => by cases hz; omega⟩
        · have := hfirst x rfl
          exact ⟨by omega, fun z hz => by cases hz; exact this⟩
    exact ⟨List.forall_mem_cons.2 ⟨better.1, hys⟩, better.2⟩

theorem foldl_earlierHeld_eq_none {hs : List HeldAnswer} {b : Option HeldAnswer} :
    hs.foldl earlierHeld b = none ↔ hs = [] ∧ b = none := by
  induction hs generalizing b with
  | nil => simp
  | cons y ys ih =>
    have := earlierHeld_isSome b y
    rw [List.foldl_cons, ih]
    cases hb : earlierHeld b y with
    | none => simp [hb] at this
    | some z => simp

theorem oldestHeld_eq_none_iff (s : State) : oldestHeld s = none ↔ ∀ st, heldAnswer? s st = none := by
  simp [oldestHeld, foldl_earlierHeld_eq_none, List.filterMap_eq_nil_iff, allStreams]

/-- The oldest held answer is held, and no held answer arrived before it. -/
theorem oldestHeld_spec {s : State} {h : HeldAnswer} (hh : oldestHeld s = some h) :
    heldAnswer? s h.stream = some h ∧ ∀ st x, heldAnswer? s st = some x → h.entry.arrival ≤ x.entry.arrival := by
  constructor
  · obtain hmem | hnone := earlierHeld_mem _ _ _ hh
    · obtain ⟨st, -, hst⟩ := List.mem_filterMap.1 hmem
      rwa [(heldAnswer_head hst).1]
    · cases hnone
  · exact fun st x hx => (foldl_earlierHeld_le hh).1 x (List.mem_filterMap.2 ⟨st, by simp [allStreams], hx⟩)

theorem oldestHeld_congr {s t : State} (h : t.fabric.ingress = s.fabric.ingress) : oldestHeld t = oldestHeld s := by
  have (st : Stream) : heldAnswer? t st = heldAnswer? s st := by simp only [heldAnswer?, ingressOf, h]
  simp only [oldestHeld, funext this]

/-! ## Held answers enter (R162) -/

/-- The state in which a held answer has entered the egress queue and its entry has been freed. -/
def entered (s : State) (h : HeldAnswer) : State :=
  freeHead (enterEgress s (plainAnswer h.stream h.entry.req.tag h.status)) h.stream

theorem ingressOf_entered (s : State) (h : HeldAnswer) (st : Stream) :
    ingressOf (entered s h) st = if h.stream = st then (ingressOf s st).tail else ingressOf s st := by
  by_cases hst : h.stream = st
  · subst hst
    simp [entered, ingressOf]
  · simp [entered, ingressOf, hst]

theorem ingressCount_eq_sum (s : State) : ingressCount s = ∑ st : Stream, (ingressOf s st).length := by
  rw [ingressCount, allStreams, ← Fin.sum_univ_def]

/-- An entry freed is one entry less in all queues. -/
theorem ingressCount_entered {s : State} {h : HeldAnswer} (hne : ingressOf s h.stream ≠ []) :
    ingressCount (entered s h) + 1 = ingressCount s := by
  have others : ∑ st ∈ Finset.univ.erase h.stream, (ingressOf (entered s h) st).length
      = ∑ st ∈ Finset.univ.erase h.stream, (ingressOf s st).length :=
    Finset.sum_congr rfl fun st hst => by
      rw [ingressOf_entered, if_neg (Finset.ne_of_mem_erase hst).symm]
  have hpos := List.length_pos_iff.2 hne
  rw [ingressCount_eq_sum, ingressCount_eq_sum, ← Finset.add_sum_erase _ _ (Finset.mem_univ h.stream),
    ← Finset.add_sum_erase _ (fun st => (ingressOf s st).length) (Finset.mem_univ h.stream), others, ingressOf_entered,
    if_pos rfl, List.length_tail]
  omega

/-- Nothing is held: nothing enters. -/
theorem settleHeldAnswers_of_none {s : State} (h : oldestHeld s = none) : settleHeldAnswers s = s := by
  unfold settleHeldAnswers
  cases ingressCount s with
  | zero => rfl
  | succ n => simp only [enterHeldAnswers, h]

/-- There is no room: nothing enters. -/
theorem settleHeldAnswers_of_full {s : State} (h : hasRoom s = false) : settleHeldAnswers s = s := by
  unfold settleHeldAnswers
  cases ingressCount s with
  | zero => rfl
  | succ n =>
    unfold enterHeldAnswers
    split
    · rfl
    · simp [h]

/-- The oldest held answer enters where there is room, and then the rest. -/
theorem settleHeldAnswers_of_some {s : State} {h : HeldAnswer} (hh : oldestHeld s = some h) (hr : hasRoom s = true) :
    settleHeldAnswers s = settleHeldAnswers (entered s h) := by
  rw [settleHeldAnswers, settleHeldAnswers, ← ingressCount_entered (oldestHeld_head hh)]
  simp only [enterHeldAnswers, hh, hr, if_true]
  rfl

/-- What the held answers that enter leave of the state, and where each of them stands (R159, R162). -/
structure HeldEntered (s t : State) (answers : List Response) : Prop where
  rest : t = { s with fabric := t.fabric, wires := t.wires }
  fabric : t.fabric = { s.fabric with
    ingress := t.fabric.ingress, credits := t.fabric.credits, egress := s.fabric.egress ++ answers }
  wires : t.wires = { s.wires with fabricOut := s.wires.fabricOut ++ answers.map fun r => .credit r.stream }
  queues : ∀ (status : Status) (st : Stream),
    (answers.filter fun r => r.stream == st) ++ (ingressOf t st).map (fun e => plainAnswer st e.req.tag (e.answer.getD status))
      = (ingressOf s st).map fun e => plainAnswer st e.req.tag (e.answer.getD status)
  suffix : ∀ st, ingressOf t st <:+ ingressOf s st
  credits : ∀ st, (ingressOf t st).length + t.fabric.credits.read st = (ingressOf s st).length + s.fabric.credits.read st

theorem HeldEntered.refl (s : State) : HeldEntered s s [] :=
  ⟨rfl, by simp, by simp, fun _ _ => by simp, fun _ => List.suffix_refl _, fun _ => rfl⟩

theorem HeldEntered.trans {s t u : State} {a b : List Response} (h : HeldEntered s t a) (k : HeldEntered t u b) :
    HeldEntered s u (a ++ b) where
  rest := by rw [k.rest, h.rest]
  fabric := by rw [k.fabric, h.fabric]; simp
  wires := by rw [k.wires, h.wires]; simp
  queues status st := by
    rw [List.filter_append, List.append_assoc, k.queues, h.queues]
  suffix st := (k.suffix st).trans (h.suffix st)
  credits st := (k.credits st).trans (h.credits st)

theorem heldEntered_one {s : State} {h : HeldAnswer} (hh : oldestHeld s = some h) :
    HeldEntered s (entered s h) [plainAnswer h.stream h.entry.req.tag h.status] := by
  obtain ⟨-, ⟨es, hq⟩, ha⟩ := (heldAnswer?_eq_some_iff s _ h).1 (oldestHeld_spec hh).1
  refine ⟨rfl, rfl, rfl, fun status st => ?_, fun st => ?_, fun st => ?_⟩
  · rw [ingressOf_entered]
    by_cases hst : h.stream = st
    · subst hst
      simp [hq, ha, plainAnswer]
    · simp [hst, plainAnswer]
  · rw [ingressOf_entered]
    split
    · exact List.tail_suffix _
    · exact List.suffix_refl _
  · rw [ingressOf_entered]
    by_cases hst : h.stream = st
    · subst hst
      simp [entered, hq]
      omega
    · simp [entered, hst]

/-- Held answers enter until none is left or there is no room. -/
theorem settleHeldAnswers_entered (s : State) :
    ∃ answers, HeldEntered s (settleHeldAnswers s) answers
      ∧ (oldestHeld (settleHeldAnswers s) = none ∨ hasRoom (settleHeldAnswers s) = false) := by
  induction hn : ingressCount s generalizing s with
  | zero =>
    have none : oldestHeld s = none := by
      cases hh : oldestHeld s with
      | none => rfl
      | some h =>
        have := ingressCount_entered (oldestHeld_head hh)
        omega
    rw [settleHeldAnswers_of_none none]
    exact ⟨[], .refl s, .inl none⟩
  | succ n ih =>
    cases hh : oldestHeld s with
    | none =>
      rw [settleHeldAnswers_of_none hh]
      exact ⟨[], .refl s, .inl hh⟩
    | some h =>
      cases hr : hasRoom s with
      | false =>
        rw [settleHeldAnswers_of_full hr]
        exact ⟨[], .refl s, .inr hr⟩
      | true =>
        have less := ingressCount_entered (oldestHeld_head hh)
        obtain ⟨answers, henter, hend⟩ := ih (entered s h) (by omega)
        rw [settleHeldAnswers_of_some hh hr]
        exact ⟨_, (heldEntered_one hh).trans henter, hend⟩

/-! ## Arrival (R159, R143) -/

theorem answersFromQueue_iff (s : State) :
    answersFromQueue s = true ↔ s.modes.mode = .draining ∨ s.modes.mode = .halted := by
  simp [answersFromQueue]

theorem exec_requestArrival_full {r : Request} {s : State} (h : 8 ≤ (ingressOf s r.stream).length) :
    exec (.requestArrival r) s = .next s := congrArg Host.Outcome.next (if_pos h)

theorem exec_requestArrival_room {r : Request} {s : State} (h : (ingressOf s r.stream).length < 8) :
    exec (.requestArrival r) s =
      .next (if answersFromQueue s then settleHeldAnswers (appendArrival s r) else appendArrival s r) :=
  congrArg Host.Outcome.next (if_neg (Nat.not_le.2 h))

/-- A request that arrives at an empty queue, answered there, is the oldest held answer when none was held. -/
theorem oldestHeld_appendArrival {r : Request} {s : State} (hq : ingressOf s r.stream = [])
    (hm : answersFromQueue s = true) (hn : oldestHeld s = none) :
    oldestHeld (appendArrival s r) =
      some { stream := r.stream, entry := { req := r, arrival := s.fabric.arrivals + 1, answer := some .powerfail },
             status := .powerfail } := by
  have held (st : Stream) : heldAnswer? (appendArrival s r) st =
      if r.stream = st then
        some { stream := r.stream, entry := { req := r, arrival := s.fabric.arrivals + 1, answer := some .powerfail },
               status := .powerfail }
      else none := by
    by_cases hst : r.stream = st
    · subst hst
      simp [heldAnswer?, ingressOf, appendArrival, hm, show s.fabric.ingress.read r.stream = [] from hq]
    · have := (oldestHeld_eq_none_iff s).1 hn st
      simpa [heldAnswer?, ingressOf, appendArrival, hst] using this
  cases hh : oldestHeld (appendArrival s r) with
  | none =>
    have := (oldestHeld_eq_none_iff _).1 hh r.stream
    simp [held] at this
  | some h =>
    have := (oldestHeld_spec hh).1
    rw [held] at this
    split at this
    · exact this.symm
    · cases this

/-- Settles O5: by the room of the queue, the mode, and the room of the egress queue. -/
theorem arrivalQueuesOrDiscardsOrAnswers : Obligations.ArrivalQueuesOrDiscardsOrAnswers := by
  intro r s
  refine ⟨fun h => exec_requestArrival_full h, fun h hd hh => ?append, fun h hm hr => ?kept, fun hq hc hm hr hn => ?atOnce⟩
  case append =>
    have mode : answersFromQueue s = false := by simp [answersFromQueue, hd, hh]
    rw [Answers, exec_requestArrival_room h, mode]
    simp [appendArrival, mode]
  case kept =>
    have mode := (answersFromQueue_iff s).2 hm
    have full : hasRoom (appendArrival s r) = false := hr
    rw [Answers, exec_requestArrival_room h, mode, if_pos rfl, settleHeldAnswers_of_full full]
    simp [appendArrival, mode]
  case atOnce =>
    have mode := (answersFromQueue_iff s).2 hm
    have room : hasRoom (appendArrival s r) = true := hr
    rw [Answers, exec_requestArrival_room (by simp [hq]), mode, if_pos rfl,
      settleHeldAnswers_of_some (oldestHeld_appendArrival hq mode hn) room]
    have back : s.fabric.ingress.write r.stream [] = s.fabric.ingress := by
      have := PerStream.write_read s.fabric.ingress r.stream
      rwa [show s.fabric.ingress.read r.stream = [] from hq] at this
    have credit : s.fabric.credits.write r.stream (s.fabric.credits.read r.stream - 1 + 1) = s.fabric.credits := by
      rw [Nat.sub_add_cancel hc, PerStream.write_read]
    rw [settleHeldAnswers_of_none]
    · simp [entered, appendArrival, freeHead, enterEgress, ingressOf, back, credit, creditSignalled,
        show s.fabric.ingress.read r.stream = [] from hq]
    · rw [← hn]
      refine oldestHeld_congr ?_
      simp [entered, appendArrival, freeHead, enterEgress, ingressOf, back,
        show s.fabric.ingress.read r.stream = [] from hq]

end Sys2Proof.Machine

/-! PROOF. RESPONSE_SEND and the held answers that enter behind it (R162, R163). -/

namespace Sys2Proof.Machine

/-! ## Sending (R163, R162) -/

theorem exec_responseSend_nil {s : State} (h : s.fabric.egress = []) : exec .responseSend s = .next s := by
  change execResponseSend s = _
  rw [execResponseSend, h]

theorem exec_responseSend_cons {s : State} {r : Response} {rs : List Response} (h : s.fabric.egress = r :: rs) :
    exec .responseSend s = .next (settleHeldAnswers (sendHead s)) := by
  change execResponseSend s = _
  rw [execResponseSend, h]

theorem sendHead_cons {s : State} {r : Response} {rs : List Response} (h : s.fabric.egress = r :: rs) :
    sendHead s =
      { s with
        fabric := { s.fabric with egress := rs }
        wires := { s.wires with fabricOut := s.wires.fabricOut ++ [.response r] } } := by
  rw [sendHead, h]

theorem oldestHeld_sendHead (s : State) : oldestHeld (sendHead s) = oldestHeld s := by
  refine oldestHeld_congr ?_
  rw [sendHead]
  split <;> rfl

theorem hasRoom_iff (s : State) : hasRoom s = true ↔ s.fabric.takenUnanswered < 128 - s.fabric.egress.length := by
  rw [hasRoom, decide_eq_true_iff]
  rfl

theorem hasRoom_eq_false_iff (s : State) :
    hasRoom s = false ↔ 128 - s.fabric.egress.length ≤ s.fabric.takenUnanswered := by
  rw [← Bool.not_eq_true, hasRoom_iff, Nat.not_lt]

/-- What the first of the held answers to enter does, whatever enters behind it. -/
theorem settleHeldAnswers_first {s : State} {h : HeldAnswer} (hh : oldestHeld s = some h) (hr : hasRoom s = true) :
    ∃ answers, HeldEntered s (settleHeldAnswers s) (plainAnswer h.stream h.entry.req.tag h.status :: answers)
      ∧ ∀ st, ingressOf (settleHeldAnswers s) st <:+ ingressOf (entered s h) st := by
  obtain ⟨answers, henter, -⟩ := settleHeldAnswers_entered (entered s h)
  rw [settleHeldAnswers_of_some hh hr]
  exact ⟨answers, (heldEntered_one hh).trans henter, henter.suffix⟩

/-- No answer is held exactly when no head of an ingress queue is an answered entry. -/
theorem oldestHeld_eq_none_iff_heads (s : State) :
    oldestHeld s = none ↔ ∀ st e es, ingressOf s st = e :: es → e.answer = none := by
  simp only [oldestHeld_eq_none_iff, heldAnswer?_eq_none_iff]

/-- Settles O6: the head leaves, and the first held answer enters where there is room. -/
theorem sendRemovesHeadAndAdmitsHeldAnswers : Obligations.SendRemovesHeadAndAdmitsHeldAnswers := by
  refine ⟨fun s r rs => ⟨exec_responseSend_nil, fun hq hn => ?noneHeld, fun h hq hh => ⟨fun hfull => ?full,
    fun hroom => ?room, fun hone => ?one⟩⟩, fun s => ⟨oldestHeld_eq_none_iff_heads s, fun h hh => ?oldest⟩⟩
  case noneHeld =>
    rw [Answers, exec_responseSend_cons hq, settleHeldAnswers_of_none (by rw [oldestHeld_sendHead, hn]), sendHead_cons hq]
  case full =>
    have full : hasRoom (sendHead s) = false := by rw [hasRoom_eq_false_iff, sendHead_cons hq]; exact hfull
    rw [Answers, exec_responseSend_cons hq, settleHeldAnswers_of_full full, sendHead_cons hq]
  case room =>
    have room : hasRoom (sendHead s) = true := by rw [hasRoom_iff, sendHead_cons hq]; exact hroom
    obtain ⟨answers, henter, hbehind⟩ := settleHeldAnswers_first (by rw [oldestHeld_sendHead, hh]) room
    refine ⟨_, exec_responseSend_cons hq, ?_⟩
    have queues (st : Stream) : ingressOf (sendHead s) st = ingressOf s st := by rw [sendHead_cons hq]; rfl
    have credits : (sendHead s).fabric.credits = s.fabric.credits := by rw [sendHead_cons hq]
    refine ⟨?_, ?_, ?_, fun st => ?_, ?_⟩
    · rw [henter.fabric, sendHead_cons hq]
      exact ⟨answers, by simp⟩
    · rw [henter.wires, sendHead_cons hq]
      exact ⟨answers.map fun r => .credit r.stream, by simp [plainAnswer]⟩
    · simpa only [ingressOf_entered, if_pos, queues] using hbehind h.stream
    · rw [henter.credits, queues, credits]
    · rw [henter.fabric, sendHead_cons hq]
  case one =>
    have room : hasRoom (sendHead s) = true := by rw [hasRoom_iff, sendHead_cons hq]; dsimp only; omega
    have full : hasRoom (entered (sendHead s) h) = false := by
      rw [hasRoom_eq_false_iff, sendHead_cons hq]
      simp only [entered, freeHead, enterEgress, List.length_append, List.length_singleton]
      omega
    rw [Answers, exec_responseSend_cons hq, settleHeldAnswers_of_some (by rw [oldestHeld_sendHead, hh]) room,
      settleHeldAnswers_of_full full, sendHead_cons hq]
    simp [entered, freeHead, enterEgress, ingressOf]
  case oldest =>
    obtain ⟨hhead, hfirst⟩ := oldestHeld_spec hh
    obtain ⟨-, hes, ha⟩ := (heldAnswer?_eq_some_iff s _ h).1 hhead
    refine ⟨hes, ha, fun st e es hq he => ?_⟩
    obtain ⟨v, hv⟩ := Option.isSome_iff_exists.1 he
    exact hfirst st ⟨st, e, v⟩ ((heldAnswer?_eq_some_iff s st _).2 ⟨rfl, ⟨es, hq⟩, hv⟩)

end Sys2Proof.Machine

/-! PROOF. The egress queue is first in first out, and the take arbiter (R160, R161, R163). -/

namespace Sys2Proof.Machine

/-! ## The egress queue (R163) -/

theorem Move.keepsEgress {s t : State} (h : Move s t) : s.fabric.egress <+: t.fabric.egress := by
  cases h
  case fabric f hi hc he => exact he
  all_goals exact List.prefix_rfl

theorem Path.keepsEgress {s t : State} (h : Path s t) : s.fabric.egress <+: t.fabric.egress :=
  h.keeps (P := fun u => s.fabric.egress <+: u.fabric.egress) (fun _ _ hm hu => hu.trans hm.keepsEgress) List.prefix_rfl

/-- Settles O7: every move keeps the queue as a front. -/
theorem egressQueueIsFifo : Obligations.EgressQueueIsFifo := by
  intro c s t hc hr h
  by_cases hf : ∃ v, c = .eventFlagsClear v
  · obtain ⟨v, rfl⟩ := hf
    cases h
    exact List.prefix_rfl
  · exact (exec_path c s t hc hr (fun v hv => hf ⟨v, hv⟩) h).keepsEgress

/-! ## The take arbiter (R160, R161) -/

/-- The first hit in the streams from a pointer on. -/
theorem findSome?_roundRobin_iff {α : Type} (f : Stream → Option α) (p : Stream) (a : α) :
    (roundRobin p).findSome? f = some a ↔ ∃ d : Fin 16, f (p + d) = some a ∧ ∀ e < d, f (p + e) = none := by
  rw [roundRobin, allStreams, List.findSome?_map, List.findSome?_eq_some_iff]
  constructor
  · rintro ⟨before, d, after, hsplit, hd, hnone⟩
    refine ⟨d, hd, fun e he => hnone e ?_⟩
    have sorted := List.pairwise_lt_finRange 16
    rw [hsplit, List.pairwise_append, List.pairwise_cons] at sorted
    have mem : e ∈ before ++ d :: after := hsplit ▸ List.mem_finRange e
    rw [List.mem_append, List.mem_cons] at mem
    obtain h | rfl | h := mem
    · exact h
    · exact absurd he (lt_irrefl _)
    · exact absurd he (sorted.2.1.1 e h).asymm
  · rintro ⟨d, hd, hnone⟩
    obtain ⟨before, after, hsplit⟩ := List.append_of_mem (List.mem_finRange d)
    have sorted := List.pairwise_lt_finRange 16
    rw [hsplit, List.pairwise_append] at sorted
    exact ⟨before, d, after, hsplit, hd, fun e he => hnone e (sorted.2.2 e he d (List.mem_cons_self ..))⟩

theorem takeGrant_eq_some_iff (s : State) (g : Grant) :
    takeGrant s = some g ↔
      (s.fabric.takenUnanswered < 128 - s.fabric.egress.length ∧ s.modes.mode ≠ .draining ∧ s.modes.mode ≠ .halted)
        ∧ takeableHead s g.stream = some g.req
        ∧ ∃ d : Fin 16, g.stream = s.fabric.pointer + d ∧ ∀ e < d, takeableHead s (s.fabric.pointer + e) = none := by
  have may : (hasRoom s && !answersFromQueue s) = true ↔
      s.fabric.takenUnanswered < 128 - s.fabric.egress.length ∧ s.modes.mode ≠ .draining ∧ s.modes.mode ≠ .halted := by
    rw [Bool.and_eq_true, hasRoom_iff, Bool.not_eq_true', ← Bool.not_eq_true, answersFromQueue_iff, not_or]
  rw [takeGrant, ← may]
  split
  case isFalse hm => simp [hm]
  case isTrue hm =>
    simp only [findSome?_roundRobin_iff, Option.map_eq_some_iff, Option.map_eq_none_iff, hm, true_and]
    constructor
    · rintro ⟨d, ⟨r, hr, rfl⟩, hnone⟩
      exact ⟨hr, d, rfl, hnone⟩
    · rintro ⟨hr, d, hd, hnone⟩
      exact ⟨d, ⟨g.req, hd ▸ hr, by rw [← hd]⟩, hnone⟩

/-- A take with no grant changes nothing. -/
theorem takeOf_none {s : State} (h : takeGrant s = none) (k : RequestKind) (act : State → Grant → State) :
    takeOf k act s = s := by
  simp only [takeOf, h]

/-- A take of another kind than the granted head's changes nothing. -/
theorem takeOf_otherKind {s : State} {g : Grant} {k : RequestKind} (h : takeGrant s = some g) (hk : g.req.kind ≠ k)
    (act : State → Grant → State) : takeOf k act s = s := by
  simp only [takeOf, h, if_neg hk]

/-- What a take acts by in READY (R71, R58, R11, R13). -/
def takeAct : RequestKind → State → Grant → State
  | .read => actRead
  | .write => actWrite
  | .commit => actCommit
  | .discard => actDiscard

/-- The four takes are one operation with four acts. -/
theorem exec_takeCommand (k : RequestKind) (s : State) : exec (takeCommand k) s = .next (takeOf k (takeAct k) s) := by
  cases k <;> rfl

/-! ## Takeable heads (R160) -/

theorem isDoomed_iff (s : State) (st : Stream) : isDoomed s st = true ↔ ∃ r, recordOf s st = .doomed r := by
  unfold isDoomed
  cases recordOf s st <;> simp

theorem inWaitList_eq_false_iff (s : State) (st : Stream) :
    inWaitList s st = false ↔ ∀ r ∈ s.claims.waitList, r.write.stream ≠ st := by
  simp [inWaitList]

theorem inSlotWait_eq_false_iff (s : State) (st : Stream) :
    inSlotWait s st = false ↔ ∀ h ∈ s.staging.slotWait, h.stream ≠ st := by
  simp [inSlotWait]

theorem headBlocked_eq_false_iff (s : State) (st : Stream) (r : Request) :
    headBlocked s st r = false ↔
      (r.kind = .commit → isDoomed s st = true ∨ (s.reloc.state = .none ∧ s.groups.queue.length < 32))
        ∧ (r.kind = .write → s.posted.records.length < 32)
        ∧ (r.kind = .read → s.reads.length < 48) := by
  unfold headBlocked
  cases r.kind with
  | commit =>
    cases isDoomed s st
    · simp
      exact fun _ => Iff.rfl
    · simp
  | write =>
    simp
    rfl
  | read =>
    simp
    rfl
  | discard => simp

theorem takeableHead_nil {s : State} {st : Stream} (h : ingressOf s st = []) : takeableHead s st = none := by
  simp only [takeableHead, h]

theorem takeableHead_cons {s : State} {st : Stream} {e : IngressEntry} {es : List IngressEntry}
    (h : ingressOf s st = e :: es) :
    takeableHead s st = if e.answer.isNone && !blocked s st e.req then some e.req else none := by
  simp only [takeableHead, h]

/-- A head is takeable exactly when its entry has no answer and its stream is not blocked. -/
theorem takeableHead_cons_cases {s : State} {st : Stream} {e : IngressEntry} {es : List IngressEntry}
    (h : ingressOf s st = e :: es) :
    ((e.answer = none ∧ blocked s st e.req = false) → takeableHead s st = some e.req)
      ∧ (¬(e.answer = none ∧ blocked s st e.req = false) → takeableHead s st = none) := by
  have cond : (e.answer.isNone && !blocked s st e.req) = true ↔ e.answer = none ∧ blocked s st e.req = false := by
    simp
  rw [takeableHead_cons h]
  exact ⟨fun k => if_pos (cond.2 k), fun k => if_neg fun hk => k (cond.1 hk)⟩

theorem blocked_ready_eq_false_iff {s : State} (hm : s.modes.mode = .ready) (st : Stream) (r : Request) :
    blocked s st r = false ↔
      (∀ x ∈ s.claims.waitList, x.write.stream ≠ st) ∧ (∀ h ∈ s.staging.slotWait, h.stream ≠ st)
        ∧ headBlocked s st r = false := by
  rw [blocked, hm, beq_self_eq_true, Bool.true_and, Bool.or_eq_false_iff, Bool.or_eq_false_iff, and_assoc,
    inWaitList_eq_false_iff, inSlotWait_eq_false_iff]

theorem blocked_notReady {s : State} (hm : s.modes.mode ≠ .ready) (st : Stream) (r : Request) :
    blocked s st r = false := by
  rw [blocked, beq_false_of_ne hm, Bool.false_and]

/-- Settles O8: the arbiter's search, and the conditions of its heads. -/
theorem takeArbiterGrantsUnblockedHeads : Obligations.TakeArbiterGrantsUnblockedHeads := by
  refine ⟨fun s => ⟨takeGrant_eq_some_iff s, fun hn k => ?none, fun g k hg hk => ?other⟩,
    fun s st => ⟨takeableHead_nil, fun e es hq => ⟨fun hm => ?ready, fun hm => ?notReady⟩⟩⟩
  case none => rw [Answers, exec_takeCommand, takeOf_none hn]
  case other => rw [Answers, exec_takeCommand, takeOf_otherKind hg hk]
  case ready =>
    have cases := takeableHead_cons_cases hq
    rwa [blocked_ready_eq_false_iff hm, headBlocked_eq_false_iff] at cases
  case notReady =>
    have cases := takeableHead_cons_cases hq
    rwa [blocked_notReady hm, eq_self, and_true] at cases

/-! ## Takes outside READY (R161) -/

/-- A take that its mode answers. -/
theorem takeOf_modeAnswer {s : State} {g : Grant} {status : Status} (hg : takeGrant s = some g)
    (hm : modeAnswer s.modes.mode = some status) (act : State → Grant → State) :
    takeOf g.req.kind act s =
      { s with
        fabric := fabricAnswered s g.stream (plainAnswer g.stream g.req.tag status)
        wires := creditSignalled s g.stream } := by
  simp only [takeOf, hg, if_true, hm]
  exact takeHead_answered s _ _

/-- Settles O9: the mode has an answer. -/
theorem takesOutsideReadyAreAnsweredFromMode : Obligations.TakesOutsideReadyAreAnsweredFromMode := by
  intro s g hg
  refine ⟨fun hm => ?_, fun hm => ?_⟩
  · have answer : modeAnswer s.modes.mode = some .notReady := by
      obtain hm | hm | hm := hm <;> rw [hm] <;> rfl
    rw [Answers, exec_takeCommand, takeOf_modeAnswer hg answer]
  · have answer : modeAnswer s.modes.mode = some .portDown := by rw [hm]; rfl
    rw [Answers, exec_takeCommand, takeOf_modeAnswer hg answer]

end Sys2Proof.Machine

/-! PROOF. Bytes of lines, denied requests and plain writes (R30, R58, R62, R78). -/

namespace Sys2Proof.Machine

/-! ## Bytes of lines (R30, R61, R78) -/

@[simp] theorem getElem_overlay (m : Mask) (new old : Line) (p : Nat) (hp : p < 64) :
    (overlay m new old)[p] = if m.getLsbD p then new[p] else old[p] := by
  rw [overlay, Vector.getElem_ofFn]

@[simp] theorem getElem_placeBytes (o : Nat) (bs : List Byte) (p : Nat) (hp : p < 64) :
    (placeBytes o bs)[p] = if o ≤ p then bs.getD (p - o) 0#8 else 0#8 := by
  simp [placeBytes]

theorem layOver_concat (base : Line) (vs : List Slot) (v : Slot) :
    layOver base (vs ++ [v]) = overlay v.mask v.data (layOver base vs) := by
  simp [layOver]

/-- Settles O11: the newest version is laid over last; the mask and the bytes by position. -/
theorem linesMasksAndLaidOverBytes : Obligations.LinesMasksAndLaidOverBytes := by
  refine ⟨fun base vs p => ?laid, fun o n bs p hfit hlen => ⟨?mask, ?bytes⟩⟩
  case laid =>
    induction vs using List.reverseRecOn with
    | nil => rfl
    | append_singleton vs v ih =>
      rw [layOver_concat, List.reverse_append, List.reverse_singleton, List.singleton_append, List.find?_cons]
      rw [Fin.getElem_fin, getElem_overlay _ _ _ _ p.isLt]
      cases hv : v.mask.getLsbD p.val with
      | true => rfl
      | false => exact ih
  case mask =>
    rw [getLsbD_byteMask]
    omega
  case bytes =>
    rw [Fin.getElem_fin, getElem_placeBytes _ _ _ p.isLt]
    by_cases ho : o ≤ p.val
    · by_cases hn : p.val < o + n
      · simp [ho, hn]
      · have beyond : bs.length ≤ p.val - o := by omega
        simp [ho, hn, List.getElem?_eq_none beyond]
    · simp [ho]

/-! ## Requests of READY that the window decoder turns away (R58) -/

/-- A granted request in READY: its head is taken and its kind's unit acts on it (R161). -/
theorem exec_take_ready {s : State} {g : Grant} (hr : s.modes.mode = .ready) (hg : takeGrant s = some g) :
    exec (takeCommand g.req.kind) s = .next (takeAct g.req.kind (takeHead s g.stream) g) := by
  rw [exec_takeCommand, takeOf_ready _ _ hr hg rfl]

theorem exec_takeWrite_ready {s : State} {g : Grant} (hr : s.modes.mode = .ready) (hg : takeGrant s = some g)
    (hk : g.req.kind = .write) : exec .takeWrite s = .next (actWrite (takeHead s g.stream) g) :=
  congrArg Host.Outcome.next (takeOf_ready .write actWrite hr hg hk)

theorem actRead_of_denied {s : State} {g : Grant} (hc : classify s g.stream g.req = .denied) :
    actRead s g = answerDenied s g := by
  simp only [actRead, hc]

theorem actWrite_of_denied {s : State} {g : Grant}
    (hc : classify s g.stream g.req = .denied ∨ classify s g.stream g.req = .readOnly) :
    actWrite s g = answerDenied s g := by
  obtain hc | hc := hc <;> simp only [actWrite, hc]

theorem actWrite_of_plain {s : State} {g : Grant} (hc : classify s g.stream g.req = .plain) :
    actWrite s g = plainWrite s g := by
  simp only [actWrite, hc]

theorem actWrite_of_guarded {s : State} {g : Grant} (hc : classify s g.stream g.req = .guarded) :
    actWrite s g = settle (guardedWrite (Work.start s) (heldWrite g)) := by
  simp only [actWrite, hc]

/-- Settles O14: the taken head is answered at once. -/
theorem deniedRequestsChangeOnlyTheFabricPort : Obligations.DeniedRequestsChangeOnlyTheFabricPort := by
  intro s g hr hg t
  refine ⟨fun hk hc => ?read, fun hk hc => ?write⟩
  case read =>
    rw [Answers, exec_takeRead_ready hr hg hk, actRead_of_denied (by simpa using hc)]
    rfl
  case write =>
    rw [Answers, exec_takeWrite_ready hr hg hk, actWrite_of_denied (by simpa using hc)]
    rfl

/-! ## A plain write (R62) -/

/-- No record is UNISSUED exactly when every one has been issued. -/
theorem postedHead_isNone_iff (s : State) : (postedHead s).isNone = true ↔ ∀ q ∈ s.posted.records, q.issued = true := by
  simp [postedHead]

/-- A plain write joins the queue, is handed over when it is the oldest UNISSUED record, and is answered POSTED. -/
theorem plainWrite_eq (s : State) (g : Grant) :
    plainWrite s g =
      let p := postedRecord s g
      answerTaken
        (handOver { s with posted := { s.posted with records := s.posted.records ++ [p] } }
          (if ∀ q ∈ s.posted.records, q.issued = true then [postedRequest p] else []))
        (plainAnswer g.stream g.req.tag .posted) := by
  simp only [plainWrite, postedHead_isNone_iff]
  split
  · rfl
  · rw [handOver_nil]

/-- Settles O16. -/
theorem plainWriteIsPosted : Obligations.PlainWriteIsPosted := by
  intro s g hr hg hk hc o p
  rw [Answers, exec_takeWrite_ready hr hg hk, actWrite_of_plain (by simpa using hc), plainWrite_eq]
  rfl

end Sys2Proof.Machine

/-! PROOF. CLEAR_COUNTERS, unknown commands, the idle timeout and register writes (R8, R118, R165, R167). -/

namespace Sys2Proof.Machine

/-! ## CLEAR_COUNTERS, UNKNOWN_COMMAND (R118, R167) and the idle timeout (R8) -/

theorem namesCommand_iff (v : Word) : namesCommand v = true ↔ 1 ≤ v.toNat ∧ v.toNat ≤ 7 := by
  simp [namesCommand]

/-- Settles O47: neither value names a command. -/
theorem clearCountersAndUnknownCommands : Obligations.ClearCountersAndUnknownCommands := by
  refine fun s v => ⟨rfl, fun hv => ?_⟩
  have unnamed : ¬namesCommand v = true := by
    rw [namesCommand_iff]
    obtain rfl | hv := hv
    · decide
    · omega
  exact congrArg Host.Outcome.next (if_neg unnamed)

theorem recordOf_removeDeadlines (s : State) (st : Stream) :
    recordOf (removeDeadlines s) st = (recordOf s st).noDeadline := by
  simp [recordOf, removeDeadlines, PerStream.read]

/-- Settles O49: by the range of the value. -/
theorem idleTimeoutWriteKeepsOrRemovesDeadlines : Obligations.IdleTimeoutWriteKeepsOrRemovesDeadlines := by
  refine fun s v => ⟨fun hv => ?beyond, fun hpos hv => ?set, fun hv => ?removed⟩
  case beyond => exact congrArg Host.Outcome.next (if_pos hv)
  case set =>
    exact congrArg Host.Outcome.next ((if_neg (Nat.not_lt.2 hv)).trans (if_neg hpos.ne'))
  case removed =>
    subst hv
    refine ⟨removeDeadlines (setIdleTimeout s 0), rfl, rfl, rfl, fun st => ?_, rfl, rfl⟩
    rw [recordOf_removeDeadlines]
    change (recordOf s st).noDeadline = _
    cases recordOf s st <;> rfl

/-! ## REGISTER_WRITE (R165) -/

/-- The writes that rows of their own describe are those of five registers. -/
theorem ownRowWrite_eq_false {i : BitVec 8} (v : Word) (h : i ∉ [0x02#8, 0x03#8, 0x04#8, 0x08#8, 0x12#8]) :
    ownRowWrite i v = false := by
  simp only [List.mem_cons, List.not_mem_nil, or_false, not_or] at h
  obtain ⟨h2, h3, h4, h8, h12⟩ := h
  simp [ownRowWrite, h2, h3, h4, h8, h12]

theorem exec_registerWrite {i : BitVec 8} {v : Word} (h : ownRowWrite i v = false) (s : State) :
    exec (.registerWrite i v) s = .next (writeRegister s i v) :=
  congrArg Host.Outcome.next (if_neg (by rw [h]; decide))

theorem windowIndex?_window (w : Fin 8) (part : Fin 3) :
    windowIndex? (BitVec.ofNat 8 (0x20 + 3 * w.val + part.val)) = some (w, part) := by
  revert w part
  decide

theorem window_not_ownRow (w : Fin 8) (part : Fin 3) :
    BitVec.ofNat 8 (0x20 + 3 * w.val + part.val) ∉ [0x02#8, 0x03#8, 0x04#8, 0x08#8, 0x12#8] := by
  revert w part
  decide

theorem windowIndex?_eq_none {i : BitVec 8} (h : i.toNat < 0x20 ∨ 0x37 < i.toNat) : windowIndex? i = none :=
  dif_neg (by omega)

theorem writeRegister_of_none {i : BitVec 8} (h : windowIndex? i = none) (s : State) (v : Word) :
    writeRegister s i v = writePlain s i v := by
  simp only [writeRegister, h]

/-- A write of a window word changes its window alone (R54). -/
theorem exec_registerWrite_window (s : State) (v : Word) (w : Fin 8) (part : Fin 3) :
    exec (.registerWrite (BitVec.ofNat 8 (0x20 + 3 * w.val + part.val)) v) s =
      .next { s with decoder :=
        { s.decoder with table := s.decoder.table.set w (writeWindow s.decoder.table[w] part v) } } := by
  rw [exec_registerWrite (ownRowWrite_eq_false v (window_not_ownRow w part)), writeRegister, windowIndex?_window]

/-- A kind encoding that names no kind leaves the window (R165). -/
theorem writeWindow_unnamed {v : Word} (h : v.extractLsb' 16 2 = 3#2) (w : Window) : writeWindow w 2 v = w := by
  simp only [writeWindow, h]
  rfl

/-- A window word whose kind is named (R54). -/
theorem writeWindow_named {v : Word} {kind : WindowKind} (h : v.extractLsb' 16 2 = kind.code) (w : Window) :
    writeWindow w 2 v = { w with mask := v.setWidth 16, kind, enabled := v.getLsbD 31 } := by
  simp only [writeWindow, h]
  cases kind <;> rfl

/-- Indexes that are read-only or have no register ignore a write (R164, R165). -/
theorem writePlain_ignored {i : BitVec 8} (hlow : i.toNat ≤ 0x01 ∨ 0x09 ≤ i.toNat) (hmid : i.toNat < 0x10 ∨ 0x18 < i.toNat)
    (s : State) (v : Word) : writePlain s i v = s := by
  unfold writePlain
  split
  case h_13 => rfl
  all_goals omega

theorem writeDefaultKind_eq (s : State) (v : Word) :
    writeDefaultKind s v =
      if v = 0 then { s with decoder := { s.decoder with defaultKind := .deny } }
      else if v = 1 then { s with decoder := { s.decoder with defaultKind := .plain } } else s := by
  have zero : v.toNat = 0 ↔ v = 0 := by rw [← BitVec.toNat_inj]; rfl
  have one : v.toNat = 1 ↔ v = 1 := by rw [← BitVec.toNat_inj]; rfl
  rw [← if_congr zero rfl rfl, ← if_congr one rfl rfl]
  unfold writeDefaultKind
  split
  next h => rw [if_pos h]
  next h => rw [if_neg (by omega), if_pos h]
  next h0 h1 => rw [if_neg h0, if_neg h1]

/-- Settles O51: the registers of the table by their indexes, and the window words by their windows. -/
theorem registerWritesHoldRangesAndFields : Obligations.RegisterWritesHoldRangesAndFields := by
  refine ⟨fun s v => ⟨rfl, rfl, rfl, rfl, rfl, rfl, rfl, ?kind⟩,
    fun s v => ⟨rfl, rfl, rfl, fun hv => ?reloc, fun i hlow hmid hhigh => ?ignored, fun w => ?window⟩⟩
  case kind =>
    rw [← writeDefaultKind_eq]
    rfl
  case reloc =>
    have other : ownRowWrite 0x08#8 v = false := by rw [ownRowWrite, hv]; rfl
    rw [Answers, exec_registerWrite other]
    rfl
  case ignored =>
    have other : i ∉ [0x02#8, 0x03#8, 0x04#8, 0x08#8, 0x12#8] := by
      simp only [List.mem_cons, List.not_mem_nil, or_false, ← BitVec.toNat_inj, BitVec.toNat_ofNat]
      omega
    rw [Answers, exec_registerWrite (ownRowWrite_eq_false v other),
      writeRegister_of_none (windowIndex?_eq_none hhigh), writePlain_ignored hlow hmid]
  case window =>
    have named (kind : WindowKind) (h : v.extractLsb' 16 2 = kind.code) :=
      (exec_registerWrite_window s v w 2).trans (by rw [writeWindow_named h])
    refine ⟨exec_registerWrite_window s v w 0, exec_registerWrite_window s v w 1, named .plain, named .guarded, named .readOnly, fun h => ?_⟩
    refine (exec_registerWrite_window s v w 2).trans ?_
    rw [writeWindow_unnamed h]
    simp

end Sys2Proof.Machine

/-! PROOF. Register reads and frames of the management port (R164, R165). -/

namespace Sys2Proof.Machine

/-! ## Fields of a register word (12.4) -/

/-- A field of a word made of a number. -/
theorem extractLsb'_word {n a k c : Nat} (h : n % 2 ^ 32 / 2 ^ a % 2 ^ k = c % 2 ^ k) :
    (word n).extractLsb' a k = BitVec.ofNat k c := by
  refine BitVec.eq_of_toNat_eq ?_
  simpa [word, Nat.shiftRight_eq_div_pow] using h

theorem Mode.code_lt (m : Mode) : m.code < 16 := by cases m <;> decide
theorem StartStatus.code_lt (m : StartStatus) : m.code < 16 := by cases m <;> decide
theorem CommandStatus.code_lt (m : CommandStatus) : m.code < 16 := by cases m <;> decide
theorem RelocState.code_lt (m : RelocState) : m.code < 16 := by cases m <;> simp [RelocState.code]
theorem RelocResult.code_lt (m : RelocResult) : m.code < 16 := by cases m <;> decide
theorem DrainStatus.code_lt (m : DrainStatus) : m.code < 16 := by cases m <;> decide

/-- The fields of MODE are the codes of what it reports. -/
theorem modeWord_fields (s : State) :
    (modeWord s).extractLsb' 0 4 = BitVec.ofNat 4 s.modes.mode.code
      ∧ (modeWord s).extractLsb' 4 4 = BitVec.ofNat 4 s.modes.startStatus.code
      ∧ (modeWord s).extractLsb' 8 4 = BitVec.ofNat 4 s.modes.lastCommand.code
      ∧ (modeWord s).extractLsb' 12 4 = BitVec.ofNat 4 s.reloc.state.code
      ∧ (modeWord s).extractLsb' 16 4 = BitVec.ofNat 4 s.reloc.result.code
      ∧ (modeWord s).extractLsb' 20 12 = BitVec.ofNat 12 s.drain.status.code := by
  have mode := s.modes.mode.code_lt
  have start := s.modes.startStatus.code_lt
  have command := s.modes.lastCommand.code_lt
  have reloc := s.reloc.state.code_lt
  have result := s.reloc.result.code_lt
  have drain := s.drain.status.code_lt
  refine ⟨?_, ?_, ?_, ?_, ?_, ?_⟩ <;> exact extractLsb'_word (by omega)

/-- The fields of RELOC_CTRL. -/
theorem relocCtrlWord_fields (s : State) :
    (relocCtrlWord s).extractLsb' 0 8 = s.regs.relocK.setWidth 8
      ∧ (relocCtrlWord s).extractLsb' 8 24 = if s.regs.relocHold then 1#24 else 0#24 := by
  have k := s.regs.relocK.isLt
  have hold := Bool.toNat_lt s.regs.relocHold
  constructor
  · refine (extractLsb'_word (c := s.regs.relocK.toNat) (by omega)).trans ?_
    exact BitVec.eq_of_toNat_eq (by simp)
  · refine (extractLsb'_word (c := s.regs.relocHold.toNat) (by omega)).trans ?_
    cases s.regs.relocHold <;> rfl

/-- The fields of WINw_ATTR. -/
theorem attrWord_fields (w : Window) :
    (attrWord w).extractLsb' 0 16 = w.mask ∧ (attrWord w).extractLsb' 16 15 = BitVec.ofNat 15 w.kind.code.toNat
      ∧ (attrWord w).getLsbD 31 = w.enabled := by
  have mask := w.mask.isLt
  have kind : w.kind.code.toNat < 4 := w.kind.code.isLt
  have enabled := Bool.toNat_lt w.enabled
  refine ⟨?_, extractLsb'_word (by omega), ?_⟩
  · refine (extractLsb'_word (c := w.mask.toNat) (by omega)).trans ?_
    simp
  · have bit : (attrWord w).extractLsb' 31 1 = BitVec.ofNat 1 w.enabled.toNat := extractLsb'_word (by omega)
    have bit0 := congrArg (BitVec.getLsbD · 0) bit
    cases he : w.enabled <;> simpa [he] using bit0

/-! ## What a read of a register returns (R164, R165) -/

theorem readRegister_of_none {i : BitVec 8} (h : windowIndex? i = none) (s : State) : readRegister s i = readPlain s i := by
  simp only [readRegister, h]

theorem readRegister_window (s : State) (w : Fin 8) (part : Fin 3) :
    readRegister s (BitVec.ofNat 8 (0x20 + 3 * w.val + part.val)) = windowWord s.decoder.table[w] part := by
  simp only [readRegister, windowIndex?_window]

/-- An index with no register reads as zero (R164). -/
theorem readRegister_unused {i : BitVec 8} (h : 0x0A < i.toNat ∧ i.toNat < 0x10 ∨ 0x18 < i.toNat ∧ i.toNat < 0x20
    ∨ 0x37 < i.toNat ∧ i.toNat < 0x40 ∨ 0x4B < i.toNat ∧ i.toNat < 0x50 ∨ 0x52 < i.toNat) (s : State) :
    readRegister s i = 0 := by
  rw [readRegister_of_none (windowIndex?_eq_none (by omega)), readPlain]
  split
  case h_35 => rfl
  all_goals omega

/-! ## Frames (R164) -/

theorem commandOf_eq (v : Word) (pfw : Bool) :
    commandOf v pfw =
      if v = 1 then .start else if v = 2 then .format else if v = 3 then .restart
      else if v = 4 then .resume pfw else if v = 5 then .relocGo else if v = 6 then .relocCancel
      else if v = 7 then .clearCounters else .unknownCommand v := by
  split_ifs with h1 h2 h3 h4 h5 h6 h7
  case neg =>
    unfold commandOf
    split
    case h_8 => rfl
    all_goals bv_omega
  all_goals
    subst v
    rfl

theorem setWidth_five_eq_extract (v : Word) : v.setWidth 5 = v.extractLsb' 0 5 :=
  BitVec.eq_of_toNat_eq (by simp)

/-- A write of a register with no row of its own is a register write. -/
theorem writeCommand_other {i : BitVec 8} (h2 : i ≠ 0x02#8) (h3 : i ≠ 0x03#8) (h4 : i ≠ 0x04#8) (h8 : i ≠ 0x08#8)
    (h12 : i ≠ 0x12#8) (v : Word) (pfw : Bool) : writeCommand i v pfw = .registerWrite i v := by
  unfold writeCommand
  split
  case h_6 => rfl
  all_goals bv_omega

theorem readCommand_eq (i : BitVec 8) :
    readCommand i =
      if i = 0x43#8 then some (.read48Low .applied) else if i = 0x45#8 then some (.read48Low .durable)
      else if i = 0x47#8 then some (.read48Low .nextSeq) else none := by
  split_ifs with h43 h45 h47
  case neg =>
    unfold readCommand
    split
    case h_4 => rfl
    all_goals bv_omega
  all_goals
    subst i
    rfl

theorem frameCommand_write (i b2 b3 b4 b5 : Byte) (more : List Byte) (pfw : Bool) :
    frameCommand (0xA3#8 :: i :: b2 :: b3 :: b4 :: b5 :: more) pfw = some (writeCommand i (b2 ++ b3 ++ b4 ++ b5) pfw) := rfl

theorem frameCommand_read (i : Byte) (more : List Byte) (pfw : Bool) :
    frameCommand (0x5C#8 :: i :: more) pfw = readCommand i := rfl

/-- A write cut short is no command. -/
theorem frameCommand_cutShort (i : Byte) {rest : List Byte} (h : rest.length < 4) (pfw : Bool) :
    frameCommand (0xA3#8 :: i :: rest) pfw = none := by
  match rest, h with
  | [], _ => rfl
  | [_], _ => rfl
  | [_, _], _ => rfl
  | [_, _, _], _ => rfl
  | _ :: _ :: _ :: _ :: rest, h =>
    simp only [List.length_cons] at h
    omega

theorem frameCommand_unknown {op : Byte} (hr : op ≠ 0x5C#8) (hw : op ≠ 0xA3#8) (i : Byte) (rest : List Byte) (pfw : Bool) :
    frameCommand (op :: i :: rest) pfw = none := (if_neg hr).trans (if_neg hw)

theorem withFrame_some {s : State} {bytes : List Byte} {pfw : Bool} {c : Instr} (h : frameCommand bytes pfw = some c) :
    s.withFrame bytes pfw = s.withPending (c :: s.pending) := by
  simp only [State.withFrame, h]

theorem withFrame_none {s : State} {bytes : List Byte} {pfw : Bool} (h : frameCommand bytes pfw = none)
    (hp : plainReadFrame bytes = false) : s.withFrame bytes pfw = s := by
  simp only [State.withFrame, h, hp]
  rfl

theorem withFrame_plainRead {s : State} {bytes : List Byte} {pfw : Bool} (h : frameCommand bytes pfw = none)
    (hp : plainReadFrame bytes = true) :
    s.withFrame bytes pfw = { s with wires := { s.wires with misoOut := s.wires.misoOut ++ [frameReadout s bytes] } } := by
  simp only [State.withFrame, h, hp, if_true]

/-- A frame too short for its opcode, and one of an unknown opcode, is no command and reads nothing. -/
theorem frame_discarded {bytes : List Byte}
    (h : bytes.length < 2 ∨ (bytes[0]? = some 0xA3#8 ∧ bytes.length < 6)
      ∨ (bytes[0]? ≠ some 0x5C#8 ∧ bytes[0]? ≠ some 0xA3#8)) (pfw : Bool) :
    frameCommand bytes pfw = none ∧ plainReadFrame bytes = false := by
  match bytes, h with
  | [], _ => exact ⟨rfl, rfl⟩
  | [_], _ => exact ⟨rfl, rfl⟩
  | op :: i :: rest, h =>
    have noRead (hop : op ≠ 0x5C#8) : plainReadFrame (op :: i :: rest) = false := by
      have : (op == readOpcode) = false := beq_false_of_ne hop
      simp [plainReadFrame, frameHead, this]
    simp only [List.length_cons, List.getElem?_cons_zero, Option.some.injEq, ne_eq] at h
    obtain h | ⟨rfl, h⟩ | ⟨hr, hw⟩ := h
    · omega
    · exact ⟨frameCommand_cutShort i (by omega) pfw, noRead (by decide)⟩
    · exact ⟨frameCommand_unknown hr hw i rest pfw, noRead hr⟩

theorem misoByte_low {n : Nat} (h : n < 2) (v : Word) : misoByte v n = 0 := if_neg (Nat.not_le.2 h)

theorem misoByte_high {n : Nat} (h : 5 < n) (v : Word) : misoByte v n = 0 := by
  rw [misoByte, if_pos (by omega), List.getD_eq_default]
  · rfl
  · simp only [msbBytes, List.length_cons, List.length_nil]
    omega

theorem misoByte_value {n : Nat} (h : 2 ≤ n) (h' : n ≤ 5) (v : Word) : misoByte v n = v.extractLsb' (8 * (5 - n)) 8 := by
  interval_cases n <;> rfl

theorem misoByte_zero (n : Nat) : misoByte 0 n = 0 := by
  by_cases h : n < 2
  · exact misoByte_low h 0
  · by_cases h' : 5 < n
    · exact misoByte_high h' 0
    · rw [misoByte_value (by omega) (by omega)]
      exact BitVec.eq_of_toNat_eq (by simp)

theorem frameAnswer_getElem? {s : State} {bytes : List Byte} {n : Nat} {b : Byte} (h : (frameAnswer s bytes)[n]? = some b) :
    n < bytes.length ∧ misoByte (frameReadout s bytes) n = b := by
  simpa [frameAnswer, List.getElem?_eq_some_iff] using h

/-- The value that MISO sends in a frame with a first byte. -/
theorem frameReadout_cons (s : State) (op : Byte) (rest : List Byte) :
    frameReadout s (op :: rest) = if op = 0x5C#8 then readRegister s (rest.getD 0 0#8) else 0 := rfl

/-- MISO is 00h in the bytes that carry no value, and in every byte of a frame that reads no register. -/
theorem frameAnswer_zero {s : State} {bytes : List Byte} {n : Nat} {b : Byte} (h : (frameAnswer s bytes)[n]? = some b)
    (hz : n < 2 ∨ 5 < n ∨ bytes[0]? ≠ some 0x5C#8) : b = 0 := by
  obtain ⟨hn, rfl⟩ := frameAnswer_getElem? h
  obtain hz | hz | hz := hz
  · exact misoByte_low hz _
  · exact misoByte_high hz _
  · cases bytes with
    | nil => simp at hn
    | cons op rest =>
      rw [frameReadout_cons, if_neg (by simpa using hz)]
      exact misoByte_zero n

/-- MISO sends the register's value in bytes 2 to 5 of a read frame. -/
theorem frameAnswer_value {s : State} {bytes : List Byte} {n : Nat} {b i : Byte} (h : (frameAnswer s bytes)[n]? = some b)
    (hop : bytes[0]? = some 0x5C#8) (hi : bytes[1]? = some i) (hlow : 2 ≤ n) (hhigh : n ≤ 5) :
    b = (readRegister s i).extractLsb' (8 * (5 - n)) 8 := by
  obtain ⟨-, rfl⟩ := frameAnswer_getElem? h
  have read : frameReadout s bytes = readRegister s i := by
    simp [frameReadout, frameHead, readOpcode, hop, hi]
  rw [read, misoByte_value hlow hhigh]

/-- Settles O50: the registers by their indexes, the frames by their opcodes, MISO by its bytes. -/
theorem read48LowLatchesTheWholeValue : Obligations.Read48LowLatchesTheWholeValue := by
  refine ⟨fun s => ⟨rfl, rfl, rfl, rfl, rfl, rfl⟩, fun s => ?registers, fun i b2 b3 b4 b5 more pfw => ?writes, fun i more pfw => ?reads,
    fun s bytes pfw => ⟨fun h => ?discarded, fun c hc => ?run, fun i more hb h43 h45 h47 => ?miso, ?length,
      fun n b hb => ⟨frameAnswer_zero hb, fun i => frameAnswer_value hb⟩⟩⟩
  case registers =>
    intro read number mode
    obtain ⟨device, start, command, reloc, result, drain⟩ := modeWord_fields s
    refine ⟨rfl, device.trans ?_, start.trans ?_, command.trans ?_, reloc.trans ?_, result.trans ?_, drain.trans ?_,
      rfl, rfl, rfl, rfl, rfl, rfl, relocCtrlWord_fields s, rfl, rfl, rfl, rfl, rfl, rfl, rfl, rfl, rfl, rfl, ?kind, rfl,
      rfl, rfl, rfl, rfl, rfl, rfl, ?openCount, rfl, rfl, rfl, rfl, fun w => ?window, fun i hi => readRegister_unused hi s⟩
    · cases s.modes.mode <;> rfl
    · cases s.modes.startStatus <;> rfl
    · cases s.modes.lastCommand <;> rfl
    · cases s.reloc.state <;> rfl
    · cases s.reloc.result <;> rfl
    · cases s.drain.status <;> rfl
    case kind =>
      change defaultKindWord s = _
      cases hk : s.decoder.defaultKind <;> simp [defaultKindWord, hk]
    case openCount => exact congrArg word List.countP_eq_length_filter
    case window =>
      obtain ⟨mask, kind, enabled⟩ := attrWord_fields s.decoder.table[w]
      have attr : readRegister s (BitVec.ofNat 8 (0x20 + 3 * w.val + 2)) = attrWord s.decoder.table[w] :=
        readRegister_window s w 2
      refine ⟨readRegister_window s w 0, readRegister_window s w 1, ?_, ?_, ?_⟩
      · exact (congrArg _ attr).trans mask
      · refine (congrArg _ attr).trans (kind.trans ?_)
        cases s.decoder.table[w].kind <;> rfl
      · exact (congrArg (BitVec.getLsbD · 31) attr).trans enabled
  case writes =>
    intro v command
    have written : command = some (writeCommand i v pfw) := frameCommand_write i b2 b3 b4 b5 more pfw
    rw [written]
    refine ⟨?_, ?_, ?_, ?_, ?_, fun h2 h3 h4 h8 h12 => congrArg some (writeCommand_other h2 h3 h4 h8 h12 v pfw)⟩
    · rintro rfl
      exact congrArg some (commandOf_eq v pfw)
    · rintro rfl
      rfl
    · rintro rfl
      rfl
    · rintro rfl
      rfl
    · rintro rfl
      rw [← setWidth_five_eq_extract]
      rfl
  case reads => rw [frameCommand_read, readCommand_eq]
  case discarded =>
    obtain ⟨hnone, hplain⟩ := frame_discarded h pfw
    exact ⟨hnone, withFrame_none hnone hplain⟩
  case run =>
    rw [withFrame_some hc]
    rfl
  case miso =>
    subst hb
    have noCommand : readCommand i = none := by rw [readCommand_eq, if_neg h43, if_neg h45, if_neg h47]
    have hnone : frameCommand (0x5C#8 :: i :: more) pfw = none := noCommand
    have hplain : plainReadFrame (0x5C#8 :: i :: more) = true := by
      simp [plainReadFrame, frameHead, readOpcode, noCommand]
    rw [withFrame_plainRead hnone hplain]
    rfl
  case length => simp [frameAnswer]

end Sys2Proof.Machine

/-! PROOF. The layouts of the journal's lines, and what recovery reads back from them (R86 to R90). -/

namespace Sys2Proof.Machine

/-! ## Fields of a line (R87) -/

theorem leBytes_succ (n value : Nat) : leBytes (n + 1) value = BitVec.ofNat 8 value :: leBytes n (value / 256) := by
  rw [leBytes, List.range_succ_eq_map, List.map_cons, List.map_map]
  congr 1
  refine List.map_congr_left fun i _ => ?_
  simp only [Function.comp_apply, Nat.succ_eq_add_one, Nat.shiftRight_eq_div_pow, Nat.div_div_eq_div_mul]
  rw [show 8 * (i + 1) = 8 + 8 * i by ring, Nat.pow_add]

/-- The bytes of a number spell it, as far as they reach. -/
@[simp] theorem leValue_leBytes (n value : Nat) : leValue (leBytes n value) = value % 256 ^ n := by
  induction n generalizing value with
  | zero => simp [leBytes, leValue, Nat.mod_one]
  | succ n ih =>
    rw [leBytes_succ, leValue, ih, Nat.pow_succ', Nat.mod_mul]
    simp

theorem leValue_zeros {bs : List Byte} (h : ∀ b ∈ bs, b = 0#8) : leValue bs = 0 := by
  induction bs with
  | nil => rfl
  | cons b bs ih =>
    rw [List.forall_mem_cons] at h
    rw [leValue, h.1, ih h.2]
    rfl

/-- What a line was made of stands at its place. -/
theorem bytesOf_lineOfBytes_append {front mid : List Byte} {o n : Nat} (hf : front.length = o) (hm : mid.length = n)
    (hfit : o + n ≤ 64) (rest : List Byte) : bytesOf (lineOfBytes (front ++ (mid ++ rest))) o n = mid := by
  refine List.ext_getElem (by simp [bytesOf]; omega) fun p hp hpm => ?_
  simp [bytesOf, List.getElem?_append_right, hf, List.getElem?_append_left hpm, List.getElem?_eq_getElem hpm]

/-- A field put into a line is read back, as far as its bytes reach. -/
theorem field_lineOfBytes_append {front : List Byte} {o n : Nat} (hf : front.length = o) (hfit : o + n ≤ 64)
    (value : Nat) (rest : List Byte) :
    field (lineOfBytes (front ++ (leBytes n value ++ rest))) o n = value % 256 ^ n := by
  rw [field, bytesOf_lineOfBytes_append hf (length_leBytes n value) hfit, leValue_leBytes]

/-- Beyond what it was made of a line is zero. -/
theorem field_lineOfBytes_beyond {bs : List Byte} {o : Nat} (h : bs.length ≤ o) (n : Nat) :
    field (lineOfBytes bs) o n = 0 := by
  refine leValue_zeros fun b hb => ?_
  obtain ⟨p, hp, rfl⟩ := List.getElem_of_mem hb
  have beyond : bs[o + p]? = none := List.getElem?_eq_none (by omega)
  simp [bytesOf, beyond]

/-- The bytes of fields that stand one behind the other, each a number of bytes and a value. -/
def fieldBytes (fs : List (Nat × Nat)) : List Byte := fs.flatMap fun f => leBytes f.1 f.2

theorem length_fieldBytes (fs : List (Nat × Nat)) : (fieldBytes fs).length = (fs.map Prod.fst).sum := by
  simp [fieldBytes]

/-- The `i`-th field of a line stands behind those before it. -/
theorem field_lineOfBytes_fieldBytes {fs : List (Nat × Nat)} (i o n : Nat) {value : Nat} (hi : fs[i]? = some (n, value))
    (ho : ((fs.take i).map Prod.fst).sum = o) (hfit : o + n ≤ 64) (hv : value < 256 ^ n) :
    field (lineOfBytes (fieldBytes fs)) o n = value := by
  obtain ⟨hlt, hget⟩ := List.getElem?_eq_some_iff.1 hi
  have split : fieldBytes fs = fieldBytes (fs.take i) ++ (leBytes n value ++ fieldBytes (fs.drop (i + 1))) := by
    conv_lhs => rw [← List.take_append_drop i fs, List.drop_eq_getElem_cons hlt, hget]
    simp [fieldBytes]
  rw [split, field_lineOfBytes_append ((length_fieldBytes _).trans ho) hfit, Nat.mod_eq_of_lt hv]

/-! ## The lines of a record (R86 to R88) -/

theorem headerLine_eq (st : Stream) (n : Nat) (seq : Seq) :
    headerLine st n seq =
      lineOfBytes (fieldBytes [(4, groupType), (1, st.val), (1, 0), (2, n), (8, seq.toNat), (2, recordLength n)]) := by
  simp [headerLine, fieldBytes]

theorem commitLine_eq (n : Nat) (seq : Seq) (c : BitVec 32) :
    commitLine n seq c =
      lineOfBytes (fieldBytes [(4, commitType), (2, 0), (2, n), (8, seq.toNat), (4, c.toNat)]) := by
  simp [commitLine, fieldBytes]

theorem toNat_lt_bytes {w : Nat} (v : BitVec w) {n : Nat} (h : 2 ^ w ≤ 256 ^ n) : v.toNat < 256 ^ n :=
  v.isLt.trans_le h

/-- The fields of a header line. -/
theorem headerLine_fields (st : Stream) {n : Nat} (hn : n ≤ 256) (seq : Seq) :
    let h := headerLine st n seq
    field h 0 4 = 0x47520001 ∧ field h 4 1 = st.val ∧ field h 5 1 = 0 ∧ field h 6 2 = n ∧ field h 8 8 = seq.toNat
      ∧ field h 16 2 = recordLength n ∧ field h 18 46 = 0 := by
  intro h
  have record : recordLength n < 256 ^ 2 := by simp only [recordLength, descriptorCount]; omega
  have stream := st.isLt
  simp only [h, headerLine_eq]
  refine ⟨?_, ?_, ?_, ?_, ?_, ?_, field_lineOfBytes_beyond (by simp [length_fieldBytes]) 46⟩
  · exact field_lineOfBytes_fieldBytes 0 0 4 rfl rfl (by decide) (by decide)
  · exact field_lineOfBytes_fieldBytes 1 4 1 rfl rfl (by decide) (by omega)
  · exact field_lineOfBytes_fieldBytes 2 5 1 rfl rfl (by decide) (by decide)
  · exact field_lineOfBytes_fieldBytes 3 6 2 rfl rfl (by decide) (by omega)
  · exact field_lineOfBytes_fieldBytes 4 8 8 rfl rfl (by decide) (toNat_lt_bytes seq (by decide))
  · exact field_lineOfBytes_fieldBytes 5 16 2 rfl rfl (by decide) record

/-- The fields of a commit line. -/
theorem commitLine_fields {n : Nat} (hn : n ≤ 256) (seq : Seq) (c : BitVec 32) :
    let l := commitLine n seq c
    field l 0 4 = 0x47520002 ∧ field l 4 2 = 0 ∧ field l 6 2 = n ∧ field l 8 8 = seq.toNat ∧ field l 16 4 = c.toNat
      ∧ field l 20 44 = 0 := by
  intro l
  simp only [l, commitLine_eq]
  refine ⟨?_, ?_, ?_, ?_, ?_, field_lineOfBytes_beyond (by simp [length_fieldBytes]) 44⟩
  · exact field_lineOfBytes_fieldBytes 0 0 4 rfl rfl (by decide) (by decide)
  · exact field_lineOfBytes_fieldBytes 1 4 2 rfl rfl (by decide) (by decide)
  · exact field_lineOfBytes_fieldBytes 2 6 2 rfl rfl (by decide) (by omega)
  · exact field_lineOfBytes_fieldBytes 3 8 8 rfl rfl (by decide) (toNat_lt_bytes seq (by decide))
  · exact field_lineOfBytes_fieldBytes 4 16 4 rfl rfl (by decide) (toNat_lt_bytes c (by decide))

/-- The bytes of descriptor entries. -/
def entryBytes (vs : List (Addr × Mask)) : List Byte := vs.flatMap fun v => descriptorEntry v.1 v.2

theorem length_entryBytes (vs : List (Addr × Mask)) : (entryBytes vs).length = 16 * vs.length := by
  induction vs with
  | nil => rfl
  | cons v vs ih =>
    simp only [entryBytes, List.flatMap_cons, List.length_append, List.length_cons] at ih ⊢
    rw [ih]
    simp [descriptorEntry]
    omega

theorem entryBytes_split {vs : List (Addr × Mask)} {i : Nat} {v : Addr × Mask} (hi : vs[i]? = some v) :
    entryBytes vs = entryBytes (vs.take i) ++ (descriptorEntry v.1 v.2 ++ entryBytes (vs.drop (i + 1))) := by
  obtain ⟨hlt, hget⟩ := List.getElem?_eq_some_iff.1 hi
  conv_lhs => rw [← List.take_append_drop i vs, List.drop_eq_getElem_cons hlt, hget]
  simp [entryBytes]

/-- A descriptor line holds the entries 4j to 4j + 3 of its group (R86, R87). -/
theorem descriptorLine_some {vs : List (Addr × Mask)} {j i : Nat} (hi : i < 4) {v : Addr × Mask}
    (hv : vs[4 * j + i]? = some v) :
    field (descriptorLine vs j) (16 * i) 8 = v.1.toNat ∧ field (descriptorLine vs j) (16 * i + 8) 8 = v.2.toNat := by
  have entry : ((vs.drop (4 * j)).take 4)[i]? = some v := by
    rw [List.getElem?_take_of_lt hi, List.getElem?_drop, hv]
  have inside := (List.getElem?_eq_some_iff.1 entry).1
  have before : (entryBytes (((vs.drop (4 * j)).take 4).take i)).length = 16 * i := by
    rw [length_entryBytes, List.length_take_of_le inside.le]
  have line : descriptorLine vs j = lineOfBytes (entryBytes ((vs.drop (4 * j)).take 4)) := rfl
  rw [line, entryBytes_split entry, descriptorEntry]
  constructor
  · rw [List.append_assoc (leBytes 8 _), field_lineOfBytes_append before (by omega)]
    exact Nat.mod_eq_of_lt (toNat_lt_bytes v.1 (by decide))
  · rw [List.append_assoc (leBytes 8 _), ← List.append_assoc, field_lineOfBytes_append (by simp [before]) (by omega)]
    exact Nat.mod_eq_of_lt (toNat_lt_bytes v.2 (by decide))

/-- The entries beyond the group are zero (R87). -/
theorem descriptorLine_none {vs : List (Addr × Mask)} {j i : Nat} (hv : vs[4 * j + i]? = none) :
    field (descriptorLine vs j) (16 * i) 16 = 0 := by
  rw [List.getElem?_eq_none_iff] at hv
  refine field_lineOfBytes_beyond ?_ 16
  rw [show (((vs.drop (4 * j)).take 4).flatMap fun v => descriptorEntry v.1 v.2).length = _ from length_entryBytes _,
    List.length_take, List.length_drop]
  omega

/-- The lines of a record in their order (R86). -/
theorem recordBody_lines (st : Stream) (seq : Seq) (vs : List (Addr × Mask × Line)) :
    let d := (vs.length + 3) / 4
    let body := recordBody st seq vs
    body.length = 1 + d + vs.length ∧ body[0]? = some (headerLine st vs.length seq)
      ∧ (∀ j, j < d → body[1 + j]? = some (descriptorLine (vs.map fun v => (v.1, v.2.1)) j))
      ∧ ∀ (i : Nat) (v : Addr × Mask × Line), vs[i]? = some v → body[1 + d + i]? = some v.2.2 := by
  intro d body
  have front : (headerLine st vs.length seq
      :: (List.range (descriptorCount vs.length)).map (descriptorLine (vs.map fun v => (v.1, v.2.1)))).length = 1 + d := by
    simp only [List.length_cons, List.length_map, List.length_range]
    exact Nat.add_comm ..
  refine ⟨?_, rfl, fun j hj => ?_, fun i v hv => ?_⟩
  · simp only [body, recordBody, List.length_append, front, List.length_map]
  · simp only [body, recordBody]
    rw [List.getElem?_append_left (by rw [front]; omega), Nat.add_comm, List.getElem?_cons_succ, List.getElem?_map,
      show (List.range (descriptorCount vs.length))[j]? = some j from List.getElem?_range hj]
    rfl
  · simp only [body, recordBody]
    rw [List.getElem?_append_right (by rw [front]; omega), front, Nat.add_sub_cancel_left, List.getElem?_map, hv]
    rfl

/-! ## Superblocks (R90) -/

/-- The signature as the number that its bytes spell. -/
theorem signature_eq : signature = leBytes 8 0x42534C4E524A584B := by decide

theorem superblockLine_eq (sb : Superblock) :
    superblockLine sb =
      lineOfBytes (fieldBytes
        [(8, 0x42534C4E524A584B), (8, sb.base.toNat), (8, sb.counter.toNat), (8, sb.applied.toNat), (8, sb.nextSeq.toNat),
          (8, sb.relocBase.toNat), (4, sb.tail), (2, 1), (1, sb.k.toNat), (1, sb.relocK.toNat),
          (1, if sb.retired then 1 else 0), (3, 0), (4, (crc (superblockBody sb)).toNat)]) := by
  simp only [superblockLine]
  generalize crc (superblockBody sb) = c
  rw [superblockBody, signature_eq]
  simp [fieldBytes]

theorem bytesOf_superblockLine (sb : Superblock) : bytesOf (superblockLine sb) 0 60 = superblockBody sb :=
  take_toList_superblockLine sb

/-- The fields of a superblock line. -/
theorem superblockLine_fields {sb : Superblock} (htail : sb.tail < 2 ^ 32) :
    let l := superblockLine sb
    bytesOf l 0 8 = signature ∧ field l 8 8 = sb.base.toNat ∧ field l 16 8 = sb.counter.toNat
      ∧ field l 24 8 = sb.applied.toNat ∧ field l 32 8 = sb.nextSeq.toNat ∧ field l 40 8 = sb.relocBase.toNat
      ∧ field l 48 4 = sb.tail ∧ field l 52 2 = 1 ∧ field l 54 1 = sb.k.toNat ∧ field l 55 1 = sb.relocK.toNat
      ∧ field l 56 1 = (if sb.retired then 1 else 0) ∧ field l 57 3 = 0
      ∧ field l 60 4 = (crc (superblockBody sb)).toNat := by
  intro l
  have sign : bytesOf l 0 8 = signature := by
    simp only [l, superblockLine]
    generalize crc (superblockBody sb) = c
    simp only [superblockBody, List.append_assoc]
    rw [← List.nil_append (signature ++ _)]
    exact bytesOf_lineOfBytes_append (mid := signature) List.length_nil (by decide) (by decide) _
  refine ⟨sign, ?_⟩
  simp only [l, superblockLine_eq]
  generalize crc (superblockBody sb) = c
  refine ⟨?_, ?_, ?_, ?_, ?_, ?_, ?_, ?_, ?_, ?_, ?_, ?_⟩
  · exact field_lineOfBytes_fieldBytes 1 8 8 rfl rfl (by decide) (toNat_lt_bytes sb.base (by decide))
  · exact field_lineOfBytes_fieldBytes 2 16 8 rfl rfl (by decide) (toNat_lt_bytes sb.counter (by decide))
  · exact field_lineOfBytes_fieldBytes 3 24 8 rfl rfl (by decide) (toNat_lt_bytes sb.applied (by decide))
  · exact field_lineOfBytes_fieldBytes 4 32 8 rfl rfl (by decide) (toNat_lt_bytes sb.nextSeq (by decide))
  · exact field_lineOfBytes_fieldBytes 5 40 8 rfl rfl (by decide) (toNat_lt_bytes sb.relocBase (by decide))
  · exact field_lineOfBytes_fieldBytes 6 48 4 rfl rfl (by decide) htail
  · exact field_lineOfBytes_fieldBytes 7 52 2 rfl rfl (by decide) (by decide)
  · exact field_lineOfBytes_fieldBytes 8 54 1 rfl rfl (by decide) (toNat_lt_bytes sb.k (by decide))
  · exact field_lineOfBytes_fieldBytes 9 55 1 rfl rfl (by decide) (toNat_lt_bytes sb.relocK (by decide))
  · exact field_lineOfBytes_fieldBytes 10 56 1 rfl rfl (by decide) (by split <;> decide)
  · exact field_lineOfBytes_fieldBytes 11 57 3 rfl rfl (by decide) (by decide)
  · exact field_lineOfBytes_fieldBytes 12 60 4 rfl rfl (by decide) (toNat_lt_bytes c (by decide))

/-! ## The ring (R84, R85) -/

/-- A valid region ends within the address space. -/
theorem Region.base_add_bytes_le {r : Region} (h : r.valid = true) : r.base.toNat + r.bytes ≤ 2 ^ 40 := by
  simp only [Region.valid, Bool.and_eq_true, decide_eq_true_eq, beq_iff_eq] at h
  obtain ⟨⟨-, hk⟩, hbase⟩ := h
  have whole : r.bytes ∣ 2 ^ 40 := by
    rw [Region.bytes, show 64 = 2 ^ 6 from rfl, ← Nat.pow_add]
    exact Nat.pow_dvd_pow 2 (by omega)
  obtain ⟨q, hq⟩ := Nat.dvd_of_mod_eq_zero hbase
  obtain ⟨m, hm⟩ := whole
  have below := r.base.isLt
  rw [hq, hm] at below ⊢
  have less : q < m := Nat.lt_of_mul_lt_mul_left below
  calc r.bytes * q + r.bytes = r.bytes * (q + 1) := by ring
    _ ≤ r.bytes * m := Nat.mul_le_mul_left _ less

theorem Region.toNat_ringAddr {r : Region} (h : r.valid = true) {o : Nat} (ho : o < r.ringLength) :
    (r.ringAddr o).toNat = r.base.toNat + (2 + o) * 64 := by
  have fits := Region.base_add_bytes_le h
  have inside : (2 + o) * 64 < r.bytes := by
    simp only [Region.ringLength, Region.bytes] at ho ⊢
    omega
  rw [Region.ringAddr, BitVec.toNat_add, BitVec.toNat_ofNat]
  omega

theorem getElem?_lineRequests (r : Region) (start i : Nat) (ls : List Line) (j : Nat) :
    (lineRequests r start i ls)[j]? =
      ls[j]?.map fun l =>
        writeRequest (.journalLine (i + j)) (r.ringAddr ((start + (i + j)) % r.ringLength)) fullMask l := by
  induction ls generalizing i j with
  | nil => simp [lineRequests]
  | cons l ls ih =>
    cases j with
    | zero => rfl
    | succ j =>
      rw [lineRequests, List.getElem?_cons_succ, List.getElem?_cons_succ, ih]
      simp only [Nat.add_assoc, Nat.add_comm 1 j]

/-- Settles O53: a line is its fields one behind the other. -/
theorem recordLinesHaveTheirLayouts : Obligations.RecordLinesHaveTheirLayouts := by
  refine ⟨fun st n seq c hn => ⟨headerLine_fields st hn seq, commitLine_fields hn seq c, fun vs j i => ?descriptors⟩,
    fun sb htail => ?superblock, recordBody_lines, fun r => ⟨rfl, fun h o => Region.toNat_ringAddr h⟩,
    getElem?_lineRequests⟩
  case descriptors =>
    intro d
    split
    next v hv => exact descriptorLine_some i.isLt hv
    next hv => exact descriptorLine_none hv
  case superblock =>
    intro l
    rw [bytesOf_superblockLine]
    exact superblockLine_fields htail

/-! ## What recovery reads back (R126 to R129) -/

theorem superblockValid_superblockLine {sb : Superblock} (htail : sb.tail < 2 ^ 32) :
    superblockValid (superblockLine sb) = true := by
  obtain ⟨sign, -, -, -, -, -, -, -, -, -, -, -, sum⟩ := superblockLine_fields htail
  simp [superblockValid, sign, sum, bytesOf_superblockLine]

theorem readSuperblock_superblockLine {sb : Superblock} (htail : sb.tail < 2 ^ 32) :
    readSuperblock (superblockLine sb) = sb := by
  obtain ⟨-, base, counter, applied, nextSeq, relocBase, tail, -, k, relocK, retired, -, -⟩ := superblockLine_fields htail
  have flag : (field (superblockLine sb) 56 1 != 0) = sb.retired := by rw [retired]; cases sb.retired <;> rfl
  simp [readSuperblock, base, counter, applied, nextSeq, relocBase, tail, k, relocK, flag]

theorem acceptedHeader?_headerLine (st : Stream) {n : Nat} (h1 : 1 ≤ n) (hn : n ≤ 256) (seq : Seq) :
    acceptedHeader? (headerLine st n seq) seq = some n := by
  obtain ⟨type, -, -, lines, sequence, length, -⟩ := headerLine_fields st hn seq
  simp only [acceptedHeader?, lines]
  rw [if_pos ⟨type, sequence, h1, hn, length⟩]

theorem commitWhole_commitLine {n : Nat} (hn : n ≤ 256) (seq : Seq) (body : List Line) :
    commitWhole (commitLine n seq (crcLines body)) seq n body = true := by
  obtain ⟨type, -, lines, sequence, sum, -⟩ := commitLine_fields hn seq (crcLines body)
  simp [commitWhole, type, sequence, lines, sum, commitType]

theorem readDescriptor_descriptorLines {vs : List (Addr × Mask)} {i : Nat} {v : Addr × Mask} (hv : vs[i]? = some v) :
    readDescriptor ((List.range (descriptorCount vs.length)).map (descriptorLine vs)) i = v := by
  have hi := (List.getElem?_eq_some_iff.1 hv).1
  have place : i / 4 < descriptorCount vs.length := by
    simp only [descriptorCount]
    omega
  have line : ((List.range (descriptorCount vs.length)).map (descriptorLine vs)).getD (i / 4) zeroLine
      = descriptorLine vs (i / 4) := by
    rw [List.getD_eq_getElem?_getD, List.getElem?_map, List.getElem?_range place]
    rfl
  have entry : vs[4 * (i / 4) + i % 4]? = some v := by rw [Nat.div_add_mod, hv]
  obtain ⟨addr, mask⟩ := descriptorLine_some (Nat.mod_lt i (by decide)) entry
  simp only [readDescriptor, line, addr, mask, BitVec.ofNat_toNat, BitVec.setWidth_eq]

/-- Settles O54. -/
theorem writtenLinesReadBack : Obligations.WrittenLinesReadBack :=
  ⟨fun _ htail => ⟨superblockValid_superblockLine htail, readSuperblock_superblockLine htail⟩,
    fun st _ seq h1 hn => acceptedHeader?_headerLine st h1 hn seq, fun _ seq body hn => commitWhole_commitLine hn seq body,
    fun _ _ _ => readDescriptor_descriptorLines⟩

end Sys2Proof.Machine

/-! PROOF. Queues answered, entry to HALTED, the course of a drain, and home reads (R78, R145, R147, R162). -/

namespace Sys2Proof.Machine

/-! ## Requests answered in their queues (R162) -/

/-- The state in which every request of the queues has its answer. -/
def queuesMarked (s : State) (status : Status) : State :=
  { s with fabric := { s.fabric with ingress := s.fabric.ingress.map (List.map (answerEntry status)) } }

theorem ingressOf_queuesMarked (s : State) (status : Status) (st : Stream) :
    ingressOf (queuesMarked s status) st = (ingressOf s st).map (answerEntry status) := by
  simp [queuesMarked, ingressOf, PerStream.read]

theorem answerQueues_eq (s : State) (status : Status) :
    answerQueues s status = settleHeldAnswers (queuesMarked s status) := rfl

/-- What the answering of the queues changes: the fabric port and its channel. -/
theorem answerQueues_rest (s : State) (status : Status) :
    answerQueues s status =
      { s with fabric := (answerQueues s status).fabric, wires := (answerQueues s status).wires } := by
  obtain ⟨answers, henter, -⟩ := settleHeldAnswers_entered (queuesMarked s status)
  rw [answerQueues_eq]
  exact henter.rest

/-- With every entry of the queues answered, none is left or there is no room. -/
theorem queues_settled {t : State} (hall : ∀ st, ∀ e ∈ ingressOf t st, e.answer.isSome = true)
    (hend : oldestHeld t = none ∨ hasRoom t = false) :
    (∀ st, ingressOf t st = []) ∨ 128 - t.fabric.egress.length ≤ t.fabric.takenUnanswered := by
  obtain hnone | hfull := hend
  · refine .inl fun st => ?_
    rw [oldestHeld_eq_none_iff_heads] at hnone
    cases hq : ingressOf t st with
    | nil => rfl
    | cons e es =>
      have some := hall st e (by simp [hq])
      rw [hnone st e es hq] at some
      cases some
  · exact .inr ((hasRoom_eq_false_iff t).1 hfull)

/-- Every request left in the queues is answered. -/
theorem answerQueues_answered (s : State) (status : Status) :
    QueuesAnswered s (answerQueues s status) [] status := by
  obtain ⟨answers, henter, hend⟩ := settleHeldAnswers_entered (queuesMarked s status)
  have marked (st : Stream) : ∀ e ∈ ingressOf (queuesMarked s status) st, e.answer.isSome = true := by
    rw [ingressOf_queuesMarked]
    simp [answerEntry]
  rw [answerQueues_eq]
  have all (st : Stream) : ∀ e ∈ ingressOf (settleHeldAnswers (queuesMarked s status)) st, e.answer.isSome = true :=
    fun e he => marked st e ((henter.suffix st).subset he)
  refine ⟨⟨answers, ?_, fun st => ?_⟩, all, fun st => ?_, ?_, queues_settled all hend⟩
  · rw [henter.fabric]
    simp [queuesMarked]
  · refine (henter.queues status st).trans ?_
    rw [ingressOf_queuesMarked, List.map_map]
    rfl
  · refine (henter.credits st).trans ?_
    rw [ingressOf_queuesMarked, List.length_map]
    rfl
  · rw [henter.fabric]
    rfl

/-- Answers that entered the egress queue before the queues were answered. -/
theorem QueuesAnswered.behind {s u t : State} {front : List Response} {status : Status} (h : QueuesAnswered u t [] status)
    (hu : u.fabric = { s.fabric with
      egress := s.fabric.egress ++ front, takenUnanswered := s.fabric.takenUnanswered - front.length }) :
    QueuesAnswered s t front status := by
  have queues (st : Stream) : ingressOf u st = ingressOf s st := by simp only [ingressOf, hu]
  obtain ⟨⟨answers, hegress, hanswers⟩, answered, credits, taken, settled⟩ := h
  refine ⟨⟨answers, ?_, fun st => ?_⟩, answered, fun st => ?_, ?_, settled⟩
  · rw [hegress, hu, List.append_nil]
  · rw [hanswers, queues]
  · rw [credits, queues, hu]
  · rw [taken, hu]
    rfl

/-- The statement is about the fabric port alone. -/
theorem QueuesAnswered.of_fabric {s t u : State} {front : List Response} {status : Status}
    (h : QueuesAnswered s t front status) (hu : u.fabric = t.fabric) : QueuesAnswered s u front status := by
  have queues (st : Stream) : ingressOf u st = ingressOf t st := by simp only [ingressOf, hu]
  obtain ⟨entered, answered, credits, taken, settled⟩ := h
  simp only [← hu, ← queues] at entered answered credits taken settled
  exact ⟨entered, answered, credits, taken, settled⟩

/-! ## Entry to HALTED (R147) -/

theorem sendOwed_eq (s : State) (e : Entry) :
    (sendOwed s e).fabric = { s.fabric with
        egress := s.fabric.egress ++ owedAnswer e
        takenUnanswered := s.fabric.takenUnanswered - (owedAnswer e).length }
      ∧ sendOwed s e = { s with fabric := (sendOwed s e).fabric, posted := (sendOwed s e).posted }
      ∧ (sendOwed s e).posted.records = s.posted.records := by
  unfold sendOwed owedAnswer
  cases e.state with
  | sealed => simp
  | journaling => simp
  | durable | applying =>
    dsimp only
    split
    · simp
    · exact ⟨rfl, rfl, rfl⟩

/-- The COMMITTED that HALTED entry owes enter in queue order. -/
theorem foldl_sendOwed_eq (es : List Entry) (s : State) :
    (es.foldl sendOwed s).fabric = { s.fabric with
        egress := s.fabric.egress ++ es.flatMap owedAnswer
        takenUnanswered := s.fabric.takenUnanswered - (es.flatMap owedAnswer).length }
      ∧ es.foldl sendOwed s =
        { s with fabric := (es.foldl sendOwed s).fabric, posted := (es.foldl sendOwed s).posted }
      ∧ (es.foldl sendOwed s).posted.records = s.posted.records := by
  induction es generalizing s with
  | nil => simp
  | cons e es ih =>
    obtain ⟨hfabric, hrest, hposted⟩ := sendOwed_eq s e
    obtain ⟨kfabric, krest, kposted⟩ := ih (sendOwed s e)
    refine ⟨?_, ?_, kposted.trans hposted⟩
    · rw [List.foldl_cons, kfabric, hfabric]
      simp [Nat.sub_sub]
    · rw [List.foldl_cons, krest, hrest]

/-- What of the state entry to HALTED has read and changed before it discards the volatile blocks. -/
theorem enterHalted_eq (a : State) (status : DrainStatus) :
    enterHalted a status =
      { a with
        fabric := (answerQueues (a.groups.queue.foldl sendOwed a) .powerfail).fabric
        wires := (answerQueues (a.groups.queue.foldl sendOwed a) .powerfail).wires
        posted := (a.groups.queue.foldl sendOwed a).posted
        groups := Groups.reset
        staging := Staging.reset
        reads := []
        journal := { a.journal with writer := .idle }
        apply := Apply.reset
        ckpt := { a.ckpt with inFlight := none, trigger := false }
        modes := { a.modes with mode := .halted }
        recovery := none
        format := none
        drain :=
          { a.drain with status, origin := none, deadline := none, doneOut := true, finalRaised := false }
        media := { a.media with linkDeadline := none }
        regs := flagged a.regs .drainDone } := by
  obtain ⟨-, sent, -⟩ := foldl_sendOwed_eq a.groups.queue a
  rw [enterHalted, answerQueues_rest]
  generalize (answerQueues (a.groups.queue.foldl sendOwed a) .powerfail).fabric = f
  generalize (answerQueues (a.groups.queue.foldl sendOwed a) .powerfail).wires = w
  rw [sent]
  generalize (a.groups.queue.foldl sendOwed a).posted = p
  rfl

/-- A flag that has just been set is set. -/
theorem flagged_set (r : Regs) (f : EventFlag) : (flagged r f).flags.getLsbD f.index = true := by
  cases f <;> simp [flagged, EventFlag.bit, EventFlag.index]

/-- HALTED is entered with what R147 says, after the COMMITTED that are owed. -/
theorem enterHalted_haltedWith (a : State) (status : DrainStatus) :
    HaltedWith a (enterHalted a status) status (owedAtHalt a) := by
  obtain ⟨hfabric, -, -⟩ := foldl_sendOwed_eq a.groups.queue a
  have queues := (answerQueues_answered (a.groups.queue.foldl sendOwed a) .powerfail).behind hfabric
  have fabric : (enterHalted a status).fabric = (answerQueues (a.groups.queue.foldl sendOwed a) .powerfail).fabric := by
    rw [enterHalted_eq]
  have answered := queues.of_fabric fabric
  rw [enterHalted_eq] at answered ⊢
  generalize (answerQueues (a.groups.queue.foldl sendOwed a) .powerfail).fabric = f at *
  generalize (answerQueues (a.groups.queue.foldl sendOwed a) .powerfail).wires = w at *
  generalize (a.groups.queue.foldl sendOwed a).posted = p at *
  exact
    { mode := rfl, drain := ⟨rfl, rfl, rfl⟩, flag := flagged_set a.regs .drainDone, groups := rfl, staging := rfl,
      reads := rfl, writer := rfl, apply := rfl, ckpt := ⟨rfl, rfl⟩, config := rfl, queues := answered }

/-! ## The course of a drain (R145) -/

theorem drainComplete_iff (a : State) :
    drainComplete a = true ↔
      ¬(a.journal.writer ≠ .idle ∨ a.posted.records ≠ [] ∨ a.reads ≠ [] ∨ a.media.requests ≠ []) := by
  simp [drainComplete, portQuiet, and_assoc]

theorem raiseTrigger_idle {a : State} (h : a.ckpt.inFlight = none) : raiseTrigger a = checkpointBegun a := by
  rw [raiseTrigger, h]
  rfl

theorem raiseTrigger_busy {a : State} (h : a.ckpt.inFlight.isSome = true) :
    raiseTrigger a = { a with ckpt := { a.ckpt with trigger := true } } := by
  rw [raiseTrigger, h]
  rfl

/-- An event in DRAINING that ends with the drain controller's test goes on as R145 says. -/
theorem drainsTo_of_drainTest {c : Instr} {s a : State} (hc : exec c s = .next (drainTest a))
    (hm : a.modes.mode = .draining) (ho : a.drain.origin = s.drain.origin) : DrainsTo c s a := by
  have ready (h : s.drain.origin = some .ready) : drainTest a =
      if drainComplete a then raiseTrigger { a with drain := { a.drain with finalRaised := true } } else a := by
    simp only [drainTest, hm, ho, h, if_true]
  have recovering (h : s.drain.origin = some .recovering) : drainTest a =
      if portQuiet a && !a.media.linkOwed then enterHalted a .complete else a := by
    simp only [drainTest, hm, ho, h, if_true]
  refine ⟨fun h hleft => ?left, fun h hdone hidle => ?final, fun h hleft => ?waits, fun h hq hl => ?halted⟩
  case left =>
    rw [Answers, hc, ready h, if_neg fun hd => (drainComplete_iff a).1 hd hleft]
  case final =>
    rw [Answers, hc, ready h, if_pos ((drainComplete_iff a).2 hdone)]
    exact congrArg Host.Outcome.next (raiseTrigger_idle hidle)
  case waits =>
    have busy : ¬(portQuiet a && !a.media.linkOwed) = true := by
      intro hquiet
      simp only [portQuiet, Bool.and_eq_true, List.isEmpty_iff, Bool.not_eq_true'] at hquiet
      obtain hleft | hleft := hleft
      · exact hleft hquiet.1
      · rw [hquiet.2] at hleft
        cases hleft
    rw [Answers, hc, recovering h, if_neg busy]
  case halted =>
    refine ⟨_, hc, ?_⟩
    have quiet : (portQuiet a && !a.media.linkOwed) = true := by simp [portQuiet, hq, hl]
    rw [recovering h, if_pos quiet]
    exact enterHalted_haltedWith a .complete

/-- With a relocation in PENDING, an event that met a commit queue goes on as R135 says when it has emptied it. -/
theorem emptiesTo_of_relocTrigger {c : Instr} {s b a : State} (hc : exec c s = .next (relocTrigger b a))
    (hp : a.reloc.state = .pending) (hb : b.groups.queue ≠ []) : EmptiesTo c s a := by
  have trigger : relocTrigger b a = if a.groups.queue = [] then raiseTrigger a else a := by
    simp [relocTrigger, pendingEmpty, hp, hb]
  refine ⟨fun hq => ?_, fun hq hidle => ?_, fun hq hbusy => ?_⟩
  · rw [Answers, hc, trigger, if_neg hq]
  · rw [Answers, hc, trigger, if_pos hq, raiseTrigger_idle hidle]
  · rw [Answers, hc, trigger, if_pos hq, raiseTrigger_busy hbusy]

/-! ## The outcomes of home reads (R74, R78) -/

/-- A read that ends with no write held. -/
theorem answerRead_noneHeld {s : State} (h : NoneHeld s) (e : TrackerEntry) (r : Response) :
    answerRead s e r =
      drainTest (unpin (Work.start (untrack (answerTaken s r) e)) e.pinned).s := by
  rw [answerRead, settle_noneHeld]
  · exact h.1
  · exact h.2

/-- Settles O15: the outcome frees the tag, the read is answered, and with nothing held no write goes on. -/
theorem homeReadOutcomesAnswerTheRead : Obligations.HomeReadOutcomesAnswerTheRead := by
  intro s t serial e home hcarry hfind hnone after answered failed
  obtain rfl : e.serial = serial := by simpa using List.find?_some hfind
  have tracked : trackerAt (dropTag s t) e.serial = some e := hfind
  have none : NoneHeld (dropTag s t) := hnone
  have returns : exec (.homeReadReturn t home) s = .next (drainTest answered) := by
    refine congrArg Host.Outcome.next ((onOutcome_carries hcarry rfl).trans ?_)
    simp only [homeReadReturned, tracked]
    exact answerRead_noneHeld none e _
  have fails : exec (.homeReadFail t) s = .next (drainTest failed) := by
    refine congrArg Host.Outcome.next ((onOutcome_carries hcarry rfl).trans ?_)
    simp only [homeReadFailed, tracked]
    exact answerRead_noneHeld none e _
  refine ⟨fun hm => ⟨?_, ?_⟩, fun hm => ⟨drainsTo_of_drainTest returns hm rfl, drainsTo_of_drainTest fails hm rfl⟩⟩
  · rw [Answers, returns, drainTest_outside (show answered.modes.mode ≠ .draining from hm)]
  · rw [Answers, fails, drainTest_outside (show failed.modes.mode ≠ .draining from hm)]

end Sys2Proof.Machine

/-! PROOF. COMMITTED owed: the turns of the commit queue's entries (R16, R18). -/

namespace Sys2Proof.Machine

/-! ## What COMMITTED is owed for (R18) -/

/-- What becomes of an entry when the part answers what it owes: an empty commit and an entry whose home writes are all
acknowledged leave, another one stays with Answered set (R12, R16, R18). -/
def answeredOwed (e : Entry) : Option Entry :=
  if e.answerable then if e.leaves then none else some { e with answered := true } else some e

/-- The COMMITTED of entries of one stream, in queue order: the stream's loss mark goes with the first alone (R18). -/
def committedFor (lost : Bool) (es : List Entry) : List Response :=
  es.mapIdx fun i e => committedAnswer e.stream e.tag (e.lossMark || (i == 0 && lost))

@[simp] theorem committedFor_nil (lost : Bool) : committedFor lost [] = [] := rfl

theorem committedFor_cons (lost : Bool) (e : Entry) (es : List Entry) :
    committedFor lost (e :: es) = committedAnswer e.stream e.tag (e.lossMark || lost) :: committedFor false es := by
  simp [committedFor, List.mapIdx_cons]

@[simp] theorem length_committedFor (lost : Bool) (es : List Entry) : (committedFor lost es).length = es.length := by
  simp [committedFor]

theorem entryAt_split {s : State} {front back : List Entry} {e : Entry} (hq : s.groups.queue = front ++ e :: back)
    (hf : ∀ x ∈ front, x.serial ≠ e.serial) : entryAt s e.serial = some e := by
  have none : front.find? (fun x => x.serial == e.serial) = none := by simpa using hf
  simp [entryAt, hq, List.find?_append, none]

theorem filter_serial_ne {es : List Entry} {n : Serial} (h : ∀ x ∈ es, x.serial ≠ n) :
    (es.filter fun x => x.serial != n) = es := by
  simpa [List.filter_eq_self] using h

theorem map_serial_ne {es : List Entry} {n : Serial} (h : ∀ x ∈ es, x.serial ≠ n) (f : Entry → Entry) :
    (es.map fun x => if x.serial = n then f x else x) = es :=
  (List.map_congr_left fun x hx => if_neg (h x hx)).trans (List.map_id' es)

theorem removeEntry_split {s : State} {front back : List Entry} {e : Entry} (hq : s.groups.queue = front ++ e :: back)
    (hf : ∀ x ∈ front, x.serial ≠ e.serial) (hb : ∀ x ∈ back, x.serial ≠ e.serial) :
    removeEntry s e.serial = { s with groups := { s.groups with queue := front ++ back } } := by
  rw [removeEntry, hq, List.filter_append, List.filter_cons_of_neg (by simp), filter_serial_ne hf, filter_serial_ne hb]

theorem mapEntry_split {s : State} {front back : List Entry} {e : Entry} (hq : s.groups.queue = front ++ e :: back)
    (hf : ∀ x ∈ front, x.serial ≠ e.serial) (hb : ∀ x ∈ back, x.serial ≠ e.serial) (f : Entry → Entry) :
    mapEntry s e.serial f = { s with groups := { s.groups with queue := front ++ f e :: back } } := by
  rw [mapEntry, hq, List.map_append, List.map_cons, if_pos rfl, map_serial_ne hf, map_serial_ne hb]

/-- One entry's turn, when its serial names it alone. -/
theorem tryAnswer_split {s : State} {front back : List Entry} {e : Entry} (hq : s.groups.queue = front ++ e :: back)
    (hf : ∀ x ∈ front, x.serial ≠ e.serial) (hb : ∀ x ∈ back, x.serial ≠ e.serial) :
    tryAnswer s e.serial =
      if e.answerable then
        { sendCommitted s e false with
          groups := { s.groups with queue := front ++ (answeredOwed e).toList ++ back } }
      else s := by
  have sent : (sendCommitted s e false).groups = s.groups := rfl
  simp only [tryAnswer, entryAt_split hq hf]
  split
  case isFalse => rfl
  case isTrue ha =>
    split
    case isTrue hl =>
      rw [removeEntry_split (by rw [sent, hq]) hf hb, answeredOwed, if_pos ha, if_pos hl, sent]
      simp
    case isFalse hl =>
      rw [mapEntry_split (by rw [sent, hq]) hf hb, answeredOwed, if_pos ha, if_neg hl, sent]
      simp

/-- The part after COMMITTED has been sent for the owed entries of one stream, with the queue as it then stands. -/
def committedSent (s : State) (st : Stream) (owed queue : List Entry) : State :=
  { s with
    fabric :=
      { s.fabric with
        egress := s.fabric.egress ++ committedFor (lossMark s st) owed
        takenUnanswered := s.fabric.takenUnanswered - owed.length }
    posted :=
      { s.posted with lossMarks := if owed = [] then s.posted.lossMarks else s.posted.lossMarks.write st false }
    groups := { s.groups with queue } }

theorem committedSent_nil (s : State) (st : Stream) : committedSent s st [] s.groups.queue = s := by
  simp [committedSent]

/-- One COMMITTED more, sent before the others. -/
theorem committedSent_cons (s : State) {st : Stream} {e : Entry} (he : e.stream = st) (owed mid queue : List Entry) :
    committedSent { sendCommitted s e false with groups := { s.groups with queue := mid } } st owed queue =
      committedSent s st (e :: owed) queue := by
  subst he
  simp only [committedSent, committedFor_cons, sendCommitted, clearLossMark, answerTaken, lossMark, PerStream.read_write,
    if_true, Bool.false_or, List.append_assoc, List.singleton_append, List.length_cons, Nat.sub_sub, PerStream.write_write,
    ite_self, reduceCtorEq, if_false, Nat.add_comm 1]

/-- The turns of the entries of `back`, whose owed ones are all of one stream. -/
theorem foldl_tryAnswer_eq {st : Stream} (back : List Entry) :
    ∀ {s : State} {front : List Entry}, s.groups.queue = front ++ back → ((front ++ back).map Entry.serial).Nodup →
      (∀ e ∈ back, e.answerable = true → e.stream = st) →
      (back.map Entry.serial).foldl tryAnswer s =
        committedSent s st (back.filter Entry.answerable) (front ++ back.filterMap answeredOwed) := by
  induction back with
  | nil =>
    intro s front hq _ _
    rw [List.append_nil] at hq
    simp only [List.map_nil, List.foldl_nil, List.filter_nil, List.filterMap_nil, List.append_nil, ← hq, committedSent_nil]
  | cons e back ih =>
    intro s front hq hd hst
    have hd' := hd
    rw [List.map_append, List.map_cons, List.nodup_append, List.nodup_cons] at hd'
    obtain ⟨-, ⟨hself, -⟩, hcross⟩ := hd'
    have hf : ∀ x ∈ front, x.serial ≠ e.serial := fun x hx =>
      hcross _ (List.mem_map_of_mem hx) _ (List.mem_cons_self ..)
    have hb : ∀ x ∈ back, x.serial ≠ e.serial := fun x hx hs => hself (hs ▸ List.mem_map_of_mem hx)
    rw [List.map_cons, List.foldl_cons, tryAnswer_split hq hf hb]
    split
    case isFalse ha =>
      have kept : answeredOwed e = some e := if_neg ha
      rw [ih (front := front ++ [e]) (by rw [hq]; simp) (by simpa using hd) fun x hx => hst x (List.mem_cons_of_mem _ hx),
        List.filter_cons_of_neg ha, List.filterMap_cons_some kept]
      simp
    case isTrue ha =>
      rw [ih (front := front ++ (answeredOwed e).toList) rfl ?distinct fun x hx => hst x (List.mem_cons_of_mem _ hx),
        committedSent_cons s (hst e (List.mem_cons_self ..) ha), List.filter_cons_of_pos ha]
      · cases hk : answeredOwed e with
        | none => simp [List.filterMap_cons_none hk]
        | some x => simp [List.filterMap_cons_some hk]
      case distinct =>
        refine hd.sublist ?_
        have serial : ((answeredOwed e).toList.map Entry.serial).Sublist [e.serial] := by
          unfold answeredOwed
          split_ifs <;> simp
        simp only [List.map_append, List.map_cons]
        rw [List.append_assoc]
        exact (List.Sublist.refl _).append (serial.append (List.Sublist.refl _))

/-- The part answers what it owes: with distinct serials, and when all it owes is of one stream (R16, R18). -/
theorem answerOwed_eq {s : State} {st : Stream} (hd : SerialsDistinct s)
    (hst : ∀ e ∈ s.groups.queue, e.answerable = true → e.stream = st) :
    answerOwed s =
      committedSent s st (s.groups.queue.filter Entry.answerable) (s.groups.queue.filterMap answeredOwed) :=
  foldl_tryAnswer_eq s.groups.queue (front := []) rfl hd hst

/-! ## The acknowledgement of a posted write (R17, R64, R67) -/

/-- LOST_COUNT holds at its ceiling (R67). -/
theorem lostAfter_eq (c : BitVec 16) : lostAfter c = if c = 65535#16 then 65535#16 else c + 1 := by
  have ceiling : c.toNat = Config.lostCeiling ↔ c = 65535#16 := by
    rw [← BitVec.toNat_inj]
    rfl
  rw [lostAfter, if_congr ceiling rfl rfl]
  split
  · assumption
  · rfl

/-- The queue with the barriers that a posted write's acknowledgement lowers, and the record gone. -/
def postedReported (s : State) (p : PostedRecord) : State :=
  { s with
    posted := { s.posted with records := s.posted.records.filter fun q => q.serial != p.serial }
    groups := { s.groups with queue := s.groups.queue.map (lowerBarrier p.stream p.serial) } }

theorem retirePosted_eq (s : State) (p : PostedRecord) :
    retirePosted s p = drainTest (relocTrigger s (answerOwed (postedReported s p))) := rfl

/-- The relocation trigger is not raised by an event that leaves the queue empty or not, as it was. -/
theorem relocTrigger_of_queue_iff {b s : State} (h : s.groups.queue = [] ↔ b.groups.queue = []) : relocTrigger b s = s := by
  by_cases hb : b.groups.queue = [] <;> simp [relocTrigger, pendingEmpty, h, hb]

/-- A posted write's acknowledgement that makes nothing due. -/
theorem retirePosted_none {s : State} {p : PostedRecord}
    (h : ∀ e ∈ s.groups.queue, (lowerBarrier p.stream p.serial e).answerable = false) :
    retirePosted s p = drainTest (postedReported s p) := by
  have nothing : answerOwed (postedReported s p) = postedReported s p :=
    answerOwed_none (by simpa [postedReported] using h)
  rw [retirePosted_eq, nothing, relocTrigger_of_queue_iff (by simp [postedReported])]

theorem lowerBarrier_serial (st : Stream) (n : Serial) (e : Entry) : (lowerBarrier st n e).serial = e.serial := by
  unfold lowerBarrier
  split <;> rfl

/-- A posted write's acknowledgement that makes entries of one stream answerable. -/
theorem retirePosted_owed {s : State} {p : PostedRecord} (hd : SerialsDistinct s)
    (hst : ∀ e ∈ (s.groups.queue.map (lowerBarrier p.stream p.serial)).filter Entry.answerable, e.stream = p.stream) :
    retirePosted s p = drainTest (relocTrigger s (committedSent (postedReported s p) p.stream
      ((s.groups.queue.map (lowerBarrier p.stream p.serial)).filter Entry.answerable)
      ((s.groups.queue.map (lowerBarrier p.stream p.serial)).filterMap answeredOwed))) := by
  have distinct : SerialsDistinct (postedReported s p) := by
    simpa [SerialsDistinct, postedReported, Function.comp_def, lowerBarrier_serial] using hd
  rw [retirePosted_eq, answerOwed_eq distinct fun e he ha => hst e (List.mem_filter.2 ⟨he, ha⟩)]
  rfl

/-- POSTED_WRITE_OK and POSTED_WRITE_FAIL of a record: the same acknowledgement, after a failure has been counted. -/
theorem exec_postedOutcomes {s : State} {t : MediaTag} {p : PostedRecord} (hcarry : Carries s t (.posted p.serial))
    (hfind : (s.posted.records.find? fun q => q.serial == p.serial) = some p) :
    exec (.postedWriteOk t) s = .next (retirePosted (dropTag s t) p)
      ∧ exec (.postedWriteFail t) s = .next (retirePosted (countLost (dropTag s t) p.stream) p) := by
  have tracked : postedAt (dropTag s t) p.serial = some p := hfind
  constructor
  · refine congrArg Host.Outcome.next ((onOutcome_carries hcarry rfl).trans ?_)
    simp only [postedAcked, tracked]
  · refine congrArg Host.Outcome.next ((onOutcome_carries hcarry rfl).trans ?_)
    simp only [postedFailed, tracked]

end Sys2Proof.Machine

/-! PROOF. The outcomes of posted writes (R17, R64, R67). -/

namespace Sys2Proof.Machine

theorem countLost_eq (s : State) (st : Stream) :
    countLost s st =
      { s with
        posted := { s.posted with lossMarks := s.posted.lossMarks.write st true }
        regs :=
          { flagged s.regs .postedLost with
            lostCount := if s.regs.lostCount = 65535#16 then 65535#16 else s.regs.lostCount + 1 } } := by
  rw [← lostAfter_eq]
  rfl

theorem answeredOwed_eq (e : Entry) :
    answeredOwed e =
      if (e.state == .durable || e.state == .applying) && e.barrier == 0 && !e.answered then
        if e.slots = [] ∨ e.homeDone = true then none else some { e with answered := true }
      else some e := by
  have leaves : e.leaves = true ↔ e.slots = [] ∨ e.homeDone = true := by simp [Entry.leaves]
  rw [answeredOwed, if_congr leaves rfl rfl]
  rfl

section PostedOutcomes

variable {s : State} {t : MediaTag} {p : PostedRecord}

/-- What an acknowledgement that makes entries of the record's stream answerable leaves (R16, R17, R18): `lost` is the
stream's loss mark, `regs` the registers. -/
def postedCommitted (s : State) (t : MediaTag) (p : PostedRecord) (lost : Bool) (regs : Regs) : State :=
  let queue := s.groups.queue.map (lowerBarrier p.stream p.serial)
  let owed := queue.filter Entry.answerable
  { s with
    fabric :=
      { s.fabric with
        egress := s.fabric.egress ++ committedFor lost owed
        takenUnanswered := s.fabric.takenUnanswered - owed.length }
    posted :=
      { records := s.posted.records.filter fun q => q.serial != p.serial
        lossMarks := s.posted.lossMarks.write p.stream false }
    groups := { s.groups with queue := queue.filterMap answeredOwed }
    media := { s.media with requests := requestsWithout s t }
    regs }

/-- The registers after a posted write has been counted lost (R67). -/
def regsLost (r : Regs) : Regs :=
  { flagged r .postedLost with lostCount := if r.lostCount = 65535#16 then 65535#16 else r.lostCount + 1 }

/-- The two outcomes of a posted write that make entries of its stream answerable. -/
theorem exec_posted_owed (hcarry : Carries s t (.posted p.serial))
    (hfind : (s.posted.records.find? fun q => q.serial == p.serial) = some p) (hd : SerialsDistinct s)
    (hst : ∀ e ∈ (s.groups.queue.map (lowerBarrier p.stream p.serial)).filter Entry.answerable, e.stream = p.stream)
    (hne : (s.groups.queue.map (lowerBarrier p.stream p.serial)).filter Entry.answerable ≠ []) :
    (∃ b, b.groups = s.groups ∧ exec (.postedWriteOk t) s =
        .next (drainTest (relocTrigger b (postedCommitted s t p (lossMark s p.stream) s.regs))))
      ∧ ∃ b, b.groups = s.groups ∧ exec (.postedWriteFail t) s =
        .next (drainTest (relocTrigger b (postedCommitted s t p true (regsLost s.regs)))) := by
  obtain ⟨ok, fail⟩ := exec_postedOutcomes hcarry hfind
  have retired (b : State) (hb : b.groups = s.groups) := retirePosted_owed (s := b) (p := p)
    (by rwa [SerialsDistinct, hb]) (by rwa [hb])
  refine ⟨⟨dropTag s t, rfl, ?_⟩, ⟨countLost (dropTag s t) p.stream, rfl, ?_⟩⟩
  · rw [ok, retired (dropTag s t) rfl, committedSent, if_neg (by exact hne)]
    rfl
  · rw [fail, retired (countLost (dropTag s t) p.stream) rfl, committedSent, if_neg (by exact hne), countLost_eq]
    simp only [postedReported, lossMark, PerStream.read_write, if_true, PerStream.write_write]
    rfl

/-- A posted write's outcome outside DRAINING, by the relocation unit's state. -/
theorem drainTest_relocTrigger_outside {b a : State} (h : a.modes.mode ≠ .draining) :
    drainTest (relocTrigger b a) = relocTrigger b a := by
  refine drainTest_outside ?_
  unfold relocTrigger
  split
  · simpa using h
  · exact h

/-- Settles O17: the acknowledgement lowers the barriers, and the entries it makes answerable are answered in their turns. -/
theorem postedOutcomesLowerBarriersAndSendCommitted : Obligations.PostedOutcomesLowerBarriersAndSendCommitted := by
  refine ⟨fun s t p hcarry hfind => ?lowers, fun s t p e hcarry hfind hreloc hmode hq hstream hbefore hstate hslots hhome
    hanswered hbarrier => ?one, fun s t p hcarry hfind hd => ?owed⟩
  case lowers =>
    intro lowered hnone records groups media acked lost
    obtain ⟨ok, fail⟩ := exec_postedOutcomes hcarry hfind
    have oks : exec (.postedWriteOk t) s = .next (drainTest acked) := by
      rw [ok, retirePosted_none (s := dropTag s t) hnone]
      rfl
    have fails : exec (.postedWriteFail t) s = .next (drainTest lost) := by
      rw [fail, retirePosted_none (s := countLost (dropTag s t) p.stream) hnone, countLost_eq]
      rfl
    refine ⟨fun hm => ⟨?_, ?_⟩, fun hm => ⟨drainsTo_of_drainTest oks hm rfl, drainsTo_of_drainTest fails hm rfl⟩⟩
    · rw [Answers, oks, drainTest_outside (show acked.modes.mode ≠ .draining from hm)]
    · rw [Answers, fails, drainTest_outside (show lost.modes.mode ≠ .draining from hm)]
  case one =>
    intro after
    have lowered : lowerBarrier p.stream p.serial e = { e with barrier := 0 } := by
      simp [lowerBarrier, hstream, hbefore, hbarrier]
    have due : Entry.answerable { e with barrier := 0 } = true := by simp [Entry.answerable, hstate, hanswered]
    have stays : answeredOwed { e with barrier := 0 } = some { e with barrier := 0, answered := true } := by
      rw [answeredOwed, if_pos due, if_neg (by simp [Entry.leaves, hslots, hhome])]
    have sent (lost : Bool) (regs : Regs) : postedCommitted s t p lost regs = after lost regs := by
      simp [postedCommitted, hq, lowered, due, stays, committedFor, after, fabricReplied]
    obtain ⟨⟨b, -, ok⟩, ⟨c, -, fail⟩⟩ := exec_posted_owed hcarry hfind (by simp [SerialsDistinct, hq])
      (by simp [hq, lowered, hstream]) (by simp [hq, lowered, due])
    constructor
    · rw [Answers, ok, sent, relocTrigger_outside (by exact hreloc), drainTest_outside (by exact hmode)]
    · rw [Answers, fail, sent, relocTrigger_outside (by exact hreloc), drainTest_outside (by exact hmode)]
      rfl
  case owed =>
    intro lowered queue owed hst hne after acked lost
    obtain ⟨⟨b, hb, ok⟩, ⟨c, hc, fail⟩⟩ := exec_posted_owed hcarry hfind hd hst hne
    have met : s.groups.queue ≠ [] := by
      rintro hq
      exact hne (by simp [owed, queue, hq])
    have sent (l : Bool) (regs : Regs) : postedCommitted s t p l regs = after l regs := by
      simp only [postedCommitted, funext answeredOwed_eq]
      rfl
    rw [sent] at ok fail
    refine ⟨fun hr hm => ?_, fun hr hm => ?_, fun hr hm => ?_⟩
    · rw [relocTrigger_outside (by exact hr), drainTest_outside (by exact hm)] at ok fail
      exact ⟨ok, fail⟩
    · rw [relocTrigger_outside (by exact hr)] at ok fail
      exact ⟨drainsTo_of_drainTest ok hm rfl, drainsTo_of_drainTest fail hm rfl⟩
    · rw [drainTest_relocTrigger_outside (by exact hm)] at ok fail
      exact ⟨emptiesTo_of_relocTrigger ok hr (hb ▸ met), emptiesTo_of_relocTrigger fail hr (hc ▸ met)⟩

end PostedOutcomes

end Sys2Proof.Machine

/-! PROOF. The end of an event: what it keeps, and streams with no write held (R34, R47). -/

namespace Sys2Proof.Machine

/-! ## What the end of an event keeps -/

theorem foldl_keeps {α : Type} {f : Work → α → Work} {P : State → Prop} {Q : α → Prop}
    (h : ∀ w a, Q a → P w.s → P (f w a).s) (l : List α) (hl : ∀ a ∈ l, Q a) (w : Work) (hw : P w.s) :
    P (l.foldl f w).s := by
  induction l generalizing w with
  | nil => exact hw
  | cons a l ih =>
    rw [List.forall_mem_cons] at hl
    exact ih hl.2 _ (h w a hl.1 hw)

/-- A property of the state is kept by the end of an event when it is kept by the turn of each write that it lets be held. -/
theorem settle_keeps {P : State → Prop} {Q : HeldWrite → Prop} (hwait : ∀ s, P s → ∀ r ∈ s.claims.waitList, Q r.write)
    (hslot : ∀ s, P s → ∀ h ∈ s.staging.slotWait, Q h)
    (hturn : ∀ w r, Q r.write → P w.s → P (reexamineOne w r).s) (hcheck : ∀ w h, Q h → P w.s → P (fromCheck2 w h).s)
    (w : Work) (hw : P w.s) : P (settle w) := by
  have line (w : Work) (l : Addr) (hw : P w.s) : P (reexamine w l).s :=
    foldl_keeps (Q := fun r => Q r.write) hturn _ (fun r hr => hwait _ hw r (List.mem_of_mem_filter hr)) w hw
  have rounds (n : Nat) : ∀ w : Work, P w.s → P (releaseRounds n w).s := by
    induction n with
    | zero => exact fun w hw => hw
    | succ n ih =>
      intro w hw
      rw [releaseRounds]
      split
      · exact hw
      · exact ih _ (foldl_keeps (Q := fun _ => True) (fun w l _ => line w l) w.release (fun _ _ => trivial)
          { w with release := [] } hw)
  have pass (w : Work) (hw : P w.s) : P (wakePass w).s :=
    foldl_keeps hcheck w.s.staging.slotWait (hslot _ hw) { w with freed := false } hw
  have passes (n : Nat) : ∀ w : Work, P w.s → P (settlePasses n w).s := by
    induction n with
    | zero => exact fun w hw => hw
    | succ n ih =>
      intro w hw
      have released := rounds (w.s.claims.waitList.length + 1) w hw
      simp only [settlePasses]
      split
      · exact ih _ (pass _ released)
      · exact released
  exact passes _ w hw

/-! ## A stream with no write held is left alone -/

/-- A part of an event that does not touch the record of stream `st` and does not hold a write of it. -/
structure Elsewhere (st : Stream) (s t : State) : Prop where
  record : recordOf t st = recordOf s st
  wait : st ∉ waitStreams s → st ∉ waitStreams t
  slot : st ∉ slotStreams s → st ∉ slotStreams t

theorem Elsewhere.refl (st : Stream) (s : State) : Elsewhere st s s := ⟨rfl, id, id⟩

theorem Elsewhere.trans {st : Stream} {s t u : State} (h : Elsewhere st s t) (k : Elsewhere st t u) :
    Elsewhere st s u :=
  ⟨k.record.trans h.record, k.wait ∘ h.wait, k.slot ∘ h.slot⟩

/-- A part of an event that leaves the table and the lists of held writes. -/
theorem Elsewhere.still {st : Stream} {s t : State} (hg : t.groups.table = s.groups.table) (hc : t.claims = s.claims)
    (hs : t.staging.slotWait = s.staging.slotWait) : Elsewhere st s t := by
  refine ⟨?_, ?_, ?_⟩
  · rw [recordOf, hg, recordOf]
  · rw [waitStreams, waitStreams, hc]
    exact id
  · rw [slotStreams, slotStreams, hs]
    exact id

theorem setRecord_elsewhere {st x : Stream} (hx : x ≠ st) (s : State) (r : GroupRecord) :
    Elsewhere st s (setRecord s x r) :=
  ⟨by simp [hx], id, id⟩

theorem leaveSlotWait_elsewhere (st x : Stream) (s : State) : Elsewhere st s (leaveSlotWait s x) := by
  refine ⟨rfl, id, fun h => ?_⟩
  simp only [slotStreams, leaveSlotWait, List.mem_map, List.mem_filter, not_exists, not_and] at h ⊢
  exact fun v hv => h v hv.1

theorem leaveWaitList_elsewhere (st x : Stream) (s : State) : Elsewhere st s (leaveWaitList s x) := by
  refine ⟨rfl, fun h => ?_, id⟩
  simp only [waitStreams, leaveWaitList, List.mem_map, List.mem_filter, not_exists, not_and] at h ⊢
  exact fun v hv => h v hv.1

theorem not_mem_waitStreams_leave (s : State) (st : Stream) : st ∉ waitStreams (leaveWaitList s st) := by
  simp [waitStreams, leaveWaitList]

theorem not_mem_slotStreams_leave (s : State) (st : Stream) : st ∉ slotStreams (leaveSlotWait s st) := by
  simp [slotStreams, leaveSlotWait]

section OtherStream

variable {st : Stream} {h : HeldWrite}

theorem joinSlotWait_elsewhere (hx : h.stream ≠ st) (s : State) : Elsewhere st s (joinSlotWait s h) := by
  unfold joinSlotWait
  split
  · exact .refl st s
  · refine ⟨rfl, id, fun hn => ?_⟩
    simp only [slotStreams, List.map_append, List.mem_append, List.map_cons, List.map_nil, List.mem_singleton, not_or]
    exact ⟨hn, hx.symm⟩

theorem joinWaitList_elsewhere (hx : h.stream ≠ st) (s : State) : Elsewhere st s (joinWaitList s h) := by
  refine ⟨rfl, fun hn => ?_, id⟩
  simp only [waitStreams, joinWaitList, List.map_append, List.mem_append, List.map_cons, List.map_nil,
    List.mem_singleton, not_or]
  exact ⟨hn, hx.symm⟩

theorem answerStaged_elsewhere (s : State) : Elsewhere st s (answerStaged s h) :=
  (leaveSlotWait_elsewhere st h.stream s).trans (.still rfl rfl rfl)

theorem doom_elsewhere {x : Stream} (hx : x ≠ st) (w : Work) (r : DoomReason) : Elsewhere st w.s (doom w x r).s := by
  unfold doom
  split
  · exact .refl st _
  · exact (setRecord_elsewhere hx w.s (.doomed r)).trans (.still rfl rfl rfl)
  · rename_i slots _ _
    have aborted : Elsewhere st w.s (abortVersions w slots).s := .still rfl rfl rfl
    exact aborted.trans ((setRecord_elsewhere hx _ (.doomed r)).trans (.still rfl rfl rfl))

theorem refuseWrite_elsewhere (hx : h.stream ≠ st) (w : Work) (r : DoomReason) :
    Elsewhere st w.s (refuseWrite w h r).s :=
  (leaveSlotWait_elsewhere st h.stream w.s).trans
    ((doom_elsewhere hx { w with s := leaveSlotWait w.s h.stream } r).trans (.still rfl rfl rfl))

theorem mergeInPlace_elsewhere (hx : h.stream ≠ st) (s : State) (v : Slot) : Elsewhere st s (mergeInPlace s h v) := by
  refine .trans (.trans ?_ (setRecord_elsewhere hx _ _)) (answerStaged_elsewhere _)
  exact .still rfl rfl rfl

theorem mergeByCopy_elsewhere (hx : h.stream ≠ st) (s : State) (v : Slot) (c : Nat) :
    Elsewhere st s (mergeByCopy s h v c) := by
  refine .trans (.trans ?_ (setRecord_elsewhere hx _ _)) (answerStaged_elsewhere _)
  exact .still rfl rfl rfl

theorem stageNew_elsewhere (hx : h.stream ≠ st) (s : State) (c : Nat) : Elsewhere st s (stageNew s h c) := by
  refine .trans (.trans ?_ (setRecord_elsewhere hx _ _)) (answerStaged_elsewhere _)
  exact .still rfl rfl rfl

theorem fromCheck4_elsewhere (hx : h.stream ≠ st) (w : Work) : Elsewhere st w.s (fromCheck4 w h).s := by
  unfold fromCheck4
  split
  · exact refuseWrite_elsewhere hx w _
  · split
    · exact refuseWrite_elsewhere hx w _
    · split
      · exact joinSlotWait_elsewhere hx w.s
      · exact stageNew_elsewhere hx w.s _

theorem fromCheck3_elsewhere (hx : h.stream ≠ st) (w : Work) : Elsewhere st w.s (fromCheck3 w h).s := by
  unfold fromCheck3
  split
  · exact fromCheck4_elsewhere hx w
  · split
    · exact mergeInPlace_elsewhere hx w.s _
    · split
      · exact joinSlotWait_elsewhere hx w.s
      · exact mergeByCopy_elsewhere hx w.s _ _

theorem fromCheck2_elsewhere (hx : h.stream ≠ st) (w : Work) : Elsewhere st w.s (fromCheck2 w h).s := by
  unfold fromCheck2 claimDecision
  split
  · exact fromCheck3_elsewhere hx w
  · split
    · exact fromCheck3_elsewhere hx w
    · split
      · exact refuseWrite_elsewhere hx w _
      · exact (leaveSlotWait_elsewhere st h.stream w.s).trans (joinWaitList_elsewhere hx _)

end OtherStream

theorem reexamineOne_elsewhere {st : Stream} {r : WaitRecord} (hx : r.write.stream ≠ st) (w : Work) :
    Elsewhere st w.s (reexamineOne w r).s := by
  unfold reexamineOne
  split
  · exact (leaveWaitList_elsewhere st r.write.stream w.s).trans
      (fromCheck3_elsewhere hx { w with s := leaveWaitList w.s r.write.stream })
  · exact .refl st _

/-- The record of a stream with no write held is not touched by the end of an event, and no write of it comes to be held. -/
theorem settle_elsewhere {st : Stream} {w : Work} (hw : st ∉ waitStreams w.s) (hs : st ∉ slotStreams w.s) :
    recordOf (settle w) st = recordOf w.s st ∧ st ∉ waitStreams (settle w) ∧ st ∉ slotStreams (settle w) := by
  refine settle_keeps (P := fun s => recordOf s st = recordOf w.s st ∧ st ∉ waitStreams s ∧ st ∉ slotStreams s)
    (Q := fun h => h.stream ≠ st) (fun s hs r hr he => ?_) (fun s hs h hh he => ?_) (fun u r hr hu => ?_)
    (fun u h hh hu => ?_) w ⟨rfl, hw, hs⟩
  · exact hs.2.1 (he ▸ List.mem_map_of_mem (f := fun r : WaitRecord => r.write.stream) hr)
  · exact hs.2.2 (he ▸ List.mem_map_of_mem (f := HeldWrite.stream) hh)
  · have turn := reexamineOne_elsewhere hr u
    exact ⟨turn.record.trans hu.1, turn.wait hu.2.1, turn.slot hu.2.2⟩
  · have turn := fromCheck2_elsewhere hh u
    exact ⟨turn.record.trans hu.1, turn.wait hu.2.1, turn.slot hu.2.2⟩

theorem not_mem_waitStreams_iff (s : State) (st : Stream) :
    st ∉ waitStreams s ↔ ∀ r ∈ s.claims.waitList, r.write.stream ≠ st := by
  simp [waitStreams]

theorem not_mem_slotStreams_iff (s : State) (st : Stream) :
    st ∉ slotStreams s ↔ ∀ h ∈ s.staging.slotWait, h.stream ≠ st := by
  simp [slotStreams]

end Sys2Proof.Machine

/-! PROOF. Guarded writes that stage (R3, R30, R31). -/

namespace Sys2Proof.Machine

/-! ## A guarded write through the checks of R3 -/

section GuardedWrite

variable {s : State} {g : Grant} {w : Work} {h : HeldWrite}

theorem exec_guardedWrite (hr : s.modes.mode = .ready) (hg : takeGrant s = some g) (hk : g.req.kind = .write)
    (hc : classify s g.stream g.req = .guarded) :
    exec .takeWrite s = .next (settle (guardedWrite (Work.start (takeHead s g.stream)) (heldWrite g))) := by
  rw [exec_takeWrite_ready hr hg hk, actWrite_of_guarded (by simpa using hc)]

/-- Check 1 passes: the record is not DOOMED. -/
theorem guardedWrite_checked (hd : isDoomed w.s h.stream = false) : guardedWrite w h = fromCheck2 w h := by
  unfold isDoomed at hd
  unfold guardedWrite
  cases hrec : recordOf w.s h.stream with
  | doomed reason => simp [hrec] at hd
  | absent => rfl
  | opened slots d => rfl

/-- Check 1 fails. -/
theorem guardedWrite_doomed {reason : DoomReason} (hd : recordOf w.s h.stream = .doomed reason) :
    guardedWrite w h = { w with s := answerTaken w.s (abortedAnswer h.stream h.tag reason.reason) } := by
  simp only [guardedWrite, hd]

/-- Check 2 passes: nobody or the stream itself claims the line. -/
theorem fromCheck2_free (hf : claimant w.s h.line = none ∨ claimant w.s h.line = some h.stream) :
    fromCheck2 w h = fromCheck3 w h := by
  obtain hf | hf := hf <;> simp only [fromCheck2, hf, if_true]

/-- Check 2 fails: another stream claims the line. -/
theorem fromCheck2_claimed {u : Stream} (hf : claimant w.s h.line = some u) (hu : u ≠ h.stream) :
    fromCheck2 w h = claimDecision w h u := by
  simp only [fromCheck2, hf, if_neg hu]

theorem fromCheck3_none (hv : openVersion w.s h.stream h.line = none) : fromCheck3 w h = fromCheck4 w h := by
  simp only [fromCheck3, hv]

theorem fromCheck3_unpinned {v : Slot} (hv : openVersion w.s h.stream h.line = some v) (hp : v.pins = 0) :
    fromCheck3 w h = { w with s := mergeInPlace w.s h v } := by
  simp only [fromCheck3, hv, if_pos hp]

theorem fromCheck3_copied {v : Slot} {c : Nat} (hv : openVersion w.s h.stream h.line = some v) (hp : v.pins ≠ 0)
    (hc : freeSlot? w.s = some c) : fromCheck3 w h = { w with s := mergeByCopy w.s h v c } := by
  simp only [fromCheck3, hv, if_neg hp, hc]

theorem fromCheck3_noSlot {v : Slot} (hv : openVersion w.s h.stream h.line = some v) (hp : v.pins ≠ 0)
    (hc : freeSlot? w.s = none) : fromCheck3 w h = { w with s := joinSlotWait w.s h } := by
  simp only [fromCheck3, hv, if_neg hp, hc]

theorem fromCheck4_full (hf : groupFull w.s h.stream = true) : fromCheck4 w h = refuseWrite w h .groupFull :=
  if_pos hf

theorem fromCheck4_quota (hf : groupFull w.s h.stream = false) (hq : 768 ≤ openSlots w.s) :
    fromCheck4 w h = refuseWrite w h .quota := by
  rw [fromCheck4, hf, if_neg (by decide), if_pos (by exact hq)]

theorem fromCheck4_staged {c : Nat} (hf : groupFull w.s h.stream = false) (hq : openSlots w.s < 768)
    (hc : freeSlot? w.s = some c) : fromCheck4 w h = { w with s := stageNew w.s h c } := by
  simp only [fromCheck4, hf, Bool.false_eq_true, if_false, if_neg (show ¬Config.openQuota ≤ openSlots w.s from
    Nat.not_le.2 hq), hc]

theorem fromCheck4_noSlot (hf : groupFull w.s h.stream = false) (hq : openSlots w.s < 768) (hc : freeSlot? w.s = none) :
    fromCheck4 w h = { w with s := joinSlotWait w.s h } := by
  simp only [fromCheck4, hf, Bool.false_eq_true, if_false, if_neg (show ¬Config.openQuota ≤ openSlots w.s from
    Nat.not_le.2 hq), hc]

/-- A write is staged when its stream has none in the slot wait. -/
theorem answerStaged_absent (hw : inSlotWait s h.stream = false) :
    answerStaged s h = answerTaken s (plainAnswer h.stream h.tag .staged) := by
  rw [answerStaged, leaveSlotWait_absent hw]

theorem joinSlotWait_absent (hw : inSlotWait s h.stream = false) :
    joinSlotWait s h = { s with staging := { s.staging with slotWait := s.staging.slotWait ++ [h] } } := by
  rw [joinSlotWait, hw]
  rfl

/-- The record of a group that a write is staged to: OPEN with the slot list given and the idle deadline restarted. -/
theorem restarted_eq {slots : List Nat} {old : Option Nat} {r : GroupRecord}
    (hr : r = .opened slots old ∨ (r = .absent ∧ slots = [] ∧ old = none)) (ns : List Nat) :
    r.slots = slots ∧ restarted s ns r = .opened ns (idleDeadline s old) := by
  obtain rfl | ⟨rfl, rfl, rfl⟩ := hr <;> exact ⟨rfl, rfl⟩

theorem groupFull_eq_false {slots : List Nat} {old : Option Nat} {st : Stream}
    (hr : recordOf s st = .opened slots old ∨ (recordOf s st = .absent ∧ slots = [] ∧ old = none))
    (hl : recordOf s st ≠ .absent → slots.length < s.regs.groupLimit) : groupFull s st = false := by
  unfold groupFull
  obtain hr | ⟨hr, -, -⟩ := hr
  · have := hl (by rw [hr]; simp)
    rw [hr]
    simpa using this
  · rw [hr]

theorem isDoomed_eq_false {slots : List Nat} {old : Option Nat} {st : Stream}
    (hr : recordOf s st = .opened slots old ∨ (recordOf s st = .absent ∧ slots = [] ∧ old = none)) :
    isDoomed s st = false := by
  unfold isDoomed
  obtain hr | ⟨hr, -, -⟩ := hr <;> rw [hr]

/-- The part after a write has been staged: its record, the buffer, its answer. -/
def staged (s : State) (h : HeldWrite) (slots : List Nat) (old : Option Nat) (staging : Staging) : State :=
  answerTaken
    { s with
      groups := { s.groups with table := s.groups.table.write h.stream (.opened slots (idleDeadline s old)) }
      staging }
    (plainAnswer h.stream h.tag .staged)

section Staged

variable {slots : List Nat} {old : Option Nat} (hw : inSlotWait s h.stream = false)
  (hr : recordOf s h.stream = .opened slots old ∨ (recordOf s h.stream = .absent ∧ slots = [] ∧ old = none))

include hw hr

theorem stageNew_eq (c : Nat) :
    stageNew s h c = staged s h (slots ++ [c]) old
      { s.staging with
        slots := insertSlot (newVersion h c) s.staging.slots
        index := s.staging.index ++ [{ line := h.line, slot := c }] } := by
  obtain ⟨hslots, hopen⟩ := restarted_eq (s := addVersion s (newVersion h c)) hr (slots ++ [c])
  have record : recordOf (addVersion s (newVersion h c)) h.stream = recordOf s h.stream := rfl
  rw [stageNew, answerStaged_absent (by exact hw), record, hslots, hopen]
  rfl

theorem mergeInPlace_eq (v : Slot) :
    mergeInPlace s h v = staged s h slots old
      { s.staging with slots := s.staging.slots.map fun u => if u.num = v.num then mergeInto h u else u } := by
  obtain ⟨hslots, hopen⟩ := restarted_eq (s := mapSlots s [v.num] (mergeInto h)) hr slots
  have record : recordOf (mapSlots s [v.num] (mergeInto h)) h.stream = recordOf s h.stream := rfl
  rw [mergeInPlace, answerStaged_absent (by exact hw), restartIdle, record, hslots, hopen]
  simp only [mapSlots, List.mem_singleton]
  rfl

theorem mergeByCopy_eq (v : Slot) (c : Nat) :
    mergeByCopy s h v c = staged s h (slots.map fun n => if n = v.num then c else n) old
      { s.staging with
        slots := insertSlot (mergeInto h { v with num := c, pins := 0 })
          (s.staging.slots.map fun u => if u.num = v.num then detach u else u)
        index := s.staging.index.map fun x => if x.slot = v.num then { x with slot := c } else x } := by
  rw [mergeByCopy, answerStaged_absent (by exact hw)]
  simp only [mapSlots, List.mem_singleton]
  change answerTaken (setRecord _ h.stream
    (restarted _ (swapSlot v.num c (recordOf s h.stream).slots) (recordOf s h.stream))) _ = _
  rw [(restarted_eq (s := s) hr slots).1, (restarted_eq hr _).2]
  rfl

end Staged

/-- The end of an event that released nothing and freed nothing. -/
theorem settle_start (s t : State) : settle { Work.start s with s := t } = t := settle_nothing t [] rfl

end GuardedWrite

/-- Settles O18: the write passes check 2, and checks 3 to 7 stage it. -/
theorem guardedWriteStages : Obligations.GuardedWriteStages := by
  intro s g hr hg hk hc l o mask data merge deadline slots old hrec hfree after
  obtain ⟨-, hslot⟩ := takeGrant_notHeld hr hg
  have hd : isDoomed s g.stream = false := isDoomed_eq_false hrec
  have ends {t : State} (h : fromCheck3 (Work.start (takeHead s g.stream)) (heldWrite g) =
      { Work.start (takeHead s g.stream) with s := t }) : Answers .takeWrite s t := by
    rw [Answers, exec_guardedWrite hr hg hk hc, guardedWrite_checked (by exact hd), fromCheck2_free (by exact hfree), h,
      settle_start]
  refine ⟨fun c hv hlimit hquota hslotFree => ?new, fun v hv hp => ?inPlace, fun v c hv hp hslotFree => ?copied⟩
  case new =>
    have full := groupFull_eq_false hrec hlimit
    refine ends ?_
    rw [fromCheck3_none (by exact hv), fromCheck4_staged (by exact full) (by exact hquota) (by exact hslotFree),
      stageNew_eq (slots := slots) (old := old) (by exact hslot) (by exact hrec)]
    rfl
  case inPlace =>
    refine ends ?_
    rw [fromCheck3_unpinned (by exact hv) hp, mergeInPlace_eq (slots := slots) (old := old) (by exact hslot) (by exact hrec)]
    rfl
  case copied =>
    refine ends ?_
    rw [fromCheck3_copied (by exact hv) hp (by exact hslotFree),
      mergeByCopy_eq (slots := slots) (old := old) (by exact hslot) (by exact hrec)]
    rfl

end Sys2Proof.Machine

/-! PROOF. Guarded writes that are refused, held or doom their group (R4, R33, R41). -/

namespace Sys2Proof.Machine

/-! ## Writes that are held or turned away (R33, R41, R44) -/

/-- No length-two deadlock (R42). -/
theorem deadlock_eq_false {s : State} {st u : Stream}
    (h : ∀ r ∈ s.claims.waitList, r.write.stream = u → claimant s r.write.line ≠ some st) : deadlock s st u = false := by
  simpa [deadlock] using h

/-- A length-two deadlock. -/
theorem deadlock_eq_true {s : State} {st u : Stream}
    (h : ∃ r ∈ s.claims.waitList, r.write.stream = u ∧ claimant s r.write.line = some st) : deadlock s st u = true := by
  simpa [deadlock] using h

theorem claimDecision_joins {w : Work} {h : HeldWrite} {u : Stream} (hd : deadlock w.s h.stream u = false)
    (hw : inSlotWait w.s h.stream = false) : claimDecision w h u = { w with s := joinWaitList w.s h } := by
  rw [claimDecision, hd, leaveSlotWait_absent hw]
  rfl

/-- Settles O19: a check turns the write away, or it joins a list, and nothing is released. -/
theorem guardedWriteIsRefusedOrHeld : Obligations.GuardedWriteIsRefusedOrHeld := by
  intro s g hr hg hk hc l h held
  obtain ⟨-, hslot⟩ := takeGrant_notHeld hr hg
  have ends {t : State} (ht : guardedWrite (Work.start (takeHead s g.stream)) (heldWrite g) =
      { Work.start (takeHead s g.stream) with s := t }) : Answers .takeWrite s t := by
    rw [Answers, exec_guardedWrite hr hg hk hc, ht, settle_start]
  have passes (hd : isDoomed s g.stream = false) (hf : claimant s l = none ∨ claimant s l = some g.stream) :
      guardedWrite (Work.start (takeHead s g.stream)) (heldWrite g) =
        fromCheck3 (Work.start (takeHead s g.stream)) (heldWrite g) := by
    rw [guardedWrite_checked (by exact hd), fromCheck2_free (by exact hf)]
  refine ⟨fun reason hd => ends (guardedWrite_doomed (by exact hd)), fun u hd hu hne hdead => ?waits,
    fun hd hf hv hfull hquota hc => ?slotWait, fun v hd hf hv hp hc => ?copyWait⟩
  case waits =>
    refine ends ?_
    rw [guardedWrite_checked (by exact hd), fromCheck2_claimed (by exact hu) hne,
      claimDecision_joins (deadlock_eq_false (by exact hdead)) (by exact hslot)]
    rfl
  case slotWait =>
    refine ends ((passes hd hf).trans ?_)
    rw [fromCheck3_none (by exact hv), fromCheck4_noSlot (by exact hfull) (by exact hquota) (by exact hc),
      joinSlotWait_absent (by exact hslot)]
    rfl
  case copyWait =>
    refine ends ((passes hd hf).trans ?_)
    rw [fromCheck3_noSlot (by exact hv) hp (by exact hc), joinSlotWait_absent (by exact hslot)]
    rfl

/-! ## Doom (R4, R5) -/

theorem isDoomed_eq_false_iff (s : State) (st : Stream) : isDoomed s st = false ↔ ∀ r, recordOf s st ≠ .doomed r := by
  rw [← Bool.not_eq_true, isDoomed_iff, not_exists]

/-- A group that is not DOOMED is: its versions are aborted, its record holds the reason, and it is counted. -/
theorem doom_eq {w : Work} {st : Stream} (hd : isDoomed w.s st = false) (reason : DoomReason) :
    doom w st reason =
      { abortVersions w (recordOf w.s st).slots with
        s := countAborted (setRecord (abortVersions w (recordOf w.s st).slots).s st (.doomed reason)) } := by
  unfold doom
  cases hrec : recordOf w.s st with
  | absent =>
    rw [GroupRecord.slots, abortVersions_nil]
  | opened slots d => rfl
  | doomed r => exact absurd hrec ((isDoomed_eq_false_iff w.s st).1 hd r)

/-- The part after a stream's group has been doomed. -/
def doomedState (s : State) (st : Stream) (reason : DoomReason) : State :=
  { s with
    groups := { s.groups with table := s.groups.table.write st (.doomed reason) }
    staging := stagingAborted s.staging (recordOf s st).slots
    regs := abortCounted s.regs }

theorem doom_state {w : Work} {st : Stream} (hd : isDoomed w.s st = false) (reason : DoomReason) :
    (doom w st reason).s = doomedState w.s st reason := by
  rw [doom_eq hd]
  rfl

@[simp] theorem recordOf_doomedState (s : State) (st : Stream) (reason : DoomReason) :
    recordOf (doomedState s st reason) st = .doomed reason := by
  simp [recordOf, doomedState]

theorem flagSet_doomedState (s : State) (st : Stream) (reason : DoomReason) :
    flagSet (doomedState s st reason) .abort = true := flagged_set { s.regs with abortedCount := s.regs.abortedCount + 1 } .abort

theorem flagSet_kept {s t : State} {f : EventFlag} (h : FlagsKept s.regs t.regs) (hs : flagSet s f = true) :
    flagSet t f = true := h _ hs

/-- A write that is refused when its stream has none in the slot wait (R4). -/
theorem refuseWrite_state {w : Work} {h : HeldWrite} (hd : isDoomed w.s h.stream = false)
    (hw : inSlotWait w.s h.stream = false) (reason : DoomReason) :
    (refuseWrite w h reason).s =
      answerTaken (doomedState w.s h.stream reason) (abortedAnswer h.stream h.tag reason.reason) := by
  rw [refuseWrite, leaveSlotWait_absent hw]
  simp only [doom_state hd]

/-- What an event leaves that ends in `w`, from a state whose group of `st` is doomed. -/
theorem settle_of_doomed {w : Work} {st : Stream} {reason : DoomReason} {s : State}
    (hw : Quiet (doomedState s st reason) w.s) (hrec : recordOf w.s st = .doomed reason)
    (hwait : st ∉ waitStreams w.s) (hslot : st ∉ slotStreams w.s) :
    w.s.fabric.egress <+: (settle w).fabric.egress ∧ recordOf (settle w) st = .doomed reason
      ∧ (st ∉ waitStreams (settle w) ∧ st ∉ slotStreams (settle w))
      ∧ flagSet (settle w) .abort = true ∧ (settle w).groups.queue = s.groups.queue ∧ (settle w).posted = s.posted
      ∧ (settle w).reads = s.reads ∧ (settle w).journal = s.journal ∧ (settle w).media = s.media
      ∧ (settle w).modes = s.modes := by
  have quiet := settle_quiet w
  have whole := hw.trans quiet
  obtain ⟨record, wait, slot⟩ := settle_elsewhere hwait hslot
  exact ⟨quiet.egress, record.trans hrec, ⟨wait, slot⟩, flagSet_kept whole.flags (flagSet_doomedState s st reason),
    whole.queue, whole.posted, whole.reads, whole.journal, whole.media, whole.modes⟩

/-- Settles O20: every reason is a check that refuses the write, and a stream that is granted has no write held. -/
theorem guardedWriteDooms : Obligations.GuardedWriteDooms := by
  intro s g hr hg hk hc hd l free dooms reason hdooms
  obtain ⟨hwait, hslot⟩ := takeGrant_notHeld hr hg
  have refused : guardedWrite (Work.start (takeHead s g.stream)) (heldWrite g) =
      refuseWrite (Work.start (takeHead s g.stream)) (heldWrite g) reason := by
    rw [guardedWrite_checked (by exact hd)]
    cases reason with
    | groupFull =>
      obtain ⟨hf, hv, hfull⟩ := hdooms
      rw [fromCheck2_free (by exact hf), fromCheck3_none (by exact hv), fromCheck4_full (by exact hfull)]
    | quota =>
      obtain ⟨hf, hv, hfull, hquota⟩ := hdooms
      rw [fromCheck2_free (by exact hf), fromCheck3_none (by exact hv), fromCheck4_quota (by exact hfull) (by exact hquota)]
    | conflict =>
      obtain ⟨u, hu, hne, hdead⟩ := hdooms
      rw [fromCheck2_claimed (by exact hu) hne, claimDecision, if_pos (deadlock_eq_true (by exact hdead))]
    | idle => cases hdooms
  have runs := exec_guardedWrite hr hg hk hc
  rw [refused] at runs
  have state := refuseWrite_state (w := Work.start (takeHead s g.stream)) (h := heldWrite g) hd hslot reason
  generalize refuseWrite (Work.start (takeHead s g.stream)) (heldWrite g) reason = w at runs state
  refine ⟨⟨_, runs, ?_⟩, fun hnone => ?_⟩
  · have quiet : Quiet (doomedState (takeHead s g.stream) g.stream reason) w.s := by
      rw [state]
      exact answerTaken_quiet _ _
    obtain ⟨egress, record, -, flag, queue, posted, reads, journal, media, modes⟩ := settle_of_doomed quiet
      (by rw [state]; exact recordOf_doomedState _ _ _)
      (by rw [state, ← inWaitList_iff, Bool.not_eq_true]; exact hwait)
      (by rw [state, ← inSlotWait_iff, Bool.not_eq_true]; exact hslot)
    rw [state] at egress
    exact ⟨egress, record, flag, queue, posted, reads, journal, media, modes⟩
  · rw [Answers, runs, settle_noneHeld w (by rw [state]; exact hnone.1) (by rw [state]; exact hnone.2), state]
    rfl

end Sys2Proof.Machine

/-! PROOF. COMMIT (R11, R12, R14, R95). -/

namespace Sys2Proof.Machine

/-! ## Slots under changes that keep their numbers -/

/-- The slot with a number after a change of the buffer that keeps every number. -/
theorem find?_num_map {f : Slot → Slot} (hf : ∀ v, (f v).num = v.num) (vs : List Slot) (n : Nat) :
    ((vs.map f).find? fun v => v.num == n) = (vs.find? fun v => v.num == n).map f := by
  rw [List.find?_map]
  simp only [Function.comp_def, hf]

/-- What a group's lines are read from is not changed by the states and owners of slots. -/
theorem groupLines_map {s t : State} {f : Slot → Slot} (hf : ∀ v, (f v).num = v.num)
    (hl : ∀ v, ((f v).line, (f v).mask, (f v).data) = (v.line, v.mask, v.data))
    (ht : t.staging.slots = s.staging.slots.map f) (e : Entry) : groupLines t e = groupLines s e := by
  have slot (n : Nat) : (slotAt t n).map (fun v => (v.line, v.mask, v.data))
      = (slotAt s n).map fun v => (v.line, v.mask, v.data) := by
    rw [slotAt, ht, find?_num_map hf, Option.map_map]
    simp only [Function.comp_def, hl]
    rfl
  simp only [groupLines, slot]

/-! ## Triggers (R110) -/

/-- A trigger touches the checkpoint writer and the port's requests alone. -/
theorem raiseTrigger_eq (s : State) :
    raiseTrigger s = { s with ckpt := (raiseTrigger s).ckpt, media := (raiseTrigger s).media } := by
  unfold raiseTrigger
  split <;> rfl

/-- With a trigger raised, a checkpoint is in flight. -/
theorem raiseTrigger_inFlight (s : State) : (raiseTrigger s).ckpt.inFlight.isSome = true := by
  unfold raiseTrigger
  split
  · assumption
  · rfl

/-! ## The journal writer's look (R95) -/

theorem writerLooks_none {s : State} (h : ∀ e ∈ s.groups.queue, e.state ≠ .sealed) (n : Nat) : writerLooks n s = s := by
  have none : oldestSealed s = none := by
    simpa [oldestSealed] using h
  cases n with
  | zero => rfl
  | succ n => simp [writerLooks, none]

/-- The idle writer's look at the one SEALED entry, with slots: it begins the group (R14, R95). -/
theorem writerLook_begins {s : State} {e : Entry} (hm : s.modes.mode = .ready) (hw : s.journal.writer = .idle)
    (he : oldestSealed s = some e) (hs : e.slots ≠ []) : writerLook s = beginJournal s e := by
  rw [writerLook, writerLooks, if_pos ⟨hm, hw⟩, he]
  simp [hs]

/-- The idle writer's look at the one SEALED entry, without slots: it is DURABLE at once and answered if it can be (R12). -/
theorem writerLook_empty {s : State} {e : Entry} (hm : s.modes.mode = .ready) (hw : s.journal.writer = .idle)
    (he : oldestSealed s = some e) (hs : e.slots = []) :
    writerLook s = writerLooks s.groups.queue.length
      (tryAnswer (mapEntry s e.serial fun e => { e with state := .durable }) e.serial) := by
  rw [writerLook, writerLooks, if_pos ⟨hm, hw⟩, he]
  simp [hs]

theorem oldestSealed_last {s : State} {front : List Entry} {e : Entry} (hq : s.groups.queue = front ++ [e])
    (hf : ∀ x ∈ front, x.state ≠ .sealed) (he : e.state = .sealed) : oldestSealed s = some e := by
  have none : front.find? (fun x => x.state == .sealed) = none := by simpa using hf
  simp [oldestSealed, hq, List.find?_append, none, he]

/-! ## COMMIT (R11) -/

section Commit

variable {s : State} {g : Grant}

theorem exec_commit_ready (hr : s.modes.mode = .ready) (hg : takeGrant s = some g) (hk : g.req.kind = .commit) :
    exec .commit s = .next (actCommit (takeHead s g.stream) g) :=
  congrArg Host.Outcome.next (takeOf_ready .commit actCommit hr hg hk)

theorem actCommit_doomed {reason : DoomReason} (hd : recordOf s g.stream = .doomed reason) :
    actCommit s g = setRecord (answerCommitAborted s g.stream g.req.tag reason.reason) g.stream .absent := by
  simp only [actCommit, hd]

theorem actCommit_sealed (hd : isDoomed s g.stream = false) : actCommit s g = writerLook (sealGroup s g) := by
  unfold actCommit
  cases hrec : recordOf s g.stream with
  | doomed r => exact absurd hrec ((isDoomed_eq_false_iff s _).1 hd r)
  | absent => rfl
  | opened slots d => rfl

/-- The slots of a group that has been sealed, in a state under its entry. -/
def slotsUnder (s : State) (g : Grant) (serial : Serial) (x : SlotState) : List Slot :=
  s.staging.slots.map fun v =>
    if v.num ∈ (recordOf s g.stream).slots then { v with state := x, owner := some (.entry g.stream serial) } else v

/-- The entry of a COMMIT taken now. -/
def takenEntry (s : State) (g : Grant) : Entry := sealedEntry (takeHead s g.stream) g

/-- The part after a COMMIT has been taken: the queue and the slots in a state of the group. -/
def commitTaken (s : State) (g : Grant) (queue : List Entry) (x : SlotState) : State :=
  { s with
    fabric := fabricTaken s g.stream
    wires := creditSignalled s g.stream
    groups := { table := s.groups.table.write g.stream .absent, queue }
    staging := { s.staging with slots := slotsUnder s g (s.fabric.takeSerial + 1) x } }

theorem sealGroup_takeHead (s : State) (g : Grant) :
    sealGroup (takeHead s g.stream) g = commitTaken s g (s.groups.queue ++ [takenEntry s g]) .sealed := rfl

/-- The slots of a sealed group become JOURNALING with its entry. -/
theorem mapSlots_commitTaken (s : State) (g : Grant) (queue : List Entry) :
    mapSlots (commitTaken s g queue .sealed) (recordOf s g.stream).slots (fun v => { v with state := .journaling }) =
      commitTaken s g queue .journaling := by
  have slots : (slotsUnder s g (s.fabric.takeSerial + 1) .sealed).map
      (fun v => if v.num ∈ (recordOf s g.stream).slots then { v with state := SlotState.journaling } else v) =
        slotsUnder s g (s.fabric.takeSerial + 1) .journaling := by
    rw [slotsUnder, slotsUnder, List.map_map]
    refine List.map_congr_left fun v _ => ?_
    by_cases hv : v.num ∈ (recordOf s g.stream).slots <;> simp [hv]
  rw [mapSlots, commitTaken, slots]
  rfl

/-- The entry that the writer has begun with a COMMIT's group. -/
def takenBegun (s : State) (g : Grant) : Entry := begunEntry s (takenEntry s g)

/-- What the writer hands over for the group of a COMMIT (R97). -/
theorem enterWriting_commitTaken (queue : List Entry) :
    enterWriting (commitTaken s g queue .journaling) (takenBegun s g) =
      handOver (setWriter (commitTaken s g queue .journaling) (.writing false))
        (lineRequests s.journal.region s.journal.head 0
          (recordBody g.stream s.journal.nextSeq ((recordOf s g.stream).slots.filterMap fun n =>
            (slotAt s n).map fun v => (v.line, v.mask, v.data)))) := by
  have lines : groupLines (commitTaken s g queue .journaling) (takenBegun s g) = groupLines s (takenBegun s g) :=
    groupLines_map (fun v => by split <;> rfl) (fun v => by split <;> rfl) rfl _
  rw [enterWriting, entryBody, lines]
  rfl

/-- The entry of an empty COMMIT once it has passed the journal stage. -/
def takenDurable (s : State) (g : Grant) : Entry := { takenEntry s g with state := .durable }

variable (hfresh : ∀ x ∈ s.groups.queue, x.serial ≠ s.fabric.takeSerial + 1)

include hfresh

/-- The group of a COMMIT is begun: its entry and its slots are JOURNALING before the space check. -/
theorem beginJournal_commitTaken :
    beginJournal (commitTaken s g (s.groups.queue ++ [takenEntry s g]) .sealed) (takenEntry s g) =
      let s1 := commitTaken s g (s.groups.queue ++ [takenBegun s g]) .journaling
      if recordLength (recordOf s g.stream).slots.length ≤ s.journal.region.ringLength - s.journal.used then
        enterWriting s1 (takenBegun s g)
      else
        let s2 := setFlag (setWriter s1 .waitingSpace) .journalLow
        if 0 < s.journal.retiredSpan then raiseTrigger s2 else s2 := by
  have begun : mapEntry (commitTaken s g (s.groups.queue ++ [takenEntry s g]) .sealed) (takenEntry s g).serial
      (begunEntry (commitTaken s g (s.groups.queue ++ [takenEntry s g]) .sealed)) =
        commitTaken s g (s.groups.queue ++ [takenBegun s g]) .sealed :=
    mapEntry_split (back := []) rfl hfresh (by simp) _
  have slots : (takenEntry s g).slots = (recordOf s g.stream).slots := rfl
  rw [beginJournal, begun, slots, mapSlots_commitTaken]
  simp only [fits, tailsDiffer, decide_eq_true_eq]
  rfl

/-- An empty group is DURABLE at once, and answered when it owes no posted write. -/
theorem writerLook_commitTaken_empty (hm : s.modes.mode = .ready) (hw : s.journal.writer = .idle)
    (hsealed : ∀ x ∈ s.groups.queue, x.state ≠ .sealed) (hs : (recordOf s g.stream).slots = []) :
    writerLook (commitTaken s g (s.groups.queue ++ [takenEntry s g]) .sealed) =
      let s1 := commitTaken s g (s.groups.queue ++ [takenDurable s g]) .sealed
      if (takenEntry s g).barrier = 0 then
        { sendCommitted s1 (takenDurable s g) false with
          groups := { s1.groups with queue := s.groups.queue } }
      else s1 := by
  have durable : mapEntry (commitTaken s g (s.groups.queue ++ [takenEntry s g]) .sealed) (takenEntry s g).serial
      (fun e => { e with state := .durable }) =
        commitTaken s g (s.groups.queue ++ [takenDurable s g]) .sealed :=
    mapEntry_split (back := []) rfl hfresh (by simp) _
  have sealed : oldestSealed (commitTaken s g (s.groups.queue ++ [takenEntry s g]) .sealed) = some (takenEntry s g) :=
    oldestSealed_last rfl hsealed rfl
  have turn := tryAnswer_split (s := commitTaken s g (s.groups.queue ++ [takenDurable s g]) .sealed)
    (front := s.groups.queue) (back := []) (e := takenDurable s g) rfl hfresh (by simp)
  have due : (takenDurable s g).answerable = true ↔ (takenEntry s g).barrier = 0 := by
    simp [Entry.answerable, takenDurable, takenEntry, sealedEntry]
  have leaves : (takenDurable s g).leaves = true := by
    have : (takenDurable s g).slots = [] := hs
    simp [Entry.leaves, this]
  rw [writerLook_empty (s := commitTaken s g (s.groups.queue ++ [takenEntry s g]) .sealed) hm hw sealed hs, durable]
  simp only
  rw [show (takenEntry s g).serial = (takenDurable s g).serial from rfl, turn, if_congr due rfl rfl]
  split
  case isTrue hb =>
    rw [answeredOwed, if_pos (due.2 hb), if_pos leaves, writerLooks_none (by simpa using hsealed)]
    simp
  case isFalse hb =>
    refine writerLooks_none ?_ _
    have passed : (takenDurable s g).state ≠ .sealed := by simp [takenDurable]
    simpa [commitTaken, or_imp, forall_and, passed] using hsealed

end Commit

/-- Settles O21: a DOOMED record is answered at once, another group is sealed and the writer looks at it. -/
theorem commitAbortsOrSeals : Obligations.CommitAbortsOrSeals := by
  refine ⟨fun s g reason hr hg hk hd => ?doomed, fun s g hr hg hk hd => ?sealed⟩
  case doomed =>
    rw [Answers, exec_commit_ready hr hg hk, actCommit_doomed (by exact hd)]
    rfl
  case sealed =>
    intro slots serial barrier e table under nothingBefore length begun lines
    have runs : exec .commit s =
        .next (writerLook (commitTaken s g (s.groups.queue ++ [takenEntry s g]) .sealed)) := by
      rw [exec_commit_ready hr hg hk, actCommit_sealed (by exact hd), sealGroup_takeHead]
    have counted : (takenEntry s g).barrier = barrier := List.countP_eq_length_filter
    have entry : takenEntry s g = e := by
      rw [← show { takenEntry s g with barrier := barrier } = e from rfl, ← counted]
    have emptied (hs : slots = []) (staging : SlotState) : under staging = s.staging := by
      simp [under, hs]
    have begins (hb : nothingBefore) (hw : s.journal.writer = .idle) (hs : slots ≠ []) :=
      writerLook_begins (s := commitTaken s g (s.groups.queue ++ [takenEntry s g]) .sealed) hr hw
        (oldestSealed_last rfl hb.1 rfl) hs
    refine ⟨fun hw => ?busy, fun hw hb hs h0 => ?committed, fun hw hb hs h0 => ?durable, fun hw hb hs hl => ?fits,
      fun hw hb hs hl => ?waits⟩
    case busy =>
      rw [Answers, runs, writerLook_busy (by exact hw), entry]
      rfl
    case committed =>
      rw [Answers, runs, writerLook_commitTaken_empty hb.2 hr hw hb.1 hs, if_pos (counted.trans h0)]
      rw [← show under .sealed = s.staging from emptied hs .sealed]
      rfl
    case durable =>
      have owes : (takenEntry s g).barrier ≠ 0 := by omega
      rw [Answers, runs, writerLook_commitTaken_empty hb.2 hr hw hb.1 hs, if_neg owes, takenDurable, entry]
      rw [← show under .sealed = s.staging from emptied hs .sealed]
      rfl
    case fits =>
      rw [Answers, runs, begins hb hw hs, beginJournal_commitTaken hb.2, if_pos (by exact hl), enterWriting_commitTaken,
        takenBegun, entry]
      rfl
    case waits =>
      refine ⟨_, runs, ?_⟩
      rw [begins hb hw hs, beginJournal_commitTaken hb.2, if_neg (Nat.not_le.2 (by exact hl)), takenBegun, entry]
      have low : flagSet (setFlag (setWriter (commitTaken s g (s.groups.queue ++ [begun]) .journaling) .waitingSpace)
          .journalLow) .journalLow = true := flagged_set s.regs .journalLow
      by_cases hspan : 0 < s.journal.retiredSpan
      · simp only [if_pos hspan]
        rw [raiseTrigger_eq]
        exact ⟨rfl, rfl, rfl, low, fun h => absurd h hspan.ne', fun _ => raiseTrigger_inFlight _, rfl⟩
      · simp only [if_neg hspan]
        exact ⟨rfl, rfl, rfl, low, fun _ => ⟨rfl, rfl⟩, fun h => absurd h hspan, rfl⟩

end Sys2Proof.Machine

/-! PROOF. One write let go on: the first waiting write of a released line, and the first slot waiter (R34, R47, R48). -/

namespace Sys2Proof.Machine

/-! ## The buffer after a write has been staged (R27, R30) -/

/-- The slot with a number after a new version has entered a buffer that holds none of its number. -/
theorem find?_insertSlot {v : Slot} {vs : List Slot} (hv : ∀ u ∈ vs, u.num ≠ v.num) (n : Nat) :
    ((insertSlot v vs).find? fun u => u.num == n) = if v.num = n then some v else vs.find? fun u => u.num == n := by
  induction vs with
  | nil => by_cases h : v.num = n <;> simp [insertSlot, h]
  | cons u us ih =>
    rw [List.forall_mem_cons] at hv
    by_cases hn : v.num = n
    · have other : u.num ≠ n := hn ▸ hv.1
      rw [insertSlot]
      split
      · simp [hn]
      · rw [List.find?_cons_of_neg (by simpa using other), ih hv.2, if_pos hn]
    · rw [insertSlot]
      split
      · simp [hn]
      · rw [List.find?_cons, List.find?_cons, ih hv.2, if_neg hn]

section StageNew

variable {s : State} {h : HeldWrite} {c : Nat}

theorem ne_of_slotAt_eq_none (hc : slotAt s c = none) : ∀ u ∈ s.staging.slots, u.num ≠ c := by
  simpa [slotAt] using hc

/-- A FREE slot's number names no version. -/
theorem slotAt_of_freeSlot? (hc : freeSlot? s = some c) : slotAt s c = none := by
  have free := List.find?_some hc
  simp only [isFree, Bool.and_eq_true, Option.isNone_iff_eq_none] at free
  exact free.1

theorem slotAt_stageNew (hc : slotAt s c = none) (n : Nat) :
    slotAt (stageNew s h c) n = if c = n then some (newVersion h c) else slotAt s n :=
  find?_insertSlot (v := newVersion h c) (ne_of_slotAt_eq_none hc) n

theorem versions_stageNew (hc : slotAt s c = none) (l : Addr) :
    versions (stageNew s h c) l =
      ((s.staging.index ++ [IndexEntry.mk h.line c]).filter fun e => e.line == l).filterMap fun e =>
        if c = e.slot then some (newVersion h c) else slotAt s e.slot := by
  simp only [versions, slotAt_stageNew hc]
  rfl

/-- The line of a staged write is claimed. -/
theorem claimant_stageNew_isSome (hc : slotAt s c = none) : (claimant (stageNew s h c) h.line).isSome = true := by
  rw [claimant, List.findSome?_isSome_iff]
  refine ⟨newVersion h c, ?_, rfl⟩
  rw [versions_stageNew hc]
  simp

/-- The versions of other lines stay, when no line's list has the new version's slot. -/
theorem versions_stageNew_other (hc : slotAt s c = none) (hi : ∀ e ∈ s.staging.index, e.slot ≠ c) {l : Addr}
    (hl : l ≠ h.line) : versions (stageNew s h c) l = versions s l := by
  rw [versions_stageNew hc, versions, List.filter_append, List.filter_cons_of_neg (by simpa using hl.symm),
    List.filter_nil, List.append_nil]
  refine List.filterMap_congr fun e he => if_neg ?_
  exact (hi e (List.mem_of_mem_filter he)).symm

theorem openSlots_stageNew : openSlots (stageNew s h c) = openSlots s + 1 := by
  exact insertSlot_countP (fun v => v.state == .opened) (newVersion h c) s.staging.slots

/-- The record of another stream is not touched. -/
theorem recordOf_stageNew {st : Stream} (hst : h.stream ≠ st) : recordOf (stageNew s h c) st = recordOf s st :=
  (stageNew_elsewhere hst s c).record

theorem groupFull_congr {t : State} {st : Stream} (hr : recordOf t st = recordOf s st)
    (hg : t.regs.groupLimit = s.regs.groupLimit) : groupFull t st = groupFull s st := by
  rw [groupFull, groupFull, hr, hg]

theorem groupFull_stageNew {st : Stream} (hst : h.stream ≠ st) : groupFull (stageNew s h c) st = groupFull s st :=
  groupFull_congr (recordOf_stageNew hst) rfl

/-- With the last FREE slot taken, none is left. -/
theorem freeSlot?_stageNew (hc : slotAt s c = none) (hlast : ∀ n, n < 1024 → isFree s n = true → n = c) :
    freeSlot? (stageNew s h c) = none := by
  rw [freeSlot?, List.find?_eq_none]
  intro n hn hfree
  have slot := slotAt_stageNew (h := h) hc n
  rw [isFree, slot] at hfree
  by_cases hcn : c = n
  · simp [hcn] at hfree
  · rw [if_neg hcn] at hfree
    exact hcn (hlast n (List.mem_range.1 hn) hfree).symm

end StageNew

/-! ## The first waiting write of a released line (R47, R48) -/

/-- No waiting write is for a line: its re-examination changes nothing. -/
theorem reexamine_noneWaits {w : Work} {l : Addr} (h : ∀ r ∈ w.s.claims.waitList, r.write.line ≠ l) : reexamine w l = w := by
  have none : (w.s.claims.waitList.filter fun r => r.write.line == l) = [] := by
    simpa [List.filter_eq_nil_iff] using h
  rw [reexamine, none, List.foldl_nil]

/-- While a line is claimed, its waiting writes stay. -/
theorem foldl_reexamineOne_claimed {w : Work} {l : Addr} (hl : (claimant w.s l).isSome = true) (rs : List WaitRecord)
    (hrs : ∀ r ∈ rs, r.write.line = l) : rs.foldl reexamineOne w = w := by
  induction rs with
  | nil => rfl
  | cons r rs ih =>
    rw [List.forall_mem_cons] at hrs
    have stays : reexamineOne w r = w := by
      refine if_neg fun hn => ?_
      rw [hrs.1, Option.isNone_iff_eq_none] at hn
      rw [hn] at hl
      cases hl
    rw [List.foldl_cons, stays, ih hrs.2]

theorem reexamine_claimed {w : Work} {l : Addr} (hl : (claimant w.s l).isSome = true) : reexamine w l = w :=
  foldl_reexamineOne_claimed hl _ fun r hr => by simpa using List.of_mem_filter hr

/-- A line that nobody claims has no OPEN version of any stream. -/
theorem openVersion_of_unclaimed {s : State} {l : Addr} (hl : claimant s l = none) (st : Stream) :
    openVersion s st l = none := by
  rw [openVersion, List.find?_eq_none]
  intro v hv hopen
  rw [claimant, List.findSome?_eq_none_iff] at hl
  have claims := hl v hv
  simp only [Bool.and_eq_true, beq_iff_eq] at hopen
  obtain ⟨hstate, howner⟩ := hopen
  rw [Slot.claimant?, hstate, howner] at claims
  cases claims

/-- The first waiting write of a list, with the others of other streams, leaves it. -/
theorem leaveWaitList_first {s : State} {r : WaitRecord} {rs : List WaitRecord} (hl : s.claims.waitList = r :: rs)
    (ho : ∀ x ∈ rs, x.write.stream ≠ r.write.stream) :
    leaveWaitList s r.write.stream = { s with claims := { s.claims with waitList := rs } } := by
  have others : (rs.filter fun x => x.write.stream != r.write.stream) = rs := by
    simpa [List.filter_eq_self] using ho
  rw [leaveWaitList, hl, List.filter_cons_of_neg (by simp), others]

/-- What makes the first waiting write go on and every other one stay, in an event that has released lines. -/
structure FirstGoes (w : Work) (r : WaitRecord) (rs : List WaitRecord) (c : Nat) : Prop where
  list : w.s.claims.waitList = r :: rs
  line : r.write.line ∈ w.release
  unclaimed : claimant w.s r.write.line = none
  others : ∀ x ∈ rs, x.write.stream ≠ r.write.stream ∧ (x.write.line = r.write.line ∨ x.write.line ∉ w.release)
  record : groupFull w.s r.write.stream = false
  quota : openSlots w.s < 768
  slot : freeSlot? w.s = some c

section FirstGoes

variable {w : Work} {r : WaitRecord} {rs : List WaitRecord} {c : Nat}

/-- The part once that write has been staged. -/
def firstStaged (s : State) (r : WaitRecord) (rs : List WaitRecord) (c : Nat) : State :=
  stageNew { s with claims := { s.claims with waitList := rs } } r.write c

theorem claimant_firstStaged (h : FirstGoes w r rs c) :
    (claimant (firstStaged w.s r rs c) r.write.line).isSome = true :=
  claimant_stageNew_isSome (s := { w.s with claims := { w.s.claims with waitList := rs } }) (slotAt_of_freeSlot? h.slot)

/-- It passes the checks of R3 and is staged. -/
theorem fromCheck3_first (h : FirstGoes w r rs c) (release : List Addr) (freed : Bool) :
    fromCheck3 ⟨{ w.s with claims := { w.s.claims with waitList := rs } }, release, freed⟩ r.write =
      ⟨firstStaged w.s r rs c, release, freed⟩ := by
  generalize hs : ({ w.s with claims := { w.s.claims with waitList := rs } } : State) = s
  have full : groupFull s r.write.stream = false := hs ▸ h.record
  have quota : openSlots s < 768 := hs ▸ h.quota
  have slot : freeSlot? s = some c := hs ▸ h.slot
  have unclaimed : claimant s r.write.line = none := hs ▸ h.unclaimed
  rw [fromCheck3_none (w := ⟨s, release, freed⟩) (openVersion_of_unclaimed unclaimed r.write.stream),
    fromCheck4_staged (w := ⟨s, release, freed⟩) full quota slot, ← hs]
  rfl

/-- The re-examination of its line stages it and leaves the line's other writes. -/
theorem reexamine_first (h : FirstGoes w r rs c) {u : Work} (hu : u.s = w.s) :
    reexamine u r.write.line = { u with s := firstStaged w.s r rs c } := by
  have goes : reexamineOne u r = { u with s := firstStaged w.s r rs c } := by
    have turn : reexamineOne u r = fromCheck3 { u with s := leaveWaitList u.s r.write.stream } r.write :=
      if_pos (by rw [hu, h.unclaimed]; rfl)
    rw [turn, hu, leaveWaitList_first h.list fun x hx => (h.others x hx).1]
    exact fromCheck3_first h u.release u.freed
  have claimed := claimant_firstStaged h
  have first : (u.s.claims.waitList.filter fun x => x.write.line == r.write.line) =
      r :: rs.filter fun x => x.write.line == r.write.line := by
    rw [hu, h.list, List.filter_cons_of_pos (by simp)]
  generalize firstStaged w.s r rs c = t at goes claimed ⊢
  rw [reexamine, first, List.foldl_cons, goes]
  exact foldl_reexamineOne_claimed (w := { u with s := t }) claimed _ fun x hx => by simpa using List.of_mem_filter hx

/-- A further line of the release list changes nothing. -/
theorem reexamine_after (h : FirstGoes w r rs c) {u : Work} (hu : u.s = firstStaged w.s r rs c) {l : Addr}
    (hl : l ∈ w.release) : reexamine u l = u := by
  by_cases he : l = r.write.line
  · subst he
    exact reexamine_claimed (hu ▸ claimant_firstStaged h)
  · refine reexamine_noneWaits fun x hx hline => ?_
    rw [hu] at hx
    obtain hx' | hx' := (h.others x hx).2
    · exact he (hline ▸ hx')
    · exact hx' (hline ▸ hl)

/-- A line of the release list before it changes nothing. -/
theorem reexamine_before (h : FirstGoes w r rs c) {u : Work} (hu : u.s = w.s) {l : Addr} (hl : l ∈ w.release)
    (hne : l ≠ r.write.line) : reexamine u l = u := by
  refine reexamine_noneWaits fun x hx hline => ?_
  rw [hu, h.list, List.mem_cons] at hx
  obtain rfl | hx := hx
  · exact hne hline.symm
  · obtain hx' | hx' := (h.others x hx).2
    · exact hne (hline ▸ hx')
    · exact hx' (hline ▸ hl)

theorem foldl_reexamine_after (h : FirstGoes w r rs c) {u : Work} (hu : u.s = firstStaged w.s r rs c) {ls : List Addr}
    (hls : ∀ l ∈ ls, l ∈ w.release) : ls.foldl reexamine u = u := by
  induction ls with
  | nil => rfl
  | cons l ls ih =>
    rw [List.forall_mem_cons] at hls
    rw [List.foldl_cons, reexamine_after h hu hls.1, ih hls.2]

theorem foldl_reexamine_first (h : FirstGoes w r rs c) {u : Work} (hu : u.s = w.s) {ls : List Addr}
    (hls : ∀ l ∈ ls, l ∈ w.release) (hr : r.write.line ∈ ls) :
    ls.foldl reexamine u = { u with s := firstStaged w.s r rs c } := by
  induction ls with
  | nil => cases hr
  | cons l ls ih =>
    rw [List.forall_mem_cons] at hls
    rw [List.foldl_cons]
    by_cases he : l = r.write.line
    · rw [he, reexamine_first h hu, foldl_reexamine_after h rfl hls.2]
    · rw [reexamine_before h hu hls.1 he]
      exact ih hls.2 ((List.mem_cons.1 hr).resolve_left (Ne.symm he))

/-- The release list is worked through: the first waiting write is staged. -/
theorem settleReleases_first (h : FirstGoes w r rs c) :
    settleReleases w = { w with s := firstStaged w.s r rs c, release := [] } := by
  have some : w.release.isEmpty = false := by
    cases hw : w.release with
    | nil =>
      have := h.line
      simp [hw] at this
    | cons l ls => rfl
  have worked := foldl_reexamine_first h (u := { w with release := [] }) rfl (fun l hl => hl) h.line
  rw [settleReleases, releaseRounds, some, worked]
  simp only [h.list, List.length_cons, releaseRounds]
  rfl

end FirstGoes

/-! ## The first slot waiter (R34) -/

/-- What makes the first slot waiter go on and every other one stay, in a wake pass. -/
structure FirstWakes (s : State) (h : HeldWrite) (hs : List HeldWrite) (c : Nat) : Prop where
  list : s.staging.slotWait = h :: hs
  others : ∀ x ∈ hs, x.stream ≠ h.stream ∧ x.line ≠ h.line
  checks : ∀ x ∈ h :: hs, (claimant s x.line = none ∨ claimant s x.line = some x.stream)
    ∧ openVersion s x.stream x.line = none ∧ groupFull s x.stream = false
  quota : openSlots s < 767
  slot : freeSlot? s = some c
  unlisted : ∀ e ∈ s.staging.index, e.slot ≠ c
  last : ∀ n, n < 1024 → isFree s n = true → n = c

section FirstWakes

variable {s : State} {h : HeldWrite} {hs : List HeldWrite} {c : Nat}

theorem fromCheck2_wakes (k : FirstWakes s h hs c) {w : Work} (hw : w.s = s) :
    fromCheck2 w h = { w with s := stageNew s h c } := by
  obtain ⟨hclaim, hopen, hfull⟩ := k.checks h (List.mem_cons_self ..)
  subst hw
  rw [fromCheck2_free hclaim, fromCheck3_none hopen, fromCheck4_staged hfull (by have := k.quota; omega) k.slot]

theorem mem_slotStreams_stageNew (k : FirstWakes s h hs c) {x : HeldWrite} (hx : x ∈ hs) :
    inSlotWait (stageNew s h c) x.stream = true := by
  rw [inSlotWait_iff]
  refine List.mem_map.2 ⟨x, List.mem_filter.2 ⟨?_, by simpa using (k.others x hx).1⟩, rfl⟩
  exact (k.list ▸ List.mem_cons_of_mem h hx : x ∈ s.staging.slotWait)

theorem fromCheck2_stays (k : FirstWakes s h hs c) {w : Work} (hw : w.s = stageNew s h c) {x : HeldWrite} (hx : x ∈ hs) :
    fromCheck2 w x = w := by
  obtain ⟨hclaim, hopen, hfull⟩ := k.checks x (List.mem_cons_of_mem _ hx)
  obtain ⟨hstream, hline⟩ := k.others x hx
  have slot := slotAt_of_freeSlot? k.slot
  have vs := versions_stageNew_other (h := h) slot k.unlisted hline
  have claims : claimant (stageNew s h c) x.line = claimant s x.line := by rw [claimant, vs, claimant]
  have opens : openVersion (stageNew s h c) x.stream x.line = none := by rw [openVersion, vs]; exact hopen
  have full : groupFull (stageNew s h c) x.stream = false := by rw [groupFull_stageNew hstream.symm, hfull]
  have quota : openSlots (stageNew s h c) < 768 := by rw [openSlots_stageNew]; have := k.quota; omega
  obtain ⟨u, release, freed⟩ := w
  obtain rfl : u = stageNew s h c := hw
  have waits : joinSlotWait (stageNew s h c) x = stageNew s h c := if_pos (mem_slotStreams_stageNew k hx)
  have free : claimant (stageNew s h c) x.line = none ∨ claimant (stageNew s h c) x.line = some x.stream := by
    rwa [claims]
  have noSlot := freeSlot?_stageNew (h := h) slot k.last
  generalize stageNew s h c = t at *
  rw [fromCheck2_free (w := ⟨t, release, freed⟩) free, fromCheck3_none (w := ⟨t, release, freed⟩) opens,
    fromCheck4_noSlot (w := ⟨t, release, freed⟩) full quota noSlot, waits]

/-- The wake pass stages the first slot waiter, and the others find no FREE slot. -/
theorem wakePass_first {w : Work} (k : FirstWakes w.s h hs c) :
    wakePass w = { w with s := stageNew w.s h c, freed := false } := by
  have others (xs : List HeldWrite) (hxs : ∀ x ∈ xs, x ∈ hs) :
      xs.foldl fromCheck2 { w with s := stageNew w.s h c, freed := false } =
        { w with s := stageNew w.s h c, freed := false } := by
    induction xs with
    | nil => rfl
    | cons x xs ih =>
      rw [List.forall_mem_cons] at hxs
      rw [List.foldl_cons, fromCheck2_stays k rfl hxs.1, ih hxs.2]
  rw [wakePass, k.list, List.foldl_cons, fromCheck2_wakes k (w := { w with freed := false }) rfl]
  exact others hs fun x hx => hx

end FirstWakes

/-! ## The end of an event that lets one write go on -/

/-- Nothing is in the release list. -/
theorem settleReleases_nil {w : Work} (h : w.release = []) : settleReleases w = w := by
  rw [settleReleases, releaseRounds, h]
  rfl

/-- No waiting write is for a released line. -/
theorem settleReleases_noneWaits {w : Work} (h : ∀ r ∈ w.s.claims.waitList, r.write.line ∉ w.release) :
    settleReleases w = { w with release := [] } := by
  have nothing (ls : List Addr) (hls : ∀ l ∈ ls, l ∈ w.release) :
      ls.foldl reexamine { w with release := [] } = { w with release := [] } := by
    induction ls with
    | nil => rfl
    | cons l ls ih =>
      rw [List.forall_mem_cons] at hls
      rw [List.foldl_cons, reexamine_noneWaits (w := { w with release := [] }) fun r hr he => h r hr (he ▸ hls.1), ih hls.2]
  by_cases hw : w.release = []
  · rw [settleReleases_nil hw]
    obtain ⟨s, release, freed⟩ := w
    obtain rfl : release = [] := hw
    rfl
  · rw [settleReleases, releaseRounds, if_neg (by simpa using hw), nothing _ fun l hl => hl]
    cases w.s.claims.waitList <;> rfl

/-- An event that has freed nothing ends with its releases. -/
theorem settle_of_notFreed {w : Work} (h : (settleReleases w).freed = false) : settle w = (settleReleases w).s := by
  rw [settle, settlePasses]
  simp only [h]
  rfl

/-- An event that has freed a slot makes a wake pass, and ends when that frees and releases nothing. -/
theorem settle_of_freed {w : Work} (h : (settleReleases w).freed = true)
    (hf : (wakePass (settleReleases w)).freed = false) (hr : (wakePass (settleReleases w)).release = []) :
    settle w = (wakePass (settleReleases w)).s := by
  rw [settle, settlePasses]
  simp only [h, if_true]
  rw [settlePasses, settleReleases_nil hr]
  simp only [hf]
  rfl

/-- A wake pass with no slot waiter. -/
theorem wakePass_nil {w : Work} (h : w.s.staging.slotWait = []) : wakePass w = { w with freed := false } := by
  rw [wakePass, h]
  rfl

end Sys2Proof.Machine

/-! PROOF. A write that goes on, in the words of the statements (R34, R47, R48). -/

namespace Sys2Proof.Machine

/-! ## The statements' own words for a write that goes on -/

section Congr

variable {s t : State} (h : t.staging = s.staging)

include h

theorem claimant_congr (l : Addr) : claimant t l = claimant s l := by
  simp only [claimant, versions, slotAt, h]

theorem openVersion_congr (st : Stream) (l : Addr) : openVersion t st l = openVersion s st l := by
  simp only [openVersion, versions, slotAt, h]

theorem openSlots_congr : openSlots t = openSlots s := by
  simp only [openSlots, h]

theorem isFree_congr (n : Nat) : isFree t n = isFree s n := by
  simp only [isFree, slotAt, h]

theorem freeSlot?_congr : freeSlot? t = freeSlot? s := by
  simp only [freeSlot?, isFree_congr h]

end Congr

/-- A staged write: its record, the buffer without it among the slot waiters, its answer. -/
theorem stageNew_answers (s : State) (h : HeldWrite) (c : Nat) :
    stageNew s h c =
      { s with
        fabric := fabricReplied s (stagedAnswer h)
        groups := { s.groups with table := s.groups.table.write h.stream (recordStaged s h c) }
        staging :=
          { stagingStaged s.staging h c with slotWait := s.staging.slotWait.filter fun x => x.stream != h.stream } } := by
  have record : restarted (addVersion s (newVersion h c)) ((recordOf s h.stream).slots ++ [c]) (recordOf s h.stream) =
      recordStaged s h c := by
    unfold recordStaged
    cases recordOf s h.stream <;> rfl
  rw [stageNew, show recordOf (addVersion s (newVersion h c)) h.stream = recordOf s h.stream from rfl]
  simp only [record]
  rfl

theorem recordStaged_congr {s t : State} {h : HeldWrite} (hr : recordOf t h.stream = recordOf s h.stream)
    (hi : t.regs.idleTimeout = s.regs.idleTimeout) (hn : t.now = s.now) (c : Nat) : recordStaged t h c = recordStaged s h c := by
  rw [recordStaged, recordStaged, hr, hi, hn]

theorem mem_unclaimed {s : State} {ls : List Addr} {l : Addr} : l ∈ unclaimed s ls ↔ l ∈ ls ∧ claimant s l = none := by
  simp [unclaimed]

section GoesOn

variable {s a : State} {w : Work} {lines : List Addr} {c : Nat}

/-- The first waiting write of a released line goes on, in the words of the statements. -/
theorem FirstGoes.of_released {r : WaitRecord} {rs : List WaitRecord} (k : Released s a lines r rs c)
    (hstaging : w.s.staging = a.staging) (hwait : w.s.claims.waitList = s.claims.waitList)
    (hrecord : recordOf w.s r.write.stream = recordOf s r.write.stream) (hlimit : w.s.regs.groupLimit = s.regs.groupLimit)
    (hrelease : w.release = Machine.unclaimed w.s lines) : FirstGoes w r rs c where
  list := hwait.trans k.list
  line := hrelease ▸ mem_unclaimed.2 ⟨k.line, (claimant_congr hstaging _).trans k.unclaimed⟩
  unclaimed := (claimant_congr hstaging _).trans k.unclaimed
  others x hx := ⟨(k.others x hx).1, (k.others x hx).2.imp id fun hn hm => hn (mem_unclaimed.1 (hrelease ▸ hm)).1⟩
  record := (groupFull_congr hrecord hlimit).trans k.record.2
  quota := (openSlots_congr hstaging).trans_lt k.quota
  slot := (freeSlot?_congr hstaging).trans k.slot

/-- The first slot waiter goes on, in the words of the statements. -/
theorem FirstWakes.of_woken {h : HeldWrite} {hs : List HeldWrite} {u : State} (k : Woken s a lines h hs c)
    (hstaging : u.staging = a.staging) (hlist : u.staging.slotWait = s.staging.slotWait)
    (hrecord : ∀ x ∈ h :: hs, recordOf u x.stream = recordOf s x.stream)
    (hlimit : u.regs.groupLimit = s.regs.groupLimit) : FirstWakes u h hs c where
  list := hlist.trans k.list
  others := k.others
  checks x hx := by
    obtain ⟨hclaim, hopen, -, hfull⟩ := k.checks x hx
    exact ⟨by rwa [claimant_congr hstaging], (openVersion_congr hstaging _ _).trans hopen,
      (groupFull_congr (hrecord x hx) hlimit).trans hfull⟩
  quota := (openSlots_congr hstaging).trans_lt k.quota
  slot := (freeSlot?_congr hstaging).trans k.slot
  unlisted e he := k.unlisted e (hstaging ▸ he)
  last n hn hfree := k.last n hn ((isFree_congr hstaging n).symm.trans hfree)

/-- The end of an event that lets the first waiting write go on, with no slot waiter. -/
theorem settle_first {r : WaitRecord} {rs : List WaitRecord} (k : FirstGoes w r rs c) (hs : w.s.staging.slotWait = []) :
    settle w = firstStaged w.s r rs c := by
  have released := settleReleases_first k
  have noWaiters : (firstStaged w.s r rs c).staging.slotWait = [] := by
    simp [firstStaged, stageNew_answers, hs]
  generalize firstStaged w.s r rs c = t at released noWaiters ⊢
  cases hf : w.freed with
  | false => rw [settle_of_notFreed (by rw [released]; exact hf), released]
  | true =>
    have wake : wakePass (settleReleases w) = { w with s := t, release := [], freed := false } := by
      rw [released]
      exact wakePass_nil (w := { w with s := t, release := [] }) noWaiters
    rw [settle_of_freed (by rw [released]; exact hf) (by rw [wake]) (by rw [wake]), wake]

/-- The end of an event that lets the first slot waiter go on, with no waiting write for a released line. -/
theorem settle_wakes {h : HeldWrite} {hs : List HeldWrite} (k : FirstWakes w.s h hs c) (hf : w.freed = true)
    (hr : ∀ r ∈ w.s.claims.waitList, r.write.line ∉ w.release) : settle w = stageNew w.s h c := by
  have released := settleReleases_noneWaits hr
  have wake : wakePass (settleReleases w) = { w with s := stageNew w.s h c, release := [], freed := false } := by
    rw [released]
    exact wakePass_first (w := { w with release := [] }) k
  generalize stageNew w.s h c = t at wake ⊢
  rw [settle_of_freed (by rw [released]; exact hf) (by rw [wake]) (by rw [wake]), wake]

end GoesOn

end Sys2Proof.Machine

/-! PROOF. DISCARD (R13). -/

namespace Sys2Proof.Machine

/-! ## DISCARD (R13) -/

/-- The part after a DISCARD's answer and the abort of its group's versions. -/
def discarded (s : State) (g : Grant) : State :=
  { s with
    fabric := fabricAnswered s g.stream (plainAnswer g.stream g.req.tag .ok)
    wires := creditSignalled s g.stream
    groups := { s.groups with table := s.groups.table.write g.stream .absent }
    staging := stagingAborted s.staging (recordOf s g.stream).slots }

/-- The work of a DISCARD before its event ends. -/
def discardWork (s : State) (g : Grant) : Work :=
  abortVersions
    (Work.start (setRecord (answerTaken (takeHead s g.stream) (plainAnswer g.stream g.req.tag .ok)) g.stream .absent))
    (recordOf s g.stream).slots

section Discard

variable {s : State} {g : Grant}

theorem exec_discard_ready (hr : s.modes.mode = .ready) (hg : takeGrant s = some g) (hk : g.req.kind = .discard) :
    exec .discard s = .next (settle (discardWork s g)) :=
  congrArg Host.Outcome.next (takeOf_ready .discard actDiscard hr hg hk)

theorem discardWork_s (s : State) (g : Grant) : (discardWork s g).s = discarded s g := rfl

theorem discardWork_release (s : State) (g : Grant) :
    (discardWork s g).release = unclaimed (discardWork s g).s (linesReleased s (recordOf s g.stream).slots) := rfl

theorem discardWork_freed (h : (stagingAborted s.staging (recordOf s g.stream).slots).slots.length < s.staging.slots.length) :
    (discardWork s g).freed = true := by
  have freed : (discardWork s g).freed =
      (false || decide ((stagingAborted s.staging (recordOf s g.stream).slots).slots.length < s.staging.slots.length)) := rfl
  rw [freed, decide_eq_true h, Bool.or_true]

theorem recordOf_discarded {st : Stream} (hst : st ≠ g.stream) : recordOf (discarded s g) st = recordOf s st := by
  simp [recordOf, discarded, hst.symm]

/-- A write that the DISCARD lets go on, of another stream: its answer is behind the DISCARD's own. -/
theorem stageNew_discarded {t : State} {h : HeldWrite} {c : Nat} (ht : t.fabric = (discarded s g).fabric)
    (hg : t.groups = (discarded s g).groups) (hr : t.regs = s.regs) (hn : t.now = s.now) (hst : h.stream ≠ g.stream) :
    stageNew t h c =
      { t with
        fabric :=
          { fabricAnswered s g.stream (plainAnswer g.stream g.req.tag .ok) with
            egress := s.fabric.egress ++ [plainAnswer g.stream g.req.tag .ok, stagedAnswer h]
            takenUnanswered := s.fabric.takenUnanswered - 1 }
        groups :=
          { s.groups with
            table := (s.groups.table.write g.stream .absent).write h.stream (recordStaged s h c) }
        staging :=
          { stagingStaged t.staging h c with slotWait := t.staging.slotWait.filter fun x => x.stream != h.stream } } := by
  have record : recordOf t h.stream = recordOf s h.stream := by
    rw [recordOf, hg]
    exact recordOf_discarded hst
  have egress : s.fabric.egress ++ [plainAnswer g.stream g.req.tag .ok, stagedAnswer h] =
      (discarded s g).fabric.egress ++ [stagedAnswer h] := List.append_cons ..
  rw [stageNew_answers, recordStaged_congr record (congrArg Regs.idleTimeout hr) hn, fabricReplied, ht, hg, egress]
  rfl

end Discard

/-- Settles O22: the stream's own answer, then the first held write that the abort lets go on. -/
theorem discardClearsTheRecord : Obligations.DiscardClearsTheRecord := by
  intro s g hr hg hk slots ok table aborted after
  obtain ⟨hwait, hslot⟩ := takeGrant_notHeld hr hg
  have runs := exec_discard_ready hr hg hk
  refine ⟨fun hnone => ?nothing, ⟨_, runs, ?kept⟩, fun r rs c hs k => ?first, fun h hs c k => ?wakes⟩
  case nothing =>
    have ends : settle (discardWork s g) = discarded s g := by
      obtain hnil | hnone := hnone
      · have hslots : (recordOf s g.stream).slots = [] := hnil
        rw [← discardWork_s, discardWork, hslots, abortVersions_nil]
        exact settle_nothing _ _ rfl
      · exact settle_noneHeld (discardWork s g) hnone.1 hnone.2
    rw [Answers, runs, ends]
    rfl
  case kept =>
    have quiet := settle_quiet (discardWork s g)
    obtain ⟨record, -, -⟩ := settle_elsewhere (st := g.stream) (w := discardWork s g)
      (by rw [discardWork_s, ← inWaitList_iff, Bool.not_eq_true]; exact hwait)
      (by rw [discardWork_s, ← inSlotWait_iff, Bool.not_eq_true]; exact hslot)
    rw [discardWork_s] at quiet record
    exact ⟨quiet.egress, record.trans (by simp [recordOf, discarded]), quiet.queue, quiet.posted, quiet.reads,
      quiet.journal, quiet.media, quiet.modes, quiet.committed, quiet.lost⟩
  case first =>
    have other : r.write.stream ≠ g.stream := fun he => by
      rw [inWaitList_eq_false_iff] at hwait
      exact hwait r (k.list ▸ List.mem_cons_self ..) he
    have goes : FirstGoes (discardWork s g) r rs c :=
      .of_released k rfl rfl (recordOf_discarded other) rfl (discardWork_release s g)
    have noWaiters : (discarded s g).staging.slotWait.filter (fun x => x.stream != r.write.stream) =
        (discarded s g).staging.slotWait := by
      rw [show (discarded s g).staging.slotWait = [] from hs]
      rfl
    have staged := stageNew_discarded (s := s) (t := { discarded s g with claims := { s.claims with waitList := rs } })
      (c := c) rfl rfl rfl rfl other
    rw [Answers, runs, settle_first goes hs]
    refine congrArg Host.Outcome.next (staged.trans ?_)
    simp only [noWaiters]
    rfl
  case wakes =>
    have other (x : HeldWrite) (hx : x ∈ h :: hs) : x.stream ≠ g.stream := fun he => by
      rw [inSlotWait_eq_false_iff] at hslot
      exact hslot x (k.list ▸ hx) he
    have wakes : FirstWakes (discardWork s g).s h hs c :=
      .of_woken k rfl rfl (fun x hx => recordOf_discarded (other x hx)) rfl
    have noRelease (r : WaitRecord) (hr : r ∈ s.claims.waitList) : r.write.line ∉ (discardWork s g).release := fun hm => by
      rw [discardWork_release, mem_unclaimed] at hm
      exact k.noRelease r hr hm.1
    have rest : (discarded s g).staging.slotWait.filter (fun x => x.stream != h.stream) = hs := by
      rw [show (discarded s g).staging.slotWait = h :: hs from k.list, List.filter_cons_of_neg (by simp)]
      exact List.filter_eq_self.2 fun x hx => by simpa using (k.others x hx).1
    rw [Answers, runs, settle_wakes wakes (discardWork_freed k.freed) noRelease, discardWork_s,
      stageNew_discarded rfl rfl rfl rfl (other h (List.mem_cons_self ..))]
    simp only [rest]
    rfl

end Sys2Proof.Machine

/-! PROOF. The expiry of deadlines (R9, R46). -/

namespace Sys2Proof.Machine

/-! ## The expiry of deadlines (R9, R46) -/

section Expiry

variable {s : State} {st : Stream}

theorem exec_idleExpiry_due (h : idleExpired s st = true) :
    exec (.idleExpiry st) s =
      .next (settle { doom (Work.start s) st .idle with s := abortHeldOf (doom (Work.start s) st .idle).s st .idle }) :=
  congrArg Host.Outcome.next (if_pos h)

theorem exec_idleExpiry_undue (h : idleExpired s st = false) : exec (.idleExpiry st) s = .next s :=
  congrArg Host.Outcome.next (if_neg (by simp [h]))

theorem idleExpired_opened {slots : List Nat} {d : Nat} (hr : recordOf s st = .opened slots (some d)) :
    idleExpired s st = decide (d ≤ s.now / 1000) := by
  simp only [idleExpired, hr]
  rfl

theorem idleExpired_eq_false (h : ∀ slots d, recordOf s st = .opened slots (some d) → s.now / 1000 < d) :
    idleExpired s st = false := by
  unfold idleExpired
  split
  case h_1 slots d hr =>
    have early := h slots d hr
    exact decide_eq_false (Nat.not_le.2 (by exact early))
  case h_2 | h_3 | h_4 => rfl

/-- The held write of a stream is answered and leaves its list. -/
theorem abortHeldOf_some {h : HeldWrite} (hh : heldOf s st = some h) (reason : Reason) :
    abortHeldOf s st reason = answerHeldAborted reason (leaveSlotWait (leaveWaitList s st) st) h := by
  simp only [abortHeldOf, hh]

theorem abortHeldOf_none (hh : heldOf s st = none) (reason : Reason) : abortHeldOf s st reason = s := by
  simp only [abortHeldOf, hh]

theorem exec_conflictExpiry_some {r : WaitRecord} (h : conflictExpired s st = some r) :
    exec (.conflictExpiry st) s = .next (settle (refuseWrite (Work.start (leaveWaitList s st)) r.write .conflict)) := by
  change execConflictExpiry st s = _
  simp only [execConflictExpiry, h]

theorem exec_conflictExpiry_none (h : conflictExpired s st = none) : exec (.conflictExpiry st) s = .next s := by
  change execConflictExpiry st s = _
  simp only [execConflictExpiry, h]

end Expiry

/-- A write that is refused leaves the slot wait, its group is doomed and it is answered (R4). -/
theorem refuseWrite_dooms {w : Work} {h : HeldWrite} (hd : isDoomed w.s h.stream = false) (reason : DoomReason) :
    (refuseWrite w h reason).s =
      answerTaken (doomedState (leaveSlotWait w.s h.stream) h.stream reason)
        (abortedAnswer h.stream h.tag reason.reason) := by
  rw [refuseWrite]
  simp only [doom_state (w := { w with s := leaveSlotWait w.s h.stream }) (by exact hd)]

/-- Settles O23: the doom and the held write's answer, then what the doom lets go on. -/
theorem expiriesDoomGroups : Obligations.ExpiriesDoomGroups := by
  refine ⟨fun s st => ⟨fun h => exec_idleExpiry_undue (idleExpired_eq_false h), fun slots d hr hd => ?idle⟩,
    fun s st => ⟨fun h => exec_conflictExpiry_none (by simpa [conflictExpired] using h), fun r hfind hd => ?conflict⟩⟩
  case idle =>
    have runs := exec_idleExpiry_due ((idleExpired_opened hr).trans (decide_eq_true hd))
    have state : (doom (Work.start s) st .idle).s = doomedState s st .idle := doom_state (isDoomed_eq_false (.inl hr)) .idle
    have notHeld {u : State} (hu : heldWrites u = heldWrites s) (hn : ∀ h ∈ heldWrites s, h.stream ≠ st) :
        abortHeldOf u st .idle = u := abortHeldOf_none (by simpa [heldOf, hu] using hn) .idle
    generalize doom (Work.start s) st .idle = w at runs state
    refine ⟨fun hnone => ?_, fun hwait hslot => ⟨_, runs, ?_⟩, fun h hh => ⟨_, runs, ?_⟩⟩
    · rw [notHeld (by rw [state]; rfl) (by simp [heldWrites, hnone.1, hnone.2])] at runs
      rw [Answers, runs, settle_noneHeld w (by rw [state]; exact hnone.1) (by rw [state]; exact hnone.2), state,
        doomedState, hr]
      rfl
    · have none : ∀ h ∈ heldWrites s, h.stream ≠ st := by
        simpa [heldWrites, or_imp, forall_and] using ⟨hwait, hslot⟩
      rw [notHeld (by rw [state]; rfl) none]
      obtain ⟨egress, record, -, flag, queue, posted, reads, journal, media, -⟩ := settle_of_doomed (w := w)
        (by rw [state]; exact .rfl' _) (by rw [state]; exact recordOf_doomedState _ _ _)
        (by rw [state]; exact (not_mem_waitStreams_iff s st).2 hwait)
        (by rw [state]; exact (not_mem_slotStreams_iff s st).2 hslot)
      rw [state] at egress
      exact ⟨egress, record, flag, queue, posted, reads, journal, media⟩
    · have stream : h.stream = st := by simpa using List.find?_some hh
      have held : heldOf w.s st = some h := by rw [state]; exact hh
      rw [abortHeldOf_some held, state, answerHeldAborted, stream]
      obtain ⟨egress, record, ⟨wait, slot⟩, flag, queue, posted, reads, journal, media, -⟩ := settle_of_doomed (s := s)
        (w := { w with
          s := answerTaken (leaveSlotWait (leaveWaitList (doomedState s st .idle) st) st) (abortedAnswer st h.tag .idle) })
        (((leaveWaitList_quiet _ st).trans (leaveSlotWait_quiet _ st)).trans (answerTaken_quiet _ _))
        (recordOf_doomedState s st .idle) (not_mem_waitStreams_leave _ _) (not_mem_slotStreams_leave _ _)
      exact ⟨egress, record, (not_mem_waitStreams_iff _ _).1 wait, (not_mem_slotStreams_iff _ _).1 slot, flag, queue,
        posted, reads, journal, media⟩
  case conflict =>
    have stream : r.write.stream = st := by
      have := List.find?_some hfind
      rw [Bool.and_eq_true] at this
      simpa using this.1
    subst stream
    have runs := exec_conflictExpiry_some hfind
    have state : (refuseWrite (Work.start (leaveWaitList s r.write.stream)) r.write .conflict).s =
        answerTaken (doomedState (leaveSlotWait (leaveWaitList s r.write.stream) r.write.stream) r.write.stream .conflict)
          (abortedAnswer r.write.stream r.write.tag .conflict) := refuseWrite_dooms hd .conflict
    generalize refuseWrite (Work.start (leaveWaitList s r.write.stream)) r.write .conflict = w at runs state
    refine ⟨⟨_, runs, ?_⟩, fun hwait hslot => ?_⟩
    · obtain ⟨egress, record, ⟨wait, slot⟩, flag, queue, posted, reads, journal, media, -⟩ := settle_of_doomed (w := w)
        (by rw [state]; exact answerTaken_quiet _ _) (by rw [state]; exact recordOf_doomedState _ _ _)
        (by rw [state]; exact not_mem_waitStreams_leave s _) (by rw [state]; exact not_mem_slotStreams_leave _ _)
      rw [state] at egress
      exact ⟨egress, record, (not_mem_waitStreams_iff _ _).1 wait, (not_mem_slotStreams_iff _ _).1 slot, flag, queue,
        posted, reads, journal, media⟩
    · have left := leaveWaitList_first hwait (by simp)
      have slots (t : State) (ht : t.staging = s.staging) : leaveSlotWait t r.write.stream = t :=
        leaveSlotWait_absent (by simp [inSlotWait, ht, hslot])
      rw [slots (leaveWaitList s r.write.stream) rfl, left] at state
      rw [Answers, runs, settle_noneHeld w (by rw [state]; rfl) (by rw [state]; exact hslot), state]
      rfl

end Sys2Proof.Machine

/-! PROOF. MEDIA_ISSUE (R153, R155, R63, R70, R73). -/

namespace Sys2Proof.Machine

/-! ## MEDIA_ISSUE (R153, R155) -/

/-- The lowest FREE tag (R153). -/
theorem freeTag?_eq {s : State} {t : MediaTag} (hfree : ∀ q ∈ s.media.requests, q.tag? ≠ some t)
    (hlow : ∀ u < t, ∃ q ∈ s.media.requests, q.tag? = some u) : freeTag? s = some t := by
  rw [freeTag?, List.find?_eq_some_iff_getElem]
  refine ⟨by simpa [tagRecord] using hfree, t.val, by simp, by simp, fun j hj => ?_⟩
  obtain ⟨q, hq, htag⟩ := hlow ⟨j, by omega⟩ hj
  simpa [tagRecord] using ⟨q, hq, htag⟩

section Issue

variable {s : State} {g : MediaGrant} {r : MediaReq} {t : MediaTag} {n : Nat}

theorem exec_mediaIssue_none (hg : mediaGrant s = none) : exec .mediaIssue s = .next s := by
  change execMediaIssue s = _
  simp only [execMediaIssue, hg]

theorem exec_mediaIssue (hg : mediaGrant s = some g) (hr : s.media.requests[g.place]? = some r) :
    exec .mediaIssue s = .next (issueGranted s g r) := by
  change execMediaIssue s = _
  simp only [execMediaIssue, hg, hr]

theorem issueGranted_again (hs : r.state = .retryWait t n) :
    issueGranted s g r = sendRequest (setArbiter s g) g.place r t n := by
  simp [issueGranted, issueTag, MediaReq.outstanding, MediaReq.tag?, hs]

theorem issueGranted_first (hs : r.state = .ready) (ht : freeTag? s = some t) :
    issueGranted s g r = afterFirstIssue (sendRequest (setArbiter s g) g.place r t 0) r.requester := by
  simp [issueGranted, issueTag, MediaReq.outstanding, MediaReq.tag?, hs, ht]

/-- A background requester is not told of the issue. -/
theorem afterFirstIssue_background {who : Requester} (h : who.priority.isSome = true) : afterFirstIssue s who = s := by
  cases who <;> first | rfl | cases h

/-- An issue changes no requester. -/
theorem anyRequest_sendRequest (hr : s.media.requests[g.place]? = some r) (p : Requester → Bool) :
    anyRequest (sendRequest (setArbiter s g) g.place r t n) p = anyRequest s p := by
  obtain ⟨hi, rfl⟩ := List.getElem?_eq_some_iff.1 hr
  have same : (sendRequest (setArbiter s g) g.place s.media.requests[g.place] t n).media.requests.map MediaReq.requester =
      s.media.requests.map MediaReq.requester := by
    refine List.ext_getElem (by simp [sendRequest, setArbiter]) fun j _ _ => ?_
    by_cases hj : g.place = j
    · subst hj
      simp [sendRequest, setArbiter]
    · simp [sendRequest, setArbiter, List.getElem_set_ne hj]
  have names (u : State) : anyRequest u p = (u.media.requests.map MediaReq.requester).any p := List.any_map.symm
  rw [names, names, same]

/-- The next posted record once record `p` has been issued (R63). -/
theorem postedHead_markPostedIssued (s : State) (serial : Serial) :
    postedHead (markPostedIssued s serial) = s.posted.records.find? fun q => !q.issued && q.serial != serial := by
  rw [postedHead, markPostedIssued]
  simp only [List.find?_map]
  have test (q : PostedRecord) : (!(if q.serial = serial then { q with issued := true } else q).issued) =
      (!q.issued && q.serial != serial) := by
    by_cases h : q.serial = serial <;> simp [h]
  simp only [Function.comp_def, test]
  cases hf : s.posted.records.find? fun q => !q.issued && q.serial != serial with
  | none => rfl
  | some q =>
    have other := List.find?_some hf
    rw [Bool.and_eq_true, bne_iff_ne] at other
    rw [Option.map_some, if_neg other.2]

theorem mem_insertBySerial {x : Serial × MediaReq} {xs : List (Serial × MediaReq)} {y : Serial × MediaReq} :
    y ∈ insertBySerial x xs ↔ y = x ∨ y ∈ xs := by
  induction xs with
  | nil => simp [insertBySerial]
  | cons z zs ih =>
    rw [insertBySerial]
    split
    · simp
    · rw [List.mem_cons, ih, List.mem_cons, or_left_comm]

/-- What a posted write's issue makes ready (R63, R73). -/
theorem mem_readyAfterPosted (s : State) (p : PostedRecord) (m : MediaReq) :
    m ∈ readyAfterPosted s p ↔
      (∃ e ∈ s.reads, e.heldBehind p = true ∧ e.hold = 1 ∧ m = homeReadRequest e)
        ∨ ∃ q, postedHead s = some q ∧ m = postedRequest q := by
  have reads : (∃ x, x ∈ ((s.reads.filter fun e => e.heldBehind p && e.hold == 1).map fun e =>
      (e.serial, homeReadRequest e)) ∧ x.2 = m) ↔
        ∃ e ∈ s.reads, e.heldBehind p = true ∧ e.hold = 1 ∧ m = homeReadRequest e := by
    simp [and_assoc, eq_comm (a := m)]
  rw [readyAfterPosted, List.mem_map]
  cases postedHead s with
  | none => simpa using reads
  | some q =>
    simp only [mem_insertBySerial, or_and_right, exists_or, exists_eq_left, reads, Option.some.injEq, exists_eq_left']
    rw [or_comm, eq_comm (a := m)]

theorem heldBehind_iff (e : TrackerEntry) (p : PostedRecord) :
    e.heldBehind p = true ↔ e.kind = .plain ∧ e.line = p.line ∧ 0 < e.hold ∧ serialBefore p.serial e.serial = true := by
  simp [TrackerEntry.heldBehind, and_assoc]

theorem lowerHold_eq (p : PostedRecord) (e : TrackerEntry) :
    lowerHold p e =
      if e.kind = .plain ∧ e.line = p.line ∧ 0 < e.hold ∧ serialBefore p.serial e.serial = true then
        { e with hold := e.hold - 1 }
      else e := by
  rw [lowerHold, if_congr (heldBehind_iff e p) rfl rfl]

/-- No line of a relocation is at the port. -/
theorem anyRequest_relocLine_eq_false (s : State) :
    anyRequest s Requester.isRelocLine = false ↔ ∀ q ∈ s.media.requests, q.requester ≠ .relocLine := by
  rw [anyRequest, List.any_eq_false]
  refine forall₂_congr fun q _ => ?_
  cases q.requester <;> simp [Requester.isRelocLine]

/-- What a posted write's issue makes ready is no line of a relocation. -/
theorem any_readyAfterPosted_relocLine (s : State) (p : PostedRecord) :
    (readyAfterPosted s p).any (fun m => m.requester.isRelocLine) = false := by
  rw [List.any_eq_false]
  intro m hm
  obtain ⟨e, -, -, -, rfl⟩ | ⟨q, -, rfl⟩ := (mem_readyAfterPosted s p m).1 hm
  · exact Bool.false_ne_true
  · exact Bool.false_ne_true

/-- The clearing lines that a posted write's issue hands over, if any (R134). -/
theorem releaseClearing_eq (s : State) :
    releaseClearing s =
      handOver s (if clearingWaits s = true ∧ targetUnissued s = false then clearingLines .relocLine s.reloc.target else []) := by
  have nothing : handOver s [] = s := by simp [handOver]
  rw [releaseClearing, handClearing]
  cases clearingWaits s <;> cases targetUnissued s <;> simp [nothing]

/-- The part after a posted write's issue has been recorded with it and with the reads behind it. -/
def issueReported (s : State) (p : PostedRecord) : State :=
  { markPostedIssued s p.serial with reads := s.reads.map (lowerHold p) }

/-- Whether the clearing lines that wait are handed over, before and after a posted write's issue (R134). -/
theorem clearing_due_iff {p : PostedRecord} {rs : List MediaReq} (hrs : rs.any (fun m => m.requester.isRelocLine) = false) :
    (clearingWaits (handOver (issueReported s p) rs) = true ∧ targetUnissued (handOver (issueReported s p) rs) = false) ↔
      s.reloc.state = .formattingNew .clearing false ∧ anyRequest s Requester.isRelocLine = false
        ∧ ∀ q ∈ s.posted.records, q.issued = false → q.serial ≠ p.serial → s.reloc.target.contains q.line = false := by
  have lines : anyRequest (handOver (issueReported s p) rs) Requester.isRelocLine = anyRequest s Requester.isRelocLine := by
    rw [anyRequest, anyRequest, show (handOver (issueReported s p) rs).media.requests = s.media.requests ++ rs from rfl,
      List.any_append, hrs, Bool.or_false]
  have unissued : targetUnissued (handOver (issueReported s p) rs) = false ↔
      ∀ q ∈ s.posted.records, q.issued = false → q.serial ≠ p.serial → s.reloc.target.contains q.line = false := by
    have records : (handOver (issueReported s p) rs).posted.records =
        s.posted.records.map fun q => if q.serial = p.serial then { q with issued := true } else q := rfl
    rw [targetUnissued, records, List.any_map, List.any_eq_false]
    refine forall₂_congr fun q _ => ?_
    by_cases hq : q.serial = p.serial <;> simp [hq]
    rfl
  rw [clearingWaits, lines, unissued, Bool.and_eq_true, beq_iff_eq, Bool.not_eq_true', and_assoc]
  rfl

/-- The clearing lines that a posted write's issue hands over: all of them, when they waited for it alone (R134). -/
def clearingAfter (s : State) (p : PostedRecord) : List MediaReq :=
  if s.reloc.state = .formattingNew .clearing false ∧ anyRequest s Requester.isRelocLine = false
      ∧ ∀ q ∈ s.posted.records, q.issued = false → q.serial ≠ p.serial → s.reloc.target.contains q.line = false then
    clearingLines .relocLine s.reloc.target
  else []

/-- What a posted write's issue is told (R63, R73, R134). -/
theorem reportIssue_eq {p : PostedRecord} (hp : postedAt s p.serial = some p) :
    reportIssue s p.serial =
      { s with
        posted := (markPostedIssued s p.serial).posted
        reads := s.reads.map (lowerHold p)
        media :=
          { s.media with
            requests := s.media.requests ++ readyAfterPosted (markPostedIssued s p.serial) p
              ++ clearingAfter s p } } := by
  have turn : reportIssue s p.serial =
      releaseClearing (handOver (issueReported s p) (readyAfterPosted (markPostedIssued s p.serial) p)) := by
    simp only [reportIssue, hp]
    rfl
  rw [turn, releaseClearing_eq, if_congr (clearing_due_iff (any_readyAfterPosted_relocLine _ _)) rfl rfl]
  rfl

end Issue

/-- Settles O24: the grant's request is sent, and a first issue is told to its requester. -/
theorem mediaIssueSendsTheGrantedRequest : Obligations.MediaIssueSendsTheGrantedRequest := by
  intro s g r hg hr issue sent lowestFree clearing
  have runs := exec_mediaIssue hg hr
  refine ⟨fun t n hs => ?again, fun t hs hfree => ?first⟩
  case again =>
    rw [Answers, runs, issueGranted_again hs]
    rfl
  case first =>
    have runs := runs.trans (congrArg Host.Outcome.next (issueGranted_first hs (freeTag?_eq hfree.1 hfree.2)))
    refine ⟨fun hback => ?_, fun serial hread => ?_, fun p hposted hp => ?_⟩
    · rw [Answers, runs, afterFirstIssue_background hback]
      rfl
    · rw [Answers, runs, hread]
      rfl
    · have sends := anyRequest_sendRequest (t := t) (n := 0) hr Requester.isRelocLine
      rw [hposted, afterFirstIssue, reportIssue_eq (by exact hp)] at runs
      have lines : clearingAfter (sendRequest (setArbiter s g) g.place r t 0) p = clearing p.serial :=
        if_congr (and_congr_right fun _ => and_congr_left fun _ => by
          rw [anyRequest_sendRequest hr]
          exact anyRequest_relocLine_eq_false s) rfl rfl
      rw [lines] at runs
      have head : postedHead (markPostedIssued (sendRequest (setArbiter s g) g.place r t 0) p.serial) =
          s.posted.records.find? fun q => !q.issued && q.serial != p.serial := postedHead_markPostedIssued _ _
      have batch := mem_readyAfterPosted (markPostedIssued (sendRequest (setArbiter s g) g.place r t 0) p.serial) p
      rw [head] at batch
      generalize readyAfterPosted (markPostedIssued (sendRequest (setArbiter s g) g.place r t 0) p.serial) p = ready at runs batch
      refine ⟨_, runs, rfl, List.map_congr_left fun e _ => lowerHold_eq p e, ⟨ready, rfl, fun m => (batch m).trans ?_⟩,
        rfl, rfl, rfl, rfl, rfl⟩
      refine or_congr (exists_congr fun e => and_congr_right fun _ => ?_) Iff.rfl
      rw [heldBehind_iff]
      constructor
      · rintro ⟨⟨hk, hl, -, hb⟩, h1, hm⟩
        exact ⟨hk, hl, h1, hb, hm⟩
      · rintro ⟨hk, hl, h1, hb, hm⟩
        exact ⟨⟨hk, hl, by omega, hb⟩, h1, hm⟩

end Sys2Proof.Machine

/-! PROOF. The media arbiter (R152, R153). -/

namespace Sys2Proof.Machine

/-! ## Requests at their places -/

/-- Some request of certain requesters can be granted. -/
def Waits (s : State) (p : Requester → Prop) : Prop :=
  ∃ i r, s.media.requests[i]? = some r ∧ p r.requester ∧ grantable s i r = true

/-- Some request of certain requesters is eligible. -/
def HasEligible (s : State) (p : Requester → Prop) : Prop :=
  ∃ i r, s.media.requests[i]? = some r ∧ p r.requester ∧ eligible s i r = true

section Arbiter

variable {s : State}

theorem MediaReq.outstanding_iff (r : MediaReq) : r.outstanding = true ↔ ∃ t, r.tag? = some t := by
  rw [MediaReq.outstanding, Option.isSome_iff_exists]

theorem MediaReq.wantsIssue_iff (r : MediaReq) :
    r.wantsIssue = true ↔ r.state = .ready ∨ ∃ t n, r.state = .retryWait t n := by
  cases h : r.state <;> simp [MediaReq.wantsIssue, h]

theorem compatible_iff (r q : MediaReq) :
    compatible r q = true ↔ (q.line = r.line → q.write = none ∧ r.write = none) := by
  simp [compatible, MediaReq.isRead, imp_iff_not_or]

theorem mem_take_iff {α : Type} {l : List α} {i : Nat} {a : α} : a ∈ l.take i ↔ ∃ j, j < i ∧ l[j]? = some a := by
  simp only [List.mem_iff_getElem?, List.getElem?_take]
  refine exists_congr fun j => ?_
  by_cases hj : j < i <;> simp [hj]

theorem eligible_iff (s : State) (i : Nat) (r : MediaReq) :
    eligible s i r = true ↔
      (r.state = .ready ∨ ∃ t n, r.state = .retryWait t n)
        ∧ (∀ j q, j < i → s.media.requests[j]? = some q → q.line = r.line → ∃ t, q.tag? = some t)
        ∧ ∀ j q, j ≠ i → s.media.requests[j]? = some q → q.line = r.line → (∃ t, q.tag? = some t) →
          q.write = none ∧ r.write = none := by
  rw [eligible, Bool.and_eq_true, MediaReq.wantsIssue_iff, eligibleAt, Bool.and_eq_true, List.all_eq_true,
    List.all_eq_true]
  refine and_congr_right fun _ => and_congr ?_ ?_
  · have earlier (q : MediaReq) :
        (q.line != r.line || q.outstanding) = true ↔ (q.line = r.line → ∃ t, q.tag? = some t) := by
      rw [Bool.or_eq_true, MediaReq.outstanding_iff, bne_iff_ne, imp_iff_not_or]
    simp only [mem_take_iff, earlier]
    exact ⟨fun h j q hj hq => h q ⟨j, hj, hq⟩, fun h q ⟨j, hj, hq⟩ => h j q hj hq⟩
  · have others (q : MediaReq) : (!q.outstanding || compatible r q) = true ↔
        (q.line = r.line → (∃ t, q.tag? = some t) → q.write = none ∧ r.write = none) := by
      rw [Bool.or_eq_true, compatible_iff, Bool.not_eq_true', ← Bool.not_eq_true, MediaReq.outstanding_iff,
        ← imp_iff_not_or]
      exact forall_comm
    simp only [List.mem_eraseIdx_iff_getElem?, others]
    exact ⟨fun h j q hj hq => h q ⟨j, hj, hq⟩, fun h q ⟨j, hj, hq⟩ => h j q hj hq⟩

theorem freeTag?_isSome_iff (s : State) :
    (freeTag? s).isSome = true ↔ ∃ t : MediaTag, ∀ q ∈ s.media.requests, q.tag? ≠ some t := by
  simp [freeTag?, tagRecord]

/-- A request that is eligible and has its tag awaits its reissue. -/
theorem grantable_iff (s : State) (i : Nat) (r : MediaReq) :
    grantable s i r = true ↔
      eligible s i r = true
        ∧ ((∃ t : MediaTag, ∀ q ∈ s.media.requests, q.tag? ≠ some t) ∨ ∃ t n, r.state = .retryWait t n) := by
  rw [grantable, Bool.and_eq_true, Bool.or_eq_true, freeTag?_isSome_iff, or_comm]
  refine and_congr_right fun he => or_congr Iff.rfl ?_
  have wants := ((eligible_iff s i r).1 he).1
  rw [MediaReq.outstanding_iff]
  cases h : r.state with
  | ready => simp [MediaReq.tag?, h]
  | issued t n d => simp [h] at wants
  | retryWait t n => simp [MediaReq.tag?, h]

/-- The first of certain requesters that can be granted, in the order of readiness. -/
theorem firstGrantable_eq_some {p : Requester → Bool} {i : Nat} (h : firstGrantable s p = some i) :
    ∃ r, s.media.requests[i]? = some r ∧ p r.requester = true ∧ grantable s i r = true
      ∧ ∀ j q, j < i → s.media.requests[j]? = some q → p q.requester = true → grantable s j q ≠ true := by
  obtain ⟨⟨r, k⟩, hfind, rfl⟩ := Option.map_eq_some_iff.1 h
  rw [List.find?_eq_some_iff_getElem] at hfind
  obtain ⟨hpr, i, hi, hget, hbefore⟩ := hfind
  rw [List.getElem_zipIdx, Prod.mk.injEq, Nat.zero_add] at hget
  obtain ⟨hr, rfl⟩ := hget
  rw [Bool.and_eq_true] at hpr
  rw [List.length_zipIdx] at hi
  refine ⟨r, hr ▸ List.getElem?_eq_getElem hi, hpr.1, hpr.2, fun j q hj hq hp hgrant => ?_⟩
  have before := hbefore j hj
  obtain ⟨hlt, hq⟩ := List.getElem?_eq_some_iff.1 hq
  rw [List.getElem_zipIdx, hq, Nat.zero_add] at before
  simp [hp, hgrant] at before

theorem firstGrantable_isSome_iff (p : Requester → Bool) :
    (firstGrantable s p).isSome = true ↔ Waits s fun q => p q = true := by
  rw [firstGrantable, Option.isSome_map, List.find?_isSome]
  constructor
  · rintro ⟨⟨r, i⟩, hm, hp⟩
    rw [Bool.and_eq_true] at hp
    exact ⟨i, r, List.mem_zipIdx_iff_getElem?.1 hm, hp⟩
  · rintro ⟨i, r, hr, hp⟩
    exact ⟨(r, i), List.mem_zipIdx_iff_getElem?.2 hr, by rwa [Bool.and_eq_true]⟩

theorem firstGrantable_eq_none_iff (p : Requester → Bool) :
    firstGrantable s p = none ↔ ¬Waits s fun q => p q = true := by
  rw [← firstGrantable_isSome_iff, Bool.not_eq_true, Option.isSome_eq_false_iff, Option.isNone_iff_eq_none]

theorem anyEligible_iff (p : Requester → Bool) : anyEligible s p = true ↔ HasEligible s fun q => p q = true := by
  rw [anyEligible, List.any_eq_true]
  constructor
  · rintro ⟨⟨r, i⟩, hm, hp⟩
    rw [Bool.and_eq_true] at hp
    exact ⟨i, r, List.mem_zipIdx_iff_getElem?.1 hm, hp⟩
  · rintro ⟨i, r, hr, hp⟩
    exact ⟨(r, i), List.mem_zipIdx_iff_getElem?.2 hr, by rwa [Bool.and_eq_true]⟩

theorem Waits.hasEligible {p : Requester → Prop} (h : Waits s p) : HasEligible s p := by
  obtain ⟨i, r, hr, hp, hg⟩ := h
  exact ⟨i, r, hr, hp, ((grantable_iff s i r).1 hg).1⟩

/-! ## The two classes (R153) -/

/-- A foreground requester is a home read or a posted write. -/
theorem Requester.priority_eq_none_iff (q : Requester) : q.priority = none ↔ q.isHomeRead = true ∨ q.isPosted = true := by
  cases q <;> simp [Requester.priority, Requester.isHomeRead, Requester.isPosted]

theorem Requester.isPosted_of_foreground {q : Requester} (h : q.priority = none) : q.isPosted = !q.isHomeRead := by
  cases q <;> first | rfl | cases h

/-- What the foreground class is granted, with the alternation after it. -/
structure ForegroundChoice (s : State) (i : Nat) (turn : Bool) (r : MediaReq) : Prop where
  place : s.media.requests[i]? = some r
  grants : grantable s i r = true
  class_ : r.requester.priority = none
  alternates : (Waits s fun q => q.isHomeRead = true) → (Waits s fun q => q.isPosted = true) →
    r.requester.isHomeRead = s.media.readTurn ∧ turn = !s.media.readTurn
  turns : (HasEligible s fun q => q.isHomeRead = true) → (HasEligible s fun q => q.isPosted = true) →
    turn = !r.requester.isHomeRead
  stays : ¬((HasEligible s fun q => q.isHomeRead = true) ∧ HasEligible s fun q => q.isPosted = true) →
    turn = s.media.readTurn
  first : ∀ j q, j < i → s.media.requests[j]? = some q → grantable s j q = true →
    q.requester.priority = none → q.requester.isHomeRead ≠ r.requester.isHomeRead

/-- The first home read, or the first posted write, that can be granted. -/
theorem firstGrantable_foreground {p : Requester → Bool} {b : Bool} {i : Nat}
    (hp : ∀ q, p q = true ↔ q.priority = none ∧ q.isHomeRead = b) (h : firstGrantable s p = some i) :
    ∃ r, s.media.requests[i]? = some r ∧ grantable s i r = true ∧ r.requester.priority = none ∧ r.requester.isHomeRead = b
      ∧ ∀ j q, j < i → s.media.requests[j]? = some q → grantable s j q = true →
        q.requester.priority = none → q.requester.isHomeRead ≠ b := by
  obtain ⟨r, hr, hpr, hg, hbefore⟩ := firstGrantable_eq_some h
  obtain ⟨hclass, hb⟩ := (hp _).1 hpr
  exact ⟨r, hr, hg, hclass, hb, fun j q hj hq hgq hc he => hbefore j q hj hq ((hp _).2 ⟨hc, he⟩) hgq⟩

theorem Requester.isHomeRead_iff (q : Requester) : q.isHomeRead = true ↔ q.priority = none ∧ q.isHomeRead = true := by
  cases q <;> simp [Requester.priority, Requester.isHomeRead]

theorem Requester.isPosted_iff (q : Requester) : q.isPosted = true ↔ q.priority = none ∧ q.isHomeRead = false := by
  cases q <;> simp [Requester.priority, Requester.isHomeRead, Requester.isPosted]

theorem foregroundGrant_choice {i : Nat} {turn : Bool} (h : foregroundGrant s = some (i, turn)) :
    ∃ r, ForegroundChoice s i turn r := by
  have reads {i : Nat} := firstGrantable_foreground (s := s) (i := i) Requester.isHomeRead_iff
  have posted {i : Nat} := firstGrantable_foreground (s := s) (i := i) Requester.isPosted_iff
  have readWaits := firstGrantable_isSome_iff (s := s) Requester.isHomeRead
  have postedWaits := firstGrantable_isSome_iff (s := s) Requester.isPosted
  have readEligible := anyEligible_iff (s := s) Requester.isHomeRead
  have postedEligible := anyEligible_iff (s := s) Requester.isPosted
  unfold foregroundGrant at h
  cases hread : firstGrantable s Requester.isHomeRead with
  | none =>
    have noRead := readWaits.not.1 (by rw [hread]; simp)
    cases hposted : firstGrantable s Requester.isPosted with
    | none => simp [hread, hposted] at h
    | some j =>
      simp only [hread, hposted, Option.some.injEq, Prod.mk.injEq] at h
      obtain ⟨rfl, rfl⟩ := h
      obtain ⟨r, hr, hg, hc, hb, hfirst⟩ := posted hposted
      have elig := (postedWaits.1 (by rw [hposted]; rfl)).hasEligible
      refine ⟨r, hr, hg, hc, fun hw => absurd hw noRead, fun hw _ => ?_, fun hn => ?_, hb ▸ hfirst⟩
      · rw [if_pos (readEligible.2 hw), hb]
        rfl
      · rw [if_neg fun hw => hn ⟨readEligible.1 hw, elig⟩]
  | some i =>
    obtain ⟨r, hr, hg, hc, hb, hfirst⟩ := reads hread
    have elig := (readWaits.1 (by rw [hread]; rfl)).hasEligible
    cases hposted : firstGrantable s Requester.isPosted with
    | none =>
      simp only [hread, hposted, Option.some.injEq, Prod.mk.injEq] at h
      obtain ⟨rfl, rfl⟩ := h
      have noPosted := postedWaits.not.1 (by rw [hposted]; simp)
      refine ⟨r, hr, hg, hc, fun _ hw => absurd hw noPosted, fun _ hw => ?_, fun hn => ?_, hb ▸ hfirst⟩
      · rw [if_pos (postedEligible.2 hw), hb]
        rfl
      · rw [if_neg fun hw => hn ⟨elig, postedEligible.1 hw⟩]
    | some j =>
      obtain ⟨q, hq, hgq, hcq, hbq, hfirstq⟩ := posted hposted
      have eligq := (postedWaits.1 (by rw [hposted]; rfl)).hasEligible
      cases hturn : s.media.readTurn with
      | true =>
        simp only [hread, hposted, hturn, if_true, Option.some.injEq, Prod.mk.injEq] at h
        obtain ⟨rfl, rfl⟩ := h
        exact ⟨r, hr, hg, hc, fun _ _ => by simp [hb, hturn], fun _ _ => by simp [hb], fun hn => absurd ⟨elig, eligq⟩ hn,
          hb ▸ hfirst⟩
      | false =>
        simp only [hread, hposted, hturn, Bool.false_eq_true, if_false, Option.some.injEq, Prod.mk.injEq] at h
        obtain ⟨rfl, rfl⟩ := h
        exact ⟨q, hq, hgq, hcq, fun _ _ => by simp [hbq, hturn], fun _ _ => by simp [hbq],
          fun hn => absurd ⟨elig, eligq⟩ hn, hbq ▸ hfirstq⟩

theorem foregroundGrant_isSome_iff : (foregroundGrant s).isSome = true ↔ Waits s fun q => q.priority = none := by
  have both : (foregroundGrant s).isSome = true ↔
      (firstGrantable s Requester.isHomeRead).isSome = true ∨ (firstGrantable s Requester.isPosted).isSome = true := by
    unfold foregroundGrant
    cases firstGrantable s Requester.isHomeRead <;> cases firstGrantable s Requester.isPosted <;> simp
  rw [both, firstGrantable_isSome_iff, firstGrantable_isSome_iff]
  simp only [Waits, Requester.priority_eq_none_iff, or_and_right, and_or_left, exists_or]

/-- What the background class is granted. -/
structure BackgroundChoice (s : State) (i : Nat) (r : MediaReq) : Prop where
  place : s.media.requests[i]? = some r
  grants : grantable s i r = true
  class_ : r.requester.priority ≠ none
  highest : ∀ m, r.requester.priority = some m → ∀ n < m, ¬Waits s fun q => q.priority = some n
  first : ∀ j q, j < i → s.media.requests[j]? = some q → grantable s j q = true →
    q.requester.priority ≠ r.requester.priority

theorem Requester.priority_lt {q : Requester} {n : Nat} (h : q.priority = some n) : n < 4 := by
  cases q <;> simp [Requester.priority] at h <;> omega

theorem backgroundGrant_choice {i : Nat} (h : backgroundGrant s = some i) : ∃ r, BackgroundChoice s i r := by
  rw [backgroundGrant, List.findSome?_eq_some_iff] at h
  obtain ⟨before, n, after, hrange, hfirst, hnone⟩ := h
  obtain ⟨r, hr, hp, hg, hbefore⟩ := firstGrantable_eq_some hfirst
  rw [beq_iff_eq] at hp
  refine ⟨r, hr, hg, by simp [hp], fun m hm k hk => ?_, fun j q hj hq hgq he => ?_⟩
  · obtain rfl : n = m := by simpa [hp] using hm
    have sorted := List.pairwise_lt_range (n := 4)
    rw [hrange, List.pairwise_append, List.pairwise_cons] at sorted
    have member : k ∈ before ++ n :: after := by
      rw [← hrange, List.mem_range]
      exact hk.trans (Requester.priority_lt hm)
    have earlier : k ∈ before := by
      rw [List.mem_append, List.mem_cons] at member
      obtain member | rfl | member := member
      · exact member
      · exact absurd hk (Nat.lt_irrefl _)
      · exact absurd (sorted.2.1.1 k member) (Nat.lt_asymm hk)
    simpa [firstGrantable_eq_none_iff] using hnone k earlier
  · exact hbefore j q hj hq (by simpa [hp] using he) hgq

theorem backgroundGrant_isSome_iff : (backgroundGrant s).isSome = true ↔ Waits s fun q => q.priority ≠ none := by
  rw [backgroundGrant, List.findSome?_isSome_iff]
  simp only [firstGrantable_isSome_iff, beq_iff_eq, Waits]
  constructor
  · rintro ⟨n, -, i, r, hr, hp, hg⟩
    exact ⟨i, r, hr, by simp [hp], hg⟩
  · rintro ⟨i, r, hr, hp, hg⟩
    obtain ⟨n, hn⟩ := Option.ne_none_iff_exists'.1 hp
    exact ⟨n, List.mem_range.2 (Requester.priority_lt hn), i, r, hr, hn, hg⟩

/-- Which class the arbiter grants, and its alternation and count after it. -/
theorem mediaGrant_cases {g : MediaGrant} (h : mediaGrant s = some g) :
    (foregroundGrant s = some (g.place, g.readTurn) ∧ g.foreground = foregroundCount s
        ∧ (backgroundGrant s = none ∨ s.media.foreground < s.regs.arbQuota - 1))
      ∨ (backgroundGrant s = some g.place ∧ g.readTurn = s.media.readTurn ∧ g.foreground = 0
        ∧ (foregroundGrant s = none ∨ s.regs.arbQuota - 1 ≤ s.media.foreground)) := by
  unfold mediaGrant at h
  cases hf : foregroundGrant s with
  | none =>
    cases hb : backgroundGrant s with
    | none => simp [hf, hb] at h
    | some i =>
      simp only [hf, hb, Option.some.injEq] at h
      subst h
      exact .inr ⟨rfl, rfl, rfl, .inl rfl⟩
  | some f =>
    cases hb : backgroundGrant s with
    | none =>
      simp only [hf, hb, Option.some.injEq] at h
      subst h
      exact .inl ⟨rfl, rfl, .inl rfl⟩
    | some i =>
      simp only [hf, hb] at h
      split at h
      case isTrue hq =>
        obtain rfl := Option.some.inj h
        exact .inr ⟨rfl, rfl, rfl, .inr hq⟩
      case isFalse hq =>
        obtain rfl := Option.some.inj h
        exact .inl ⟨rfl, rfl, .inr (Nat.lt_of_not_le hq)⟩

theorem mediaGrant_isSome_iff :
    (mediaGrant s).isSome = true ↔ (Waits s fun q => q.priority = none) ∨ Waits s fun q => q.priority ≠ none := by
  rw [← foregroundGrant_isSome_iff, ← backgroundGrant_isSome_iff]
  unfold mediaGrant
  cases foregroundGrant s <;> cases backgroundGrant s <;> try simp
  split <;> simp

theorem foregroundCount_eq :
    ((HasEligible s fun q => q.priority ≠ none) → foregroundCount s = s.media.foreground + 1)
      ∧ ((¬HasEligible s fun q => q.priority ≠ none) → foregroundCount s = 0) := by
  have background : anyEligible s Requester.isBackground = true ↔ HasEligible s fun q => q.priority ≠ none := by
    rw [anyEligible_iff]
    simp only [Requester.isBackground, Option.isSome_iff_ne_none]
  exact ⟨fun h => if_pos (background.2 h), fun h => if_neg (background.not.2 h)⟩

end Arbiter

/-- Settles O25: what is granted is grantable, and the choice between and within the classes. -/
theorem mediaArbiterGrants : Obligations.MediaArbiterGrants := by
  refine ⟨fun s => ⟨exec_mediaIssue_none, fun g hg => ?granted⟩, fun s => ?chosen⟩
  case granted =>
    obtain ⟨r, hr, hgrant⟩ := mediaGrant_spec hg
    obtain ⟨helig, htag⟩ := (grantable_iff s g.place r).1 hgrant
    obtain ⟨hwants, hearlier, hothers⟩ := (eligible_iff s g.place r).1 helig
    refine ⟨r, hr, ?_, fun j q hj hq hl => (MediaReq.outstanding_iff q).2 (hearlier j q hj hq hl),
      fun j q hj hq ho hl => hothers j q hj hq hl ((MediaReq.outstanding_iff q).1 ho)⟩
    obtain hready | hretry := hwants
    · refine .inl ⟨hready, htag.resolve_right ?_⟩
      simp [hready]
    · exact .inr hretry
  case chosen =>
    intro waits hasEligible fore back backEligible
    refine ⟨mediaGrant_isSome_iff.symm, fun i r _ => eligible_iff s i r, fun i r => grantable_iff s i r,
      fun g r hg hr => ?_⟩
    have noBack (hn : backgroundGrant s = none) : ¬back := fun hb => by
      simpa [hn] using backgroundGrant_isSome_iff.2 hb
    have noFore (hn : foregroundGrant s = none) : ¬fore := fun hf => by
      simpa [hn] using foregroundGrant_isSome_iff.2 hf
    obtain ⟨hf, hcount, hclass⟩ | ⟨hb, hturn, hcount, hclass⟩ := mediaGrant_cases hg
    · obtain ⟨q, choice⟩ := foregroundGrant_choice hf
      obtain rfl : q = r := Option.some.inj (choice.place.symm.trans hr)
      have hc := choice.class_
      refine ⟨fun _ _ _ => hc, fun _ hback hq => ?_, fun hn => absurd hc hn, fun _ he => hcount.trans (foregroundCount_eq.1 he),
        fun _ he => hcount.trans (foregroundCount_eq.2 he), fun _ => choice.alternates, fun _ => choice.turns,
        fun _ => choice.stays, fun m hm => by simp [hc] at hm,
        fun j x hj hx hgx he => choice.first j x hj hx hgx (he.trans hc)⟩
      obtain hn | hlt := hclass
      · exact absurd hback (noBack hn)
      · exact absurd hq (Nat.not_le.2 hlt)
    · obtain ⟨q, choice⟩ := backgroundGrant_choice hb
      obtain rfl : q = r := Option.some.inj (choice.place.symm.trans hr)
      have hc := choice.class_
      refine ⟨fun hfore _ hq => ?_, fun _ _ _ => hc, fun _ => ⟨hcount, hturn⟩, fun h => absurd h hc, fun h => absurd h hc,
        fun h => absurd h hc, fun h => absurd h hc, fun h => absurd h hc, choice.highest,
        fun j x hj hx hgx he => absurd he (choice.first j x hj hx hgx)⟩
      obtain hn | hle := hclass
      · exact absurd hfore (noFore hn)
      · exact absurd hq (Nat.not_lt.2 hle)

end Sys2Proof.Machine

/-! PROOF. RETRY and stale responses (R151, R154, R156). -/

namespace Sys2Proof.Machine

/-! ## RETRY and stale responses (R151, R154) -/

section Retry

variable {s : State} {t : MediaTag} {r : MediaReq}

/-- The failed outcome of a requester, by its own command (R156). -/
theorem exec_failCommand {q : Requester} (h : Carries s t q) :
    exec (failCommand t q) s = .next (failedOutcome (dropTag s t) q) := by
  cases q <;> exact congrArg Host.Outcome.next (onOutcome_carries (f := fun u => failedOutcome u _) h rfl)

theorem exec_mediaRetry (h : issuedAt s t = some r) :
    exec (.mediaRetry t) s =
      .next (if r.retries < s.regs.retryLimit then waitRetry s t else failedOutcome (dropTag s t) r.requester) := by
  change execMediaRetry t s = _
  simp only [execMediaRetry, h]

theorem exec_mediaRetry_none (h : issuedAt s t = none) : exec (.mediaRetry t) s = .next s := by
  change execMediaRetry t s = _
  simp only [execMediaRetry, h]

end Retry

/-- Settles O26: below the limit the tag waits, at the limit the request's own failure follows. -/
theorem retryWaitsOrFailsAndStaleIsDiscarded : Obligations.RetryWaitsOrFailsAndStaleIsDiscarded := by
  refine ⟨fun s t => ⟨exec_mediaRetry_none, fun r n d hr hs => ?_⟩, fun s t status _ => rfl⟩
  have retries : r.retries = n := by simp only [MediaReq.retries, hs]
  rw [Answers, exec_mediaRetry hr, retries]
  refine ⟨fun hn => ?_, fun hn => ?_⟩
  · rw [if_pos hn]
    rfl
  · rw [if_neg (Nat.not_lt.2 hn), exec_failCommand ⟨r, hr, rfl⟩]

end Sys2Proof.Machine

/-! PROOF. The mass abort (R21, R22). -/

namespace Sys2Proof.Machine

/-! ## What ends groups, held writes and reads (R21, R22, R82) -/

/-- The fabric port after the answers to taken requests. -/
def fabricAfter (s : State) (front : List Response) : Fabric :=
  { s.fabric with
    egress := s.fabric.egress ++ front
    takenUnanswered := s.fabric.takenUnanswered - front.length }

/-- The registers of `r` and of `r'` differ in flags and in counters alone. -/
def RegsCounted (r r' : Regs) : Prop :=
  r' = { r with flags := r'.flags, abortedCount := r'.abortedCount, lostCount := r'.lostCount }

theorem RegsCounted.refl (r : Regs) : RegsCounted r r := rfl

theorem RegsCounted.trans {a b c : Regs} (h : RegsCounted a b) (k : RegsCounted b c) : RegsCounted a c := by
  unfold RegsCounted at *
  rw [k, h]

/-- A part of an event that ends groups, held writes and reads with the answers `front`, and touches no other block. -/
structure Ends (s t : State) (front : List Response) : Prop where
  fabric : t.fabric = fabricAfter s front
  now : t.now = s.now
  decoder : t.decoder = s.decoder
  records : t.posted.records = s.posted.records
  journal : t.journal = s.journal
  apply : t.apply = s.apply
  ckpt : t.ckpt = s.ckpt
  modes : t.modes = s.modes
  recovery : t.recovery = s.recovery
  format : t.format = s.format
  reloc : t.reloc = s.reloc
  drain : t.drain = s.drain
  media : t.media = s.media
  regs : RegsCounted s.regs t.regs

theorem fabricAfter_nil (s : State) : fabricAfter s [] = s.fabric := by
  simp [fabricAfter]

theorem Ends.refl (s : State) : Ends s s [] where
  fabric := (fabricAfter_nil s).symm
  now := rfl
  decoder := rfl
  records := rfl
  journal := rfl
  apply := rfl
  ckpt := rfl
  modes := rfl
  recovery := rfl
  format := rfl
  reloc := rfl
  drain := rfl
  media := rfl
  regs := .refl _

theorem Ends.trans {s t u : State} {front back : List Response} (h : Ends s t front) (k : Ends t u back) :
    Ends s u (front ++ back) where
  fabric := by
    rw [k.fabric, fabricAfter, h.fabric]
    simp [fabricAfter, Nat.sub_sub]
  now := k.now.trans h.now
  decoder := k.decoder.trans h.decoder
  records := k.records.trans h.records
  journal := k.journal.trans h.journal
  apply := k.apply.trans h.apply
  ckpt := k.ckpt.trans h.ckpt
  modes := k.modes.trans h.modes
  recovery := k.recovery.trans h.recovery
  format := k.format.trans h.format
  reloc := k.reloc.trans h.reloc
  drain := k.drain.trans h.drain
  media := k.media.trans h.media
  regs := h.regs.trans k.regs

/-- Nothing is answered. -/
theorem Ends.silent {s t u : State} {front : List Response} (h : Ends s t front) (k : Ends t u []) : Ends s u front :=
  List.append_nil front ▸ h.trans k

/-- Turns with their answers, which may depend on the requests at the media port. -/
theorem Ends.foldl {α : Type} {f : State → α → State} {g : α → List Response} {m : Media}
    (h : ∀ s a, s.media = m → Ends s (f s a) (g a)) (l : List α) (s : State) (hs : s.media = m) :
    Ends s (l.foldl f s) (l.flatMap g) := by
  induction l generalizing s with
  | nil => exact .refl s
  | cons a l ih =>
    have turn := h s a hs
    exact turn.trans (ih (f s a) (turn.media.trans hs))

/-- What each turn keeps. -/
theorem foldl_unchanged {α β : Type} {f : State → α → State} {p : State → β} (h : ∀ s a, p (f s a) = p s) (l : List α)
    (s : State) : p (l.foldl f s) = p s := by
  induction l generalizing s with
  | nil => rfl
  | cons a l ih => exact (ih (f s a)).trans (h s a)

/-- Turns that take entries out of the commit queue by their serials. -/
theorem foldl_removes {f : State → Entry → State} {p : Entry → Bool}
    (h : ∀ s e, (f s e).groups.queue =
      if p e then s.groups.queue.filter fun x => x.serial != e.serial else s.groups.queue) (es : List Entry) (s : State) :
    (es.foldl f s).groups.queue = s.groups.queue.filter fun x => es.all fun e => !p e || x.serial != e.serial := by
  induction es generalizing s with
  | nil => simp
  | cons e es ih =>
    rw [List.foldl_cons, ih, h]
    cases hp : p e <;> simp [hp, List.filter_filter, Bool.and_comm]

theorem abortQuietly_ends (s : State) (ns : List Nat) : Ends s (abortQuietly s ns) [] :=
  { Ends.refl s with }

theorem setRecord_ends (s : State) (st : Stream) (r : GroupRecord) : Ends s (setRecord s st r) [] :=
  { Ends.refl s with }

theorem countAborted_ends (s : State) : Ends s (countAborted s) [] :=
  { Ends.refl s with regs := rfl }

theorem answerTaken_ends (s : State) (r : Response) : Ends s (answerTaken s r) [r] :=
  { Ends.refl s with fabric := rfl }

theorem removeEntry_ends (s : State) (n : Serial) : Ends s (removeEntry s n) [] :=
  { Ends.refl s with }

theorem clearLossMark_ends (s : State) (st : Stream) : Ends s (clearLossMark s st) [] :=
  { Ends.refl s with }

/-! ## Group records (R21 steps 1 and 2) -/

theorem massAbortRecord_ends (s : State) (st : Stream) : Ends s (massAbortRecord s st) [] := by
  unfold massAbortRecord
  split
  · exact .refl s
  · exact setRecord_ends s st _
  · exact ((abortQuietly_ends s _).silent (setRecord_ends _ st _)).silent (countAborted_ends _)

theorem massAbortRecord_lists (s : State) (st : Stream) :
    (massAbortRecord s st).groups.queue = s.groups.queue ∧ heldWrites (massAbortRecord s st) = heldWrites s
      ∧ (massAbortRecord s st).reads = s.reads := by
  unfold massAbortRecord
  split <;> exact ⟨rfl, rfl, rfl⟩

theorem recordOf_massAbortRecord (s : State) (st x : Stream) :
    recordOf (massAbortRecord s st) x = if st = x then .absent else recordOf s x := by
  unfold massAbortRecord
  split
  case h_1 h =>
    split
    case isTrue he => rw [← he, h]
    case isFalse => rfl
  case h_2 => rw [recordOf_setRecord]
  case h_3 => exact recordOf_setRecord (abortQuietly s _) st x .absent

theorem recordOf_foldl_massAbortRecord (l : List Stream) (s : State) (x : Stream) :
    recordOf (l.foldl massAbortRecord s) x = if x ∈ l then .absent else recordOf s x := by
  induction l generalizing s with
  | nil => simp
  | cons st l ih =>
    rw [List.foldl_cons, ih, recordOf_massAbortRecord]
    by_cases hl : x ∈ l
    · simp [hl]
    · simp only [hl, List.mem_cons, or_false, if_false, eq_comm (a := x)]

/-! ## Held writes (R21 step 3) -/

theorem abortHeld_ends (s : State) (reason : Reason) : Ends s (abortHeld s reason) (heldAnswers s reason) := by
  have answers := Ends.foldl (f := answerHeldAborted reason) (g := fun h => [abortedAnswer h.stream h.tag reason])
    (fun s h _ => answerTaken_ends s _) (heldWrites s) s rfl
  rw [← List.map_eq_flatMap] at answers
  exact { answers with }

theorem abortHeld_lists (s : State) (reason : Reason) :
    (abortHeld s reason).groups = s.groups ∧ NoneHeld (abortHeld s reason) ∧ (abortHeld s reason).reads = s.reads :=
  ⟨foldl_unchanged (f := answerHeldAborted reason) (p := State.groups) (fun _ _ => rfl) _ s, ⟨rfl, rfl⟩,
    foldl_unchanged (f := answerHeldAborted reason) (p := State.reads) (fun _ _ => rfl) _ s⟩

/-! ## Entries of the commit queue (R21 step 4, R22) -/

theorem abortEntry_ends (s : State) (e : Entry) (reason : Reason) :
    Ends s (abortEntry s e reason) [abortedAnswer e.stream e.tag reason] :=
  (((((abortQuietly_ends s e.slots).trans (answerTaken_ends _ _)).silent (clearLossMark_ends _ _)).silent
    (countAborted_ends _)).silent (removeEntry_ends _ _))

theorem indoubtEntry_ends (s : State) (e : Entry) :
    Ends s (indoubtEntry s e) [plainAnswer e.stream e.tag .indoubt] :=
  { Ends.refl s with fabric := rfl, regs := rfl }

/-- What an entry's end keeps. -/
def entryRest (s : State) : PerStream GroupRecord × Claims × List HeldWrite × List TrackerEntry :=
  (s.groups.table, s.claims, s.staging.slotWait, s.reads)

/-- The end of a JOURNALING entry: INDOUBT when its commit line has been issued. -/
theorem endJournaling_ends (s : State) (e : Entry) (reason : Reason) :
    Ends s (endJournaling s e reason) [writerAnswer s.media.requests reason e] := by
  unfold endJournaling
  split
  case isTrue h =>
    rw [writerAnswer, if_pos (by exact h)]
    exact indoubtEntry_ends s e
  case isFalse h =>
    rw [writerAnswer, if_neg (by exact h)]
    exact abortEntry_ends s e reason

theorem endJournaling_lists (s : State) (e : Entry) (reason : Reason) :
    (endJournaling s e reason).groups.queue = s.groups.queue.filter (fun x => x.serial != e.serial)
      ∧ entryRest (endJournaling s e reason) = entryRest s := by
  unfold endJournaling
  split <;> exact ⟨rfl, rfl⟩

/-- The entries that a mass abort ends (R21, R22). -/
def AbortCause.ends (cause : AbortCause) (e : Entry) : Bool :=
  e.state == .sealed || (e.state == .journaling && cause != .powerfail)

/-- The answers of a mass abort to an entry. -/
def AbortCause.answers (cause : AbortCause) (rs : List MediaReq) (e : Entry) : List Response :=
  if cause.ends e then endedAnswer rs cause.reason e else []

theorem massAbortEntry_ends (cause : AbortCause) (s : State) (e : Entry) :
    Ends s (massAbortEntry cause s e) (cause.answers s.media.requests e) := by
  unfold massAbortEntry AbortCause.answers AbortCause.ends endedAnswer
  cases e.state with
  | sealed => exact abortEntry_ends s e _
  | journaling =>
    by_cases hc : cause = .powerfail
    · subst hc
      exact .refl s
    · simpa [hc] using endJournaling_ends s e cause.reason
  | durable | applying => exact .refl s

theorem massAbortEntry_lists (cause : AbortCause) (s : State) (e : Entry) :
    (massAbortEntry cause s e).groups.queue =
        (if cause.ends e then s.groups.queue.filter fun x => x.serial != e.serial else s.groups.queue)
      ∧ entryRest (massAbortEntry cause s e) = entryRest s := by
  unfold massAbortEntry AbortCause.ends
  cases e.state with
  | sealed => exact ⟨rfl, rfl⟩
  | journaling =>
    by_cases hc : cause = .powerfail
    · subst hc
      exact ⟨rfl, rfl⟩
    · simpa [hc] using endJournaling_lists s e cause.reason
  | durable | applying => exact ⟨rfl, rfl⟩

/-- An entry whose group is DURABLE or later. -/
def Entry.kept (e : Entry) : Bool := e.state == .durable || e.state == .applying

theorem disposeEntry_ends (s : State) (e : Entry) : Ends s (disposeEntry s e) (owedAnswer e) := by
  unfold disposeEntry owedAnswer
  cases e.state with
  | sealed | journaling => exact .refl s
  | durable | applying =>
    dsimp only
    split
    · exact removeEntry_ends s _
    · exact ((answerTaken_ends s _).silent (clearLossMark_ends _ _)).silent (removeEntry_ends _ _)

theorem disposeEntry_lists (s : State) (e : Entry) :
    (disposeEntry s e).groups.queue =
        (if e.kept then s.groups.queue.filter fun x => x.serial != e.serial else s.groups.queue)
      ∧ entryRest (disposeEntry s e) = entryRest s := by
  unfold disposeEntry Entry.kept
  cases e.state with
  | sealed | journaling => exact ⟨rfl, rfl⟩
  | durable | applying =>
    dsimp only
    split <;> exact ⟨rfl, rfl⟩

/-! ## The mass abort (R21, R22) -/

/-- The part after the records and the held writes. -/
def recordsAborted (s : State) (reason : Reason) : State := abortHeld (allStreams.foldl massAbortRecord s) reason

theorem recordsAborted_ends (s : State) (reason : Reason) :
    Ends s (recordsAborted s reason) (heldAnswers s reason) := by
  have records : Ends s (allStreams.foldl massAbortRecord s) [] := by
    have turns := Ends.foldl (fun s st _ => massAbortRecord_ends s st) allStreams s rfl
    rwa [List.flatMap_eq_nil_iff.2 fun _ _ => rfl] at turns
  have held : heldWrites (allStreams.foldl massAbortRecord s) = heldWrites s :=
    foldl_unchanged (p := heldWrites) (fun s st => (massAbortRecord_lists s st).2.1) _ s
  have answers : heldAnswers (allStreams.foldl massAbortRecord s) reason = heldAnswers s reason :=
    congrArg (List.map fun h : HeldWrite => abortedAnswer h.stream h.tag reason) held
  rw [recordsAborted, ← answers]
  generalize allStreams.foldl massAbortRecord s = t at records
  exact records.trans (abortHeld_ends t reason)

theorem recordsAborted_lists (s : State) (reason : Reason) :
    (recordsAborted s reason).groups.queue = s.groups.queue ∧ (∀ st, recordOf (recordsAborted s reason) st = .absent)
      ∧ NoneHeld (recordsAborted s reason) ∧ (recordsAborted s reason).reads = s.reads := by
  obtain ⟨groups, held, reads⟩ := abortHeld_lists (allStreams.foldl massAbortRecord s) reason
  refine ⟨?_, fun st => ?_, held, ?_⟩
  · rw [recordsAborted, groups]
    exact foldl_unchanged (p := fun s => s.groups.queue) (fun s st => (massAbortRecord_lists s st).1) _ s
  · rw [recordsAborted, recordOf, groups]
    refine (recordOf_foldl_massAbortRecord allStreams s st).trans (if_pos ?_)
    simp [allStreams]
  · rw [recordsAborted, reads]
    exact foldl_unchanged (p := State.reads) (fun s st => (massAbortRecord_lists s st).2.2) _ s

/-- The part after the entries that a mass abort ends. -/
def entriesAborted (s : State) (cause : AbortCause) : State :=
  (recordsAborted s cause.reason).groups.queue.foldl (massAbortEntry cause) (recordsAborted s cause.reason)

theorem entriesAborted_ends (s : State) (cause : AbortCause) :
    Ends s (entriesAborted s cause)
      (heldAnswers s cause.reason ++ s.groups.queue.flatMap (cause.answers s.media.requests)) := by
  have before := recordsAborted_ends s cause.reason
  have entries := Ends.foldl (f := massAbortEntry cause) (g := cause.answers s.media.requests) (m := s.media)
    (fun u e hu => hu ▸ massAbortEntry_ends cause u e) (recordsAborted s cause.reason).groups.queue _ before.media
  rw [(recordsAborted_lists s cause.reason).1] at entries
  rw [entriesAborted, (recordsAborted_lists s cause.reason).1]
  exact before.trans entries

/-- What every part of an event that ends entries alone leaves of the records, the held writes and the reads. -/
theorem rest_of_entryRest {s t : State} (h : entryRest t = entryRest s) (hr : ∀ st, recordOf s st = .absent)
    (hn : NoneHeld s) : (∀ st, recordOf t st = .absent) ∧ NoneHeld t ∧ t.reads = s.reads := by
  simp only [entryRest, Prod.mk.injEq] at h
  obtain ⟨htable, hclaims, hslot, hreads⟩ := h
  exact ⟨fun st => (congrArg (fun v : PerStream GroupRecord => v.read st) htable).trans (hr st),
    ⟨(congrArg Claims.waitList hclaims).trans hn.1, hslot.trans hn.2⟩, hreads⟩

theorem entriesAborted_lists (s : State) (cause : AbortCause) :
    (entriesAborted s cause).groups.queue =
        s.groups.queue.filter (fun x => s.groups.queue.all fun e => !cause.ends e || x.serial != e.serial)
      ∧ (∀ st, recordOf (entriesAborted s cause) st = .absent) ∧ NoneHeld (entriesAborted s cause)
      ∧ (entriesAborted s cause).reads = s.reads := by
  obtain ⟨queue, records, held, reads⟩ := recordsAborted_lists s cause.reason
  have rest : entryRest (entriesAborted s cause) = entryRest (recordsAborted s cause.reason) :=
    foldl_unchanged (p := entryRest) (fun s e => (massAbortEntry_lists cause s e).2) _ _
  obtain ⟨records', held', reads'⟩ := rest_of_entryRest rest records held
  refine ⟨?_, records', held', reads'.trans reads⟩
  rw [entriesAborted, foldl_removes fun s e => (massAbortEntry_lists cause s e).1, queue]

theorem massAbort_powerfail (s : State) : massAbort s .powerfail = entriesAborted s .powerfail := rfl

theorem massAbort_eq {cause : AbortCause} (hc : cause ≠ .powerfail) (s : State) :
    massAbort s cause = (entriesAborted s cause).groups.queue.foldl disposeEntry (entriesAborted s cause) := by
  rw [massAbort, ← recordsAborted, ← entriesAborted, if_neg hc]

/-! ### Take serials that are distinct -/

/-- With distinct serials, an entry keeps its place when no turn is its own. -/
theorem all_other_serials {es : List Entry} (hd : (es.map Entry.serial).Nodup) (p : Entry → Bool) {x : Entry}
    (hx : x ∈ es) : (es.all fun e => !p e || x.serial != e.serial) = !p x := by
  cases hp : p x with
  | true =>
    rw [Bool.not_true, List.all_eq_false]
    exact ⟨x, hx, by simp [hp]⟩
  | false =>
    rw [Bool.not_false, List.all_eq_true]
    intro e he
    by_cases hs : x.serial = e.serial
    · obtain rfl := List.inj_on_of_nodup_map hd hx he hs
      simp [hp]
    · simp [hs]

theorem filter_other_serials {es : List Entry} (hd : (es.map Entry.serial).Nodup) (p : Entry → Bool) :
    (es.filter fun x => es.all fun e => !p e || x.serial != e.serial) = es.filter fun x => !p x :=
  List.filter_congr fun _ hx => all_other_serials hd p hx

/-- The commit queue after a mass abort for POWERFAIL keeps all but the SEALED entries (R22). -/
theorem entriesAborted_powerfail_queue {s : State} (hd : SerialsDistinct s) :
    (entriesAborted s .powerfail).groups.queue = s.groups.queue.filter fun e => e.state != .sealed := by
  rw [(entriesAborted_lists s .powerfail).1, filter_other_serials hd]
  refine List.filter_congr fun e _ => ?_
  simp [AbortCause.ends, bne]

/-- The answers of a mass abort for POWERFAIL to the commit queue. -/
theorem answers_powerfail (rs : List MediaReq) (e : Entry) :
    AbortCause.answers .powerfail rs e =
      if e.state = .sealed then [abortedAnswer e.stream e.tag .powerfail] else [] := by
  unfold AbortCause.answers AbortCause.ends endedAnswer
  cases e.state <;> rfl

/-- An entry that a mass abort for another cause leaves is DURABLE or APPLYING. -/
theorem ends_eq_not_kept {cause : AbortCause} (hc : cause ≠ .powerfail) (e : Entry) : cause.ends e = !e.kept := by
  have other : (cause != .powerfail) = true := bne_iff_ne.2 hc
  unfold AbortCause.ends Entry.kept
  rw [other]
  cases e.state <;> rfl

/-- The answers of a mass abort for another cause to the commit queue. -/
theorem answers_eq_endedAnswer {cause : AbortCause} (hc : cause ≠ .powerfail) (rs : List MediaReq) (e : Entry) :
    cause.answers rs e = endedAnswer rs cause.reason e := by
  unfold AbortCause.answers AbortCause.ends endedAnswer
  cases e.state <;> simp [hc]

theorem flatMap_owedAnswer_filter (es : List Entry) :
    (es.filter fun e => e.kept).flatMap owedAnswer = es.flatMap owedAnswer := by
  induction es with
  | nil => rfl
  | cons e es ih =>
    have none (h : e.kept = false) : owedAnswer e = [] := by
      unfold Entry.kept at h
      unfold owedAnswer
      cases hs : e.state <;> simp_all
    cases hk : e.kept with
    | true => rw [List.filter_cons_of_pos hk, List.flatMap_cons, List.flatMap_cons, ih]
    | false => rw [List.filter_cons_of_neg (by simp [hk]), List.flatMap_cons, none hk, ih, List.nil_append]

/-- What a mass abort for FAULT or RESTART leaves, and its answers (R21, R22). -/
theorem massAbort_closes {cause : AbortCause} (hc : cause ≠ .powerfail) (s : State) :
    ∃ front, Ends s (massAbort s cause) front
      ∧ (massAbort s cause).groups.queue = [] ∧ (∀ st, recordOf (massAbort s cause) st = .absent)
      ∧ NoneHeld (massAbort s cause) ∧ (massAbort s cause).reads = s.reads
      ∧ (SerialsDistinct s →
        front = heldAnswers s cause.reason ++ s.groups.queue.flatMap (endedAnswer s.media.requests cause.reason)
          ++ s.groups.queue.flatMap owedAnswer) := by
  obtain ⟨queue, records, held, reads⟩ := entriesAborted_lists s cause
  have before := entriesAborted_ends s cause
  rw [massAbort_eq hc]
  generalize entriesAborted s cause = t at queue records held reads before ⊢
  have disposed := Ends.foldl (fun s e _ => disposeEntry_ends s e) t.groups.queue t rfl
  have rest : entryRest (t.groups.queue.foldl disposeEntry t) = entryRest t :=
    foldl_unchanged (p := entryRest) (fun s e => (disposeEntry_lists s e).2) _ _
  obtain ⟨records', held', reads'⟩ := rest_of_entryRest rest records held
  refine ⟨_, before.trans disposed, ?_, records', held', reads'.trans reads, fun hd => ?_⟩
  · rw [foldl_removes fun s e => (disposeEntry_lists s e).1, List.filter_eq_nil_iff]
    intro x hx hall
    rw [List.all_eq_true] at hall
    have stays := hall x hx
    rw [queue] at hx
    have left := List.mem_filter.1 hx
    rw [List.all_eq_true] at left
    have ended := left.2 x left.1
    simp only [bne_self_eq_false, Bool.or_false, ends_eq_not_kept hc, Bool.not_not, Bool.not_eq_true'] at stays ended
    rw [stays] at ended
    cases ended
  · have kept : t.groups.queue = s.groups.queue.filter fun e => e.kept := by
      rw [queue, filter_other_serials hd]
      exact List.filter_congr fun e _ => by rw [ends_eq_not_kept hc, Bool.not_not]
    have answers : cause.answers s.media.requests = endedAnswer s.media.requests cause.reason :=
      funext fun e => answers_eq_endedAnswer hc _ e
    rw [kept, flatMap_owedAnswer_filter, answers]

end Sys2Proof.Machine

/-! PROOF. Entry to FAULTED (R158). -/

namespace Sys2Proof.Machine

/-! ## Reads and posted writes that the part gives up (R68, R82) -/

theorem endRead_ends (status : Status) (w : Work) (e : TrackerEntry) :
    Ends w.s (endRead status w e).s [plainAnswer e.stream e.tag status] :=
  { Ends.refl w.s with fabric := rfl }

/-- What the end of a read keeps. -/
def readRest (s : State) : Groups × Claims × List HeldWrite := (s.groups, s.claims, s.staging.slotWait)

section EndReads

variable (status : Status) (es : List TrackerEntry)

theorem foldl_endRead_ends (w : Work) :
    Ends w.s (es.foldl (endRead status) w).s (es.map fun e => plainAnswer e.stream e.tag status) := by
  induction es generalizing w with
  | nil => exact .refl w.s
  | cons e es ih => exact (endRead_ends status w e).trans (ih (endRead status w e))

theorem foldl_endRead_lists (w : Work) :
    readRest (es.foldl (endRead status) w).s = readRest w.s
      ∧ (es.foldl (endRead status) w).s.reads = w.s.reads.filter fun x => es.all fun e => x.serial != e.serial := by
  induction es generalizing w with
  | nil => simp
  | cons e es ih =>
    obtain ⟨hrest, hreads⟩ := ih (endRead status w e)
    refine ⟨hrest, hreads.trans ?_⟩
    change (w.s.reads.filter fun x => x.serial != e.serial).filter _ = _
    simp [List.filter_filter, Bool.and_comm]

theorem endReads_ends (s : State) : Ends s (endReads s es status) (es.map fun e => plainAnswer e.stream e.tag status) :=
  foldl_endRead_ends status es (Work.start s)

theorem endReads_rest (s : State) : readRest (endReads s es status) = readRest s :=
  (foldl_endRead_lists status es (Work.start s)).1

theorem endReads_reads (s : State) :
    (endReads s es status).reads = s.reads.filter fun x => es.all fun e => x.serial != e.serial :=
  (foldl_endRead_lists status es (Work.start s)).2

theorem endReads_all (s : State) : (endReads s s.reads status).reads = [] := by
  rw [endReads_reads, List.filter_eq_nil_iff]
  intro x hx hall
  rw [List.all_eq_true] at hall
  simpa using hall x hx

end EndReads

theorem countLost_ends (s : State) (st : Stream) : Ends s (countLost s st) [] :=
  { Ends.refl s with regs := rfl }

/-- The posted write queue without its records, each counted lost. -/
theorem dropPosted_eq (s : State) :
    ∃ u, Ends s u [] ∧ readRest u = readRest s ∧ u.reads = s.reads
      ∧ dropPosted s = { u with posted := { u.posted with records := [] } } := by
  have turns := Ends.foldl (f := fun s (p : PostedRecord) => countLost s p.stream) (g := fun _ => [])
    (fun s p _ => countLost_ends s p.stream) s.posted.records s rfl
  rw [List.flatMap_eq_nil_iff.2 fun _ _ => rfl] at turns
  have kept {β : Type} (p : State → β) (hp : ∀ s (q : PostedRecord), p (countLost s q.stream) = p s) :
      p (s.posted.records.foldl (fun s p => countLost s p.stream) s) = p s := foldl_unchanged hp _ s
  exact ⟨_, turns, kept readRest fun _ _ => rfl, kept State.reads fun _ _ => rfl, rfl⟩

/-! ## FAULTED (R158) -/

/-- What steps 1 to 4 of R158 leave, after the answers `front`. -/
structure FaultAnswered (s a : State) (front : List Response) : Prop where
  fabric : a.fabric = fabricAfter s front
  queue : a.groups.queue = []
  records : ∀ st, recordOf a st = .absent
  waitList : a.claims.waitList = []
  reads : a.reads = []
  posted : a.posted.records = []
  drain : a.drain = { s.drain with faultLoss := s.drain.faultLoss || !s.posted.records.isEmpty }
  decoder : a.decoder.guardTarget = if s.reloc.state = .none then s.decoder.guardTarget else none
  journal : a.journal = s.journal
  ckpt : a.ckpt = s.ckpt
  modes : a.modes = s.modes
  relocation : a.reloc.state = .none
  media : a.media = s.media
  now : a.now = s.now
  regs : RegsCounted s.regs a.regs

theorem cancelReloc_fields (s : State) :
    (cancelReloc s).reloc.state = .none
      ∧ (cancelReloc s).decoder.guardTarget = (if s.reloc.state = .none then s.decoder.guardTarget else none)
      ∧ RegsCounted s.regs (cancelReloc s).regs
      ∧ cancelReloc s = { s with
          decoder := (cancelReloc s).decoder, reloc := (cancelReloc s).reloc, regs := (cancelReloc s).regs } := by
  unfold cancelReloc
  by_cases h : s.reloc.state = .none
  · rw [if_pos h]
    exact ⟨h, (if_pos h).symm, rfl, rfl⟩
  · rw [if_neg h]
    exact ⟨rfl, (if_neg h).symm, rfl, rfl⟩

theorem markFaultLoss_eq (s : State) :
    markFaultLoss s =
      { s with drain := { s.drain with faultLoss := s.drain.faultLoss || !s.posted.records.isEmpty } } := by
  unfold markFaultLoss
  cases s.posted.records.isEmpty <;> simp

theorem faultAnswers_answered (s : State) :
    ∃ front, FaultAnswered s (faultAnswers s) front
      ∧ (SerialsDistinct s → front = closingAnswers s s.media.requests s.groups.queue .fault .portDown) := by
  obtain ⟨hstate, hguard, hregs, hcancel⟩ := cancelReloc_fields s
  obtain ⟨front, aborted, queue, records, held, reads, hfront⟩ :=
    massAbort_closes (cause := .fault) (by decide) (cancelReloc s)
  rw [faultAnswers]
  generalize massAbort (cancelReloc s) .fault = m at *
  have ended := endReads_ends .portDown m.reads m
  have endedRest := endReads_rest .portDown m.reads m
  have endedReads := endReads_all .portDown m
  generalize endReads m m.reads .portDown = r at *
  obtain ⟨u, dropped, droppedRest, droppedReads, hdrop⟩ := dropPosted_eq (markFaultLoss r)
  rw [hdrop]
  have whole := aborted.trans ended
  rw [markFaultLoss_eq] at dropped droppedRest droppedReads
  simp only [readRest, Prod.mk.injEq] at endedRest droppedRest
  obtain ⟨groups, claims, -⟩ := endedRest
  obtain ⟨groups', claims', -⟩ := droppedRest
  have fabric : (cancelReloc s).fabric = s.fabric := by rw [hcancel]
  refine ⟨front ++ m.reads.map fun e => plainAnswer e.stream e.tag .portDown, ?_, fun hd => ?_⟩
  · exact
      { fabric := by
          rw [dropped.fabric, fabricAfter_nil]
          exact whole.fabric.trans (by rw [fabricAfter, fabric]; rfl)
        queue := (congrArg Groups.queue (groups'.trans groups)).trans queue
        records := fun st => (congrArg (fun g : Groups => g.table.read st) (groups'.trans groups)).trans (records st)
        waitList := (congrArg Claims.waitList (claims'.trans claims)).trans held.1
        reads := droppedReads.trans endedReads
        posted := rfl
        drain := by
          rw [dropped.drain, whole.drain, whole.records, hcancel]
        decoder := by
          rw [dropped.decoder, whole.decoder]
          exact hguard
        journal := by
          rw [dropped.journal, whole.journal, hcancel]
        ckpt := by
          rw [dropped.ckpt, whole.ckpt, hcancel]
        modes := by
          rw [dropped.modes, whole.modes, hcancel]
        relocation := by
          rw [dropped.reloc, whole.reloc]
          exact hstate
        media := by
          rw [dropped.media, whole.media, hcancel]
        now := by
          rw [dropped.now, whole.now, hcancel]
        regs := hregs.trans (whole.regs.trans dropped.regs) }
  · have groups : (cancelReloc s).groups = s.groups := by rw [hcancel]
    have media : (cancelReloc s).media = s.media := by rw [hcancel]
    have sReads : (cancelReloc s).reads = s.reads := by rw [hcancel]
    have answers : heldAnswers (cancelReloc s) .fault = heldAnswers s .fault := by
      rw [hcancel]
      rfl
    rw [hfront (by rw [SerialsDistinct, groups]; exact hd), reads, groups, media, sReads]
    rw [show AbortCause.fault.reason = .fault from rfl, answers]
    rfl

/-- The part in FAULTED, before a drain passes it on to HALTED. -/
def faulted (s : State) : State := setMode (setFlag (faultReport (faultQuiet (faultAnswers s))) .fault) .faulted

theorem enterFaulted_eq (s : State) :
    enterFaulted s = if inDrain s then enterHalted (faulted s) .incomplete else faulted s := rfl

theorem askLinkReset_eq (s : State) :
    ∃ w, askLinkReset s = { s with media := { s.media with linkOwed := true }, wires := w } := by
  unfold askLinkReset
  split
  case isTrue h =>
    refine ⟨s.wires, ?_⟩
    rw [← h]
  case isFalse => exact ⟨_, rfl⟩

/-- What steps 5 to 8 of R158 change. -/
theorem faultQuiet_eq (s : State) :
    ∃ w, faultQuiet s =
      { s with
        staging := Staging.reset
        journal := { s.journal with writer := .idle }
        apply := Apply.reset
        ckpt := { s.ckpt with inFlight := none, trigger := false }
        recovery := none
        format := none
        media := { s.media with requests := [], linkOwed := true, linkDeadline := none }
        wires := w } := by
  have idle : idleWorkers s =
      { s with
        journal := { s.journal with writer := .idle }
        apply := Apply.reset
        ckpt := { s.ckpt with inFlight := none, trigger := false } } := rfl
  rw [faultQuiet, idle]
  simp only [abandonAll, reinitStaging]
  obtain ⟨w, hw⟩ := askLinkReset_eq
    { s with
      staging := Staging.reset
      journal := { s.journal with writer := .idle }
      apply := Apply.reset
      ckpt := { s.ckpt with inFlight := none, trigger := false }
      recovery := none
      format := none
      media := { s.media with requests := [], linkDeadline := none } }
  exact ⟨w, hw⟩

/-- The mode decides what step 9 of R158 reports. -/
theorem faultReport_fields (s : State) :
    faultReport s = { s with modes := (faultReport s).modes, regs := (faultReport s).regs }
      ∧ RegsCounted s.regs (faultReport s).regs
      ∧ (inDrain s = false → (faultReport s).modes.startStatus =
          if s.modes.mode = .recovering ∨ s.modes.mode = .formatting then .mediaFault else s.modes.startStatus)
      ∧ (inDrain s = true → (faultReport s).modes.startStatus = s.modes.startStatus)
      ∧ (s.modes.mode = .recovering → flagSet (faultReport s) .recoveryDone = true) := by
  unfold faultReport inDrain
  cases hm : s.modes.mode with
  | recovering =>
    exact ⟨rfl, rfl, fun _ => (if_pos (.inl rfl)).symm, fun h => by simp at h, fun _ => flagged_set s.regs .recoveryDone⟩
  | formatting =>
    by_cases hd : s.drain.status = .active
    · simp [hd, RegsCounted]
    · simp only [hd, if_false]
      exact ⟨rfl, rfl, fun _ => (if_pos (.inr trivial)).symm, fun h => by simp [hd] at h, fun h => by cases h⟩
  | idle | ready | draining | halted | faulted =>
    exact ⟨rfl, rfl, fun _ => (if_neg (by simp)).symm, fun _ => rfl, fun h => by cases h⟩

/-- The part in FAULTED: what is left after the answers, with the workers idle, the port abandoned and the report made. -/
theorem faulted_eq (s : State) :
    ∃ w m r, faulted s =
        { faultAnswers s with
          staging := Staging.reset
          journal := { (faultAnswers s).journal with writer := .idle }
          apply := Apply.reset
          ckpt := { (faultAnswers s).ckpt with inFlight := none, trigger := false }
          recovery := none
          format := none
          media := { (faultAnswers s).media with requests := [], linkOwed := true, linkDeadline := none }
          modes := m
          regs := flagged r .fault
          wires := w }
      ∧ m.mode = .faulted ∧ RegsCounted (faultAnswers s).regs r
      ∧ (inDrain (faultAnswers s) = false → m.startStatus =
          if (faultAnswers s).modes.mode = .recovering ∨ (faultAnswers s).modes.mode = .formatting then .mediaFault
          else (faultAnswers s).modes.startStatus)
      ∧ (inDrain (faultAnswers s) = true → m.startStatus = (faultAnswers s).modes.startStatus)
      ∧ ((faultAnswers s).modes.mode = .recovering → r.flags.getLsbD EventFlag.recoveryDone.index = true) := by
  rw [faulted]
  generalize faultAnswers s = a
  obtain ⟨w, quiet⟩ := faultQuiet_eq a
  obtain ⟨report, regs, start, startDrain, done⟩ := faultReport_fields (faultQuiet a)
  rw [report]
  have drain : inDrain (faultQuiet a) = inDrain a := by rw [quiet]; rfl
  have modes : (faultQuiet a).modes = a.modes := by rw [quiet]
  have regs' : (faultQuiet a).regs = a.regs := by rw [quiet]
  rw [drain, modes] at start startDrain
  rw [modes] at done
  rw [regs'] at regs
  refine ⟨w, { (faultReport (faultQuiet a)).modes with mode := .faulted }, (faultReport (faultQuiet a)).regs, ?_, rfl, regs,
    start, startDrain, done⟩
  generalize (faultReport (faultQuiet a)).modes = m
  generalize (faultReport (faultQuiet a)).regs = r
  rw [quiet]
  rfl

/-- What FAULTED is entered with, and a drain's HALTED after it, in terms of steps 1 to 4 of R158. -/
structure FaultedCore (s f : State) (front : List Response) : Prop where
  fabric : f.fabric = fabricAfter s front
  queue : f.groups.queue = []
  posted : f.posted.records = []
  requests : f.media.requests = []
  fault : flagSet f .fault = true
  config : f.regs.config = s.regs.config
  start : inDrain s = true → f.modes.startStatus = s.modes.startStatus
  whole : inDrain s = false → FaultedFrom s f

theorem RegsCounted.config {r r' : Regs} (h : RegsCounted r r') : r'.config = r.config := by
  rw [RegsCounted] at h
  rw [h]
  rfl

theorem faulted_core (s : State) :
    ∃ front, FaultedCore s (faulted s) front
      ∧ (SerialsDistinct s → front = closingAnswers s s.media.requests s.groups.queue .fault .portDown) := by
  obtain ⟨front, h, hfront⟩ := faultAnswers_answered s
  refine ⟨front, ?_, hfront⟩
  obtain ⟨w, m, r, hf, hmode, hregs, hstart, hdrain, hdone⟩ := faulted_eq s
  rw [hf]
  generalize faultAnswers s = a at h hregs hstart hdrain hdone ⊢
  have config : r.config = s.regs.config := hregs.config.trans h.regs.config
  have drain : inDrain a = inDrain s := by
    rw [inDrain, h.modes, h.drain, inDrain]
  rw [drain, h.modes] at hstart hdrain
  rw [h.modes] at hdone
  exact
    { fabric := h.fabric
      queue := h.queue
      posted := h.posted
      requests := rfl
      fault := flagged_set r .fault
      config := config
      start := hdrain
      whole := fun hn =>
        { mode := hmode
          flag := flagged_set r .fault
          groups := ⟨h.queue, h.records⟩
          held := ⟨h.waitList, rfl⟩
          staging := rfl
          reads := h.reads
          posted := h.posted
          faultLoss := by rw [h.drain]
          journal := by rw [h.journal]
          apply := rfl
          ckpt := ⟨rfl, rfl⟩
          runs := ⟨rfl, rfl⟩
          reloc := ⟨h.relocation, h.decoder⟩
          requests := rfl
          link := ⟨rfl, rfl⟩
          config := config
          start := hstart hn
          recoveryDone := fun hr => by
            simp [flagSet, flagged, hdone hr]
          egress := by
            rw [h.fabric]
            exact List.prefix_append _ _ } }

end Sys2Proof.Machine

/-! PROOF. The causes of FAULTED (R100, R149, R158). -/

namespace Sys2Proof.Machine

/-! ## The causes of FAULTED (R158) -/

/-- What a cause of FAULTED leaves in `u` before it is entered, after the answers `front`. -/
structure BeforeFault (s u : State) (front : List Response) : Prop where
  fabric : u.fabric = fabricAfter s front
  posted : u.posted.records = s.posted.records
  drain : u.drain = s.drain
  journal : u.journal = s.journal
  modes : u.modes = s.modes
  config : u.regs.config = s.regs.config
  guard : (if u.reloc.state = .none then u.decoder.guardTarget else none) =
    if s.reloc.state = .none then s.decoder.guardTarget else none
  held : heldAnswers u .fault = heldAnswers s .fault
  reads : u.reads = s.reads

theorem BeforeFault.refl (s : State) : BeforeFault s s [] where
  fabric := (fabricAfter_nil s).symm
  posted := rfl
  drain := rfl
  journal := rfl
  modes := rfl
  config := rfl
  guard := rfl
  held := rfl
  reads := rfl

section Before

variable {s u : State} {front : List Response}

theorem BeforeFault.inDrain_eq (h : BeforeFault s u front) : inDrain u = inDrain s := by
  rw [inDrain, inDrain, h.modes, h.drain]

/-- The entry to FAULTED in terms of the state before its cause. -/
theorem FaultedFrom.of_before {t : State} (h : BeforeFault s u front) (k : FaultedFrom u t) : FaultedFrom s t :=
  { k with
    faultLoss := by rw [k.faultLoss, h.drain, h.posted]
    journal := by rw [k.journal, h.journal]
    reloc := ⟨k.reloc.1, k.reloc.2.trans h.guard⟩
    config := k.config.trans h.config
    start := by rw [k.start, h.modes]
    recoveryDone := fun hr => k.recoveryDone (by rw [h.modes]; exact hr)
    egress := by
      refine List.IsPrefix.trans ?_ k.egress
      rw [h.fabric]
      exact List.prefix_append _ _ }

/-- Entry to FAULTED by a cause: outside a drain, and in one, which goes on to HALTED (R149, R158). -/
def EntersFaulted (c : Instr) (s : State) : Prop :=
  (inDrain s = false → Completes c s fun t =>
      FaultedFrom s t ∧ (SerialsDistinct s → t.fabric.egress = s.fabric.egress ++ answersAtFault c s))
    ∧ (inDrain s = true → Completes c s fun t =>
      (∃ front, HaltedWith s t .incomplete front ∧ (SerialsDistinct s → front = answersAtFault c s))
        ∧ flagSet t .fault = true ∧ t.posted.records = [] ∧ t.media.requests = []
        ∧ t.modes.startStatus = s.modes.startStatus)

/-- HALTED after an entry to FAULTED in a drain (R149). -/
theorem enterHalted_of_core {f : State} {back : List Response} (h : BeforeFault s u front) (core : FaultedCore u f back)
    (hd : inDrain u = true) :
    HaltedWith s (enterHalted f .incomplete) .incomplete (front ++ back)
      ∧ flagSet (enterHalted f .incomplete) .fault = true ∧ (enterHalted f .incomplete).posted.records = []
      ∧ (enterHalted f .incomplete).media.requests = []
      ∧ (enterHalted f .incomplete).modes.startStatus = s.modes.startStatus := by
  have fabric : f.fabric = fabricAfter s (front ++ back) := by
    rw [core.fabric, fabricAfter, h.fabric]
    simp [fabricAfter, Nat.sub_sub]
  have halted := enterHalted_haltedWith f .incomplete
  have owed : owedAtHalt f = [] := by
    rw [owedAtHalt, core.queue]
    rfl
  rw [owed] at halted
  have rest := enterHalted_eq f .incomplete
  rw [core.queue] at rest
  refine ⟨{ halted with config := halted.config.trans (core.config.trans h.config), queues := halted.queues.behind fabric },
    ?_, ?_, ?_, ?_⟩
  · have fault := core.fault
    simp only [flagSet] at fault
    rw [rest]
    simp [flagSet, flagged, fault]
  · rw [rest]
    exact core.posted
  · rw [rest]
    exact core.requests
  · rw [rest]
    exact (core.start hd).trans (by rw [h.modes])

theorem entersFaulted {c : Instr} (hc : exec c s = .next (enterFaulted u)) (h : BeforeFault s u front)
    (hd : SerialsDistinct s → SerialsDistinct u
      ∧ front ++ closingAnswers u u.media.requests u.groups.queue .fault .portDown = answersAtFault c s) :
    EntersFaulted c s := by
  obtain ⟨back, core, hback⟩ := faulted_core u
  have whole (hs : SerialsDistinct s) : front ++ back = answersAtFault c s := by
    obtain ⟨hu, answers⟩ := hd hs
    rw [hback hu, answers]
  rw [enterFaulted_eq, h.inDrain_eq] at hc
  generalize faulted u = f at hc core
  refine ⟨fun hn => ⟨f, by rw [hc, hn]; rfl, (core.whole (h.inDrain_eq.trans hn)).of_before h, fun hs => ?_⟩, fun hn => ?_⟩
  · rw [core.fabric, fabricAfter, h.fabric, ← whole hs]
    simp [fabricAfter]
  · obtain ⟨halted, rest⟩ := enterHalted_of_core h core (h.inDrain_eq.trans hn)
    exact ⟨_, by rw [hc, hn]; rfl, ⟨_, halted, whole⟩, rest⟩

/-- A cause that ends no entry first. -/
theorem entersFaulted_direct {c : Instr} (hc : exec c s = .next (enterFaulted u)) (h : BeforeFault s u [])
    (he : endedBefore c s = none) (hq : u.groups.queue = s.groups.queue)
    (hr : u.media.requests = requestsAtFault c s) : EntersFaulted c s := by
  refine entersFaulted hc h fun hs => ⟨by rw [SerialsDistinct, hq]; exact hs, ?_⟩
  rw [answersAtFault, he, closingAnswers, closingAnswers, h.held, h.reads, hq, hr]
  simp

end Before

section Causes

variable {s : State} {t : MediaTag}

theorem dropTag_beforeFault (s : State) (t : MediaTag) : BeforeFault s (dropTag s t) [] :=
  { BeforeFault.refl s with }

theorem countCheckpointError_beforeFault (s : State) (t : MediaTag) :
    BeforeFault s (countCheckpointError (dropTag s t)) [] :=
  { BeforeFault.refl s with }

theorem mediaTimeout_entersFaulted (h : Fatal (.mediaTimeout t) s) : EntersFaulted (.mediaTimeout t) s := by
  obtain ⟨r, hr, n, d, hs, hd⟩ := h
  have due : responseExpired s t = true := by
    rw [responseExpired, List.any_eq_true]
    exact ⟨r, hr, by simpa [hs] using hd⟩
  exact entersFaulted_direct (congrArg Host.Outcome.next (if_pos due)) (.refl s) rfl rfl rfl

theorem linkResetTimeout_entersFaulted (h : Fatal .linkResetTimeout s) : EntersFaulted .linkResetTimeout s := by
  obtain ⟨d, hs, hd⟩ := h
  have due : linkExpired s = true := by
    simpa [linkExpired, hs] using hd
  exact entersFaulted_direct (congrArg Host.Outcome.next (if_pos due)) (.refl s) rfl rfl rfl

theorem homeWriteFail_entersFaulted (h : Fatal (.homeWriteFail t) s) : EntersFaulted (.homeWriteFail t) s := by
  obtain ⟨n, hcarry⟩ := h
  exact entersFaulted_direct (congrArg Host.Outcome.next (onOutcome_carries hcarry rfl)) (dropTag_beforeFault s t) rfl rfl rfl

theorem checkpointFailed_fatal (h : s.modes.mode = .recovering ∨ 2 ≤ s.ckpt.errors) :
    checkpointFailed s = enterFaulted (countCheckpointError s) :=
  if_pos (h.imp id fun he => Nat.succ_le_succ he)

theorem checkpointFail_entersFaulted (h : Fatal (.checkpointFail t) s) : EntersFaulted (.checkpointFail t) s := by
  obtain ⟨hcarry, hfatal⟩ := h
  exact entersFaulted_direct
    (congrArg Host.Outcome.next ((onOutcome_carries hcarry rfl).trans (checkpointFailed_fatal hfatal)))
    (countCheckpointError_beforeFault s t) rfl rfl rfl

theorem restoringSbFail_entersFaulted (h : Fatal (.restoringSbFail t) s) : EntersFaulted (.restoringSbFail t) s := by
  obtain ⟨⟨x, hcarry⟩, y, hstate⟩ := h
  have failed : restoringFailed (dropTag s t) = enterFaulted (endReloc (dropTag s t) .failed) := by
    simp only [restoringFailed, dropTag_fields, hstate]
  have before : BeforeFault s (endReloc (dropTag s t) .failed) [] :=
    { BeforeFault.refl s with guard := by rw [hstate]; rfl }
  exact entersFaulted_direct (congrArg Host.Outcome.next ((onOutcome_carries hcarry rfl).trans failed)) before rfl rfl rfl

theorem recoveryMediaFail_entersFaulted (h : Fatal (.recoveryMediaFail t) s) :
    EntersFaulted (.recoveryMediaFail t) s := by
  have read : recoveryReadFailed (dropTag s t) = enterFaulted (dropTag s t) ∨ s.modes.mode ≠ .recovering := by
    by_cases hm : s.modes.mode = .recovering
    · exact .inl (if_pos hm)
    · exact .inr hm
  obtain ⟨i, hcarry⟩ | ⟨hmode, q, hcarry, hq⟩ := h
  · exact entersFaulted_direct (congrArg Host.Outcome.next (onOutcome_carries hcarry rfl)) (dropTag_beforeFault s t) rfl rfl rfl
  · replace read := read.resolve_right (by simpa using hmode)
    cases q with
    | superblockRead x | headerRead | recordRead i =>
      exact entersFaulted_direct (congrArg Host.Outcome.next ((onOutcome_carries hcarry rfl).trans read))
        (dropTag_beforeFault s t) rfl rfl rfl
    | replayWrite i =>
      exact entersFaulted_direct (congrArg Host.Outcome.next (onOutcome_carries hcarry rfl)) (dropTag_beforeFault s t)
        rfl rfl rfl
    | checkpoint =>
      exact entersFaulted_direct
        (congrArg Host.Outcome.next
          ((onOutcome_carries hcarry (if_pos hmode)).trans (checkpointFailed_fatal (.inl hmode))))
        (countCheckpointError_beforeFault s t) rfl rfl rfl
    | homeRead | posted | journalLine | commitLine | homeWrite | formatLine | relocLine | retiringSb | restoringSb =>
      simp [Requester.isRecovery] at hq

theorem commitLineFail_entersFaulted (h : Fatal (.commitLineFail t) s) : EntersFaulted (.commitLineFail t) s := by
  have runs : exec (.commitLineFail t) s = .next (commitLineFailed (dropTag s t)) :=
    congrArg Host.Outcome.next (onOutcome_carries h rfl)
  have same : journalingEntry (dropTag s t) = journalingEntry s := rfl
  cases he : journalingEntry s with
  | none =>
    rw [commitLineFailed, same, he] at runs
    exact entersFaulted_direct runs (dropTag_beforeFault s t) he rfl rfl
  | some e =>
    rw [commitLineFailed, same, he] at runs
    have before : BeforeFault s (indoubtEntry (dropTag s t) e) [plainAnswer e.stream e.tag .indoubt] :=
      { BeforeFault.refl s with fabric := rfl }
    have queue : (indoubtEntry (dropTag s t) e).groups.queue = s.groups.queue.filter fun x => x.serial != e.serial := rfl
    refine entersFaulted runs before fun hs => ⟨?_, ?_⟩
    · rw [SerialsDistinct, queue]
      exact hs.sublist (List.filter_sublist.map _)
    · have ended : endedBefore (.commitLineFail t) s = some e := he
      rw [answersAtFault, ended, closingAnswers, closingAnswers, before.held, before.reads, queue]
      rfl

end Causes

/-- Settles O27: each cause enters FAULTED from a state that its own effect has left. -/
theorem fatalCausesEnterFaulted : Obligations.FatalCausesEnterFaulted := by
  have enters (c : Instr) (s : State) (h : Fatal c s) : EntersFaulted c s := by
    cases c with
    | mediaTimeout t => exact mediaTimeout_entersFaulted h
    | commitLineFail t => exact commitLineFail_entersFaulted h
    | homeWriteFail t => exact homeWriteFail_entersFaulted h
    | checkpointFail t => exact checkpointFail_entersFaulted h
    | restoringSbFail t => exact restoringSbFail_entersFaulted h
    | recoveryMediaFail t => exact recoveryMediaFail_entersFaulted h
    | linkResetTimeout => exact linkResetTimeout_entersFaulted h
    | _ => exact absurd h id
  exact ⟨fun c s h => (enters c s h).1, fun c s h => (enters c s h).2⟩

end Sys2Proof.Machine

/-! PROOF. The end of the drain budget (R146, R148). -/

namespace Sys2Proof.Machine

/-! ## Answers before an entry to HALTED (R147) -/

/-- The queues' answers after answers that had entered before. -/
theorem QueuesAnswered.after {s u t : State} {front back : List Response} {status : Status}
    (h : QueuesAnswered u t back status) (hu : u.fabric = fabricAfter s front) :
    QueuesAnswered s t (front ++ back) status := by
  have queues (st : Stream) : ingressOf u st = ingressOf s st := by
    rw [ingressOf, hu]
    rfl
  obtain ⟨⟨answers, hegress, hanswers⟩, answered, credits, taken, settled⟩ := h
  refine ⟨⟨answers, ?_, fun st => ?_⟩, answered, fun st => ?_, ?_, settled⟩
  · rw [hegress, hu]
    simp [fabricAfter]
  · rw [hanswers, queues]
  · rw [credits, queues, hu]
    rfl
  · rw [taken, hu]
    simp [fabricAfter, Nat.sub_sub]

/-- HALTED entered from a state whose own answers were `front`. -/
theorem enterHalted_after {s a : State} {front : List Response} (hf : a.fabric = fabricAfter s front)
    (hc : a.regs.config = s.regs.config) (status : DrainStatus) :
    HaltedWith s (enterHalted a status) status (front ++ owedAtHalt a) :=
  have halted := enterHalted_haltedWith a status
  { halted with config := halted.config.trans hc, queues := halted.queues.after hf }

/-- HALTED entered with no answer before. -/
theorem enterHalted_direct {s a : State} (hf : a.fabric = s.fabric) (hc : a.regs.config = s.regs.config)
    (hq : a.groups.queue = s.groups.queue) (status : DrainStatus) :
    HaltedWith s (enterHalted a status) status (owedAtHalt s) := by
  have halted := enterHalted_after (hf.trans (fabricAfter_nil s).symm) hc status
  rwa [List.nil_append, owedAtHalt, hq] at halted

/-- A flag that was set before stays set in HALTED. -/
theorem flagSet_enterHalted {a : State} {f : EventFlag} (h : flagSet a f = true) (status : DrainStatus) :
    flagSet (enterHalted a status) f = true :=
  flagSet_kept (enterHalted_path a status).keepsFlags h

/-! ## DRAIN_BUDGET_EXPIRY (R146, R148) -/

section Budget

variable {s : State}

theorem exec_drainBudgetExpiry {d : Nat} (h : s.drain.deadline = some d) (hd : d ≤ s.now) :
    exec .drainBudgetExpiry s = .next (expireBudget s) :=
  congrArg Host.Outcome.next (if_pos (by simpa [budgetExpired, h] using hd))

theorem endWriterGroup_ends (s : State) :
    Ends s (endWriterGroup s) ((journalingEntry s).toList.map (writerAnswer s.media.requests .powerfail)) := by
  unfold endWriterGroup
  cases journalingEntry s with
  | none => exact .refl s
  | some e => exact endJournaling_ends s e .powerfail

theorem endWriterGroup_lists (s : State) :
    (endWriterGroup s).groups.queue =
        s.groups.queue.filter (fun e => (journalingEntry s).all fun x => e.serial != x.serial)
      ∧ (endWriterGroup s).reads = s.reads := by
  unfold endWriterGroup
  cases journalingEntry s with
  | none => simp
  | some e =>
    obtain ⟨queue, rest⟩ := endJournaling_lists s e .powerfail
    simp only [entryRest, Prod.mk.injEq] at rest
    obtain ⟨-, -, -, reads⟩ := rest
    exact ⟨queue, reads⟩

/-- The flag of a writer's group that ends. -/
theorem endWriterGroup_flag {e : Entry} (he : journalingEntry s = some e) :
    flagSet (endWriterGroup s) (if commitLineIssued s then .indoubt else .abort) = true := by
  simp only [endWriterGroup, he, endJournaling]
  split
  · exact flagged_set s.regs .indoubt
  · exact flagged_set { s.regs with abortedCount := s.regs.abortedCount + 1 } .abort

theorem dropPosted_flag (h : s.posted.records ≠ []) : flagSet (dropPosted s) .postedLost = true := by
  obtain ⟨p, ps, hps⟩ := List.exists_cons_of_ne_nil h
  have first : flagSet (countLost s p.stream) .postedLost = true := flagged_set s.regs .postedLost
  have rest := (Path.foldl (fun t (p : PostedRecord) => countLost_path t p.stream) ps (countLost s p.stream)).keepsFlags
  rw [dropPosted, hps]
  exact flagSet_kept rest first

/-- The part at the budget's expiry in DRAINING, before HALTED. -/
def budgetSpent (s : State) : State :=
  dropPosted (endReads (abandonAll (endWriterGroup s)) (abandonAll (endWriterGroup s)).reads .powerfail)

/-- What the budget's expiry ends before HALTED is entered (R146). -/
structure BudgetSpent (s a : State) : Prop where
  fabric : a.fabric = fabricAfter s
    ((journalingEntry s).toList.map (writerAnswer s.media.requests .powerfail)
      ++ s.reads.map fun e => plainAnswer e.stream e.tag .powerfail)
  queue : a.groups.queue = s.groups.queue.filter fun e => (journalingEntry s).all fun x => e.serial != x.serial
  config : a.regs.config = s.regs.config
  requests : a.media.requests = []
  records : a.posted.records = []
  journal : a.journal = s.journal
  lost : s.posted.records ≠ [] → flagSet a .postedLost = true
  flags : FlagsKept (endWriterGroup s).regs a.regs

theorem budgetSpent_spec (s : State) : BudgetSpent s (budgetSpent s) := by
  have ended := endWriterGroup_ends s
  obtain ⟨queue, reads⟩ := endWriterGroup_lists s
  rw [budgetSpent]
  generalize hx : endWriterGroup s = x at ended queue reads ⊢
  have read := endReads_ends .powerfail (abandonAll x).reads (abandonAll x)
  have readRest' := endReads_rest .powerfail (abandonAll x).reads (abandonAll x)
  have readPath := endReads_path (abandonAll x) (abandonAll x).reads .powerfail
  generalize endReads (abandonAll x) (abandonAll x).reads .powerfail = y at read readRest' readPath ⊢
  obtain ⟨u, dropped, droppedRest, -, hdrop⟩ := dropPosted_eq y
  have dropPath := dropPosted_path y
  have lost := dropPosted_flag (s := y)
  rw [hdrop] at dropPath lost ⊢
  simp only [readRest, Prod.mk.injEq] at readRest' droppedRest
  exact
    { fabric := by
        rw [← reads]
        exact (dropped.fabric.trans (fabricAfter_nil y)).trans
          (read.fabric.trans (by
            rw [fabricAfter, show (abandonAll x).fabric = x.fabric from rfl, ended.fabric]
            simp [fabricAfter, Nat.sub_sub]))
      queue := (congrArg Groups.queue (droppedRest.1.trans readRest'.1)).trans queue
      config := dropped.regs.config.trans (read.regs.config.trans ended.regs.config)
      requests := by
        rw [dropped.media, read.media]
        rfl
      records := rfl
      journal := dropped.journal.trans (read.journal.trans ended.journal)
      lost := fun h => lost (by
        rw [read.records]
        exact fun hn => h (ended.records.symm.trans hn))
      flags := by
        rw [hx]
        exact Path.keepsFlags (s := abandonAll x) (readPath.trans dropPath) }

end Budget

/-- Settles O29: in DRAINING what the drain has not done is ended, in FORMATTING the issued lines are abandoned. -/
theorem drainBudgetExpiryEntersHalted : Obligations.DrainBudgetExpiryEntersHalted := by
  intro s d hs hd
  have runs := exec_drainBudgetExpiry hs hd
  refine ⟨fun hm => ?draining, fun hm ha => ?formatting⟩
  case formatting =>
    have expires : expireBudget s = enterHalted (abandonAll s) .incomplete := by
      simp only [expireBudget, hm, ha, if_true]
    rw [expires] at runs
    refine ⟨_, runs, enterHalted_direct (s := s) (a := abandonAll s) rfl rfl rfl .incomplete, ?_⟩
    rw [enterHalted_eq (abandonAll s)]
    rfl
  case draining =>
    have expires : expireBudget s = enterHalted (budgetSpent s) .incomplete := by
      simp only [expireBudget, hm]
      rfl
    rw [expires] at runs
    have spent := budgetSpent_spec s
    have group (e : Entry) (he : journalingEntry s = some e) := flagSet_kept spent.flags (endWriterGroup_flag he)
    generalize budgetSpent s = a at runs spent group
    have halted := enterHalted_after spent.fabric spent.config .incomplete
    rw [owedAtHalt, spent.queue] at halted
    have rest := enterHalted_eq a .incomplete
    have records : (enterHalted a .incomplete).posted.records = a.posted.records := by
      rw [rest]
      exact (foldl_sendOwed_eq a.groups.queue a).2.2
    have requests : (enterHalted a .incomplete).media.requests = a.media.requests := by rw [rest]
    have journal : (enterHalted a .incomplete).journal = { a.journal with writer := .idle } := by rw [rest]
    have flag {f : EventFlag} (h : flagSet a f = true) := flagSet_enterHalted h .incomplete
    generalize enterHalted a .incomplete = t at runs halted records requests journal flag
    have prefix_ : a.fabric.egress <+: t.fabric.egress := by
      obtain ⟨answers, hanswers, -⟩ := halted.queues.entered
      rw [hanswers, spent.fabric]
      simp [fabricAfter]
    refine ⟨t, runs, halted, requests.trans spent.requests, records.trans spent.records, fun h => flag (spent.lost h),
      by rw [journal, spent.journal], fun e he => ?_⟩
    have issuedIff : (∃ r ∈ s.media.requests, r.requester = .commitLine ∧ r.outstanding = true) ↔
        commitLineIssued s = true := by
      simp [commitLineIssued]
    have answer : s.fabric.egress ++ [writerAnswer s.media.requests .powerfail e] <+: t.fabric.egress := by
      refine List.IsPrefix.trans ?_ prefix_
      rw [spent.fabric, fabricAfter, he]
      simp
    refine ⟨fun hissued => ?_, fun hnot => ?_⟩
    · have hi := issuedIff.1 hissued
      have ended := group e he
      rw [if_pos hi] at ended
      rw [writerAnswer, if_pos (by exact hi)] at answer
      exact ⟨answer, flag ended⟩
    · have hi := issuedIff.not.1 hnot
      have ended := group e he
      rw [if_neg hi] at ended
      rw [writerAnswer, if_neg (by exact hi)] at answer
      exact ⟨answer, flag ended⟩

end Sys2Proof.Machine

/-! PROOF. Entry to DRAINING (R81, R108, R140, R143). -/

namespace Sys2Proof.Machine

/-! ## Entry to DRAINING (R143) -/

/-- Queues answered twice with one status. -/
theorem QueuesAnswered.trans {s u t : State} {front : List Response} {status : Status}
    (h : QueuesAnswered s u front status) (k : QueuesAnswered u t [] status) : QueuesAnswered s t front status := by
  obtain ⟨⟨first, hegress, hfirst⟩, -, hcredits, htaken, -⟩ := h
  obtain ⟨⟨second, kegress, ksecond⟩, answered, kcredits, ktaken, settled⟩ := k
  refine ⟨⟨first ++ second, ?_, fun st => ?_⟩, answered, fun st => (kcredits st).trans (hcredits st), ?_, settled⟩
  · rw [kegress, hegress]
    simp
  · rw [List.filter_append, List.append_assoc, ksecond, hfirst]
  · rw [ktaken, htaken]
    rfl

/-- The part when its answers at entry to DRAINING have been given, before the queues'. -/
def powerfailed (s : State) : State :=
  powerfailReads (massAbort (withdraw (cancelReloc s) Requester.isReloc) .powerfail)

/-- The answers of entry to DRAINING before those of the queues, in their order (R143). -/
def powerfailAnswers (s : State) : List Response :=
  heldAnswers s .powerfail
    ++ s.groups.queue.flatMap (fun e => if e.state = .sealed then [abortedAnswer e.stream e.tag .powerfail] else [])
    ++ (s.reads.filter fun e => e.home == .waiting).map fun e => plainAnswer e.stream e.tag .powerfail

/-- What entry to DRAINING has ended, before the queues are answered (R143 steps 1 to 4). -/
structure PowerFailed (s p : State) : Prop where
  fabric : p.fabric = fabricAfter s (powerfailAnswers s)
  now : p.now = s.now
  records : ∀ st, recordOf p st = .absent
  unsealed : ∀ e ∈ p.groups.queue, e ∈ s.groups.queue ∧ e.state ≠ .sealed
  queue : SerialsDistinct s → p.groups.queue = s.groups.queue.filter fun e => e.state != .sealed
  held : NoneHeld p
  reads : ∀ e ∈ p.reads, e.home ≠ .waiting
  posted : p.posted.records = s.posted.records
  journal : p.journal = s.journal
  modes : p.modes = s.modes
  drain : p.drain = s.drain
  reloc : p.reloc.state = .none
  requests : p.media.requests = s.media.requests.filter fun r =>
    r.outstanding || !(r.requester.isHomeRead || r.requester.isReloc)
  link : p.media.linkOwed = s.media.linkOwed
  regs : RegsCounted s.regs p.regs

theorem filter_withdrawn (rs : List MediaReq) (p q : Requester → Bool) :
    ((rs.filter fun r => r.outstanding || !p r.requester).filter fun r => r.outstanding || !q r.requester) =
      rs.filter fun r => r.outstanding || !(q r.requester || p r.requester) := by
  rw [List.filter_filter]
  refine List.filter_congr fun r _ => ?_
  cases r.outstanding <;> cases p r.requester <;> cases q r.requester <;> rfl

theorem powerfailed_spec (s : State) : PowerFailed s (powerfailed s) := by
  obtain ⟨hstate, -, hregs, hcancel⟩ := cancelReloc_fields s
  have withdrawn : withdraw (cancelReloc s) Requester.isReloc =
      { s with
        decoder := (cancelReloc s).decoder
        reloc := (cancelReloc s).reloc
        regs := (cancelReloc s).regs
        media :=
          { s.media with requests := s.media.requests.filter fun r => r.outstanding || !Requester.isReloc r.requester } } := by
    rw [hcancel]
    rfl
  rw [powerfailed, withdrawn]
  generalize (cancelReloc s).decoder = decoder
  generalize (cancelReloc s).reloc = reloc at hstate ⊢
  generalize (cancelReloc s).regs = regs at hregs ⊢
  generalize hw : ({ s with
    decoder
    reloc
    regs
    media :=
      { s.media with requests := s.media.requests.filter fun r => r.outstanding || !Requester.isReloc r.requester } } :
        State) = w
  rw [massAbort_powerfail]
  have ends := entriesAborted_ends w .powerfail
  obtain ⟨queue, records, held, reads⟩ := entriesAborted_lists w .powerfail
  have distinct := entriesAborted_powerfail_queue (s := w)
  generalize entriesAborted w .powerfail = m at ends queue records held reads distinct ⊢
  rw [powerfailReads]
  have read := endReads_ends .powerfail (m.reads.filter TrackerEntry.waiting) m
  have rest := endReads_rest .powerfail (m.reads.filter TrackerEntry.waiting) m
  have left := endReads_reads .powerfail (m.reads.filter TrackerEntry.waiting) m
  generalize endReads m (m.reads.filter TrackerEntry.waiting) .powerfail = r at read rest left ⊢
  simp only [readRest, Prod.mk.injEq] at rest
  obtain ⟨groups, claims, slots⟩ := rest
  have whole := ends.trans read
  have sealed (rs : List MediaReq) : (AbortCause.answers .powerfail rs) =
      fun e => if e.state = .sealed then [abortedAnswer e.stream e.tag .powerfail] else [] :=
    funext (answers_powerfail rs)
  rw [sealed, reads] at whole
  rw [reads] at left
  subst hw
  exact
    { fabric := whole.fabric
      now := whole.now
      records := fun st => (congrArg (fun g : Groups => g.table.read st) groups).trans (records st)
      unsealed := fun e he => by
        have hm : e ∈ m.groups.queue := groups ▸ he
        rw [queue] at hm
        obtain ⟨hq, hall⟩ := List.mem_filter.1 hm
        refine ⟨hq, fun hs => ?_⟩
        rw [List.all_eq_true] at hall
        simpa [AbortCause.ends, hs] using hall e hq
      queue := fun hd => (congrArg Groups.queue groups).trans (distinct hd)
      held := ⟨(congrArg Claims.waitList claims).trans held.1, slots.trans held.2⟩
      reads := fun e he hwait => by
        have hm : e ∈ r.reads := he
        rw [left] at hm
        obtain ⟨hq, hall⟩ := List.mem_filter.1 hm
        rw [List.all_eq_true] at hall
        simpa using hall e (List.mem_filter.2 ⟨hq, by simpa [TrackerEntry.waiting] using hwait⟩)
      posted := whole.records
      journal := whole.journal
      modes := whole.modes
      drain := whole.drain
      reloc := (congrArg Reloc.state whole.reloc).trans hstate
      requests := by
        rw [withdraw, whole.media]
        exact filter_withdrawn s.media.requests Requester.isReloc Requester.isHomeRead
      link := by
        rw [withdraw, whole.media]
      regs := hregs.trans whole.regs }

/-- The part at entry to DRAINING before the mode and the drain's own values (R143 steps 1 to 5). -/
def powerfailSettled (s : State) : State := withdrawHomeWrites (answerQueues (powerfailed s) .powerfail)

theorem withdrawHomeWrites_eq (s : State) :
    withdrawHomeWrites s =
      { s with apply := (withdrawHomeWrites s).apply, media := (withdraw s Requester.isHomeWrite).media } := by
  unfold withdrawHomeWrites
  by_cases h : (s.apply.outstanding.filter (homeWriteIssued s)).isEmpty = true
  · rw [if_pos h]
    rfl
  · rw [if_neg h]
    rfl

/-- What entry to DRAINING has ended and answered, in terms of the state before it. -/
structure Settled (s p : State) : Prop where
  queues : QueuesAnswered s p (powerfailAnswers s) .powerfail
  now : p.now = s.now
  records : ∀ st, recordOf p st = .absent
  unsealed : ∀ e ∈ p.groups.queue, e ∈ s.groups.queue ∧ e.state ≠ .sealed
  queue : SerialsDistinct s → p.groups.queue = s.groups.queue.filter fun e => e.state != .sealed
  held : NoneHeld p
  reads : ∀ e ∈ p.reads, e.home ≠ .waiting
  posted : p.posted.records = s.posted.records
  journal : p.journal = s.journal
  modes : p.modes = s.modes
  drain : p.drain = s.drain
  reloc : p.reloc.state = .none
  requests : p.media.requests = s.media.requests.filter fun r =>
    r.outstanding || !(r.requester.isHomeRead || r.requester.isHomeWrite || r.requester.isReloc)
  link : p.media.linkOwed = s.media.linkOwed
  regs : RegsCounted s.regs p.regs

theorem powerfailSettled_spec (s : State) : Settled s (powerfailSettled s) := by
  have failed := powerfailed_spec s
  rw [powerfailSettled]
  generalize powerfailed s = p at failed ⊢
  have answered := (answerQueues_answered p .powerfail).after failed.fabric
  rw [List.append_nil] at answered
  have rest := answerQueues_rest p .powerfail
  generalize (answerQueues p .powerfail).fabric = f at rest
  generalize (answerQueues p .powerfail).wires = w at rest
  rw [rest] at answered ⊢
  generalize hq : ({ p with fabric := f, wires := w } : State) = q at answered ⊢
  rw [withdrawHomeWrites_eq]
  generalize (withdrawHomeWrites q).apply = apply
  subst hq
  exact
    { queues := answered.of_fabric rfl
      now := failed.now
      records := failed.records
      unsealed := failed.unsealed
      queue := failed.queue
      held := failed.held
      reads := failed.reads
      posted := failed.posted
      journal := failed.journal
      modes := failed.modes
      drain := failed.drain
      reloc := failed.reloc
      requests := by
        rw [withdraw, failed.requests]
        refine (List.filter_filter ..).trans (List.filter_congr fun r _ => ?_)
        cases r.outstanding <;> cases r.requester.isHomeRead <;> cases r.requester.isHomeWrite <;>
          cases r.requester.isReloc <;> rfl
      link := failed.link
      regs := failed.regs }

/-- The part when a drain has begun, before its completion conditions are tested (R143). -/
def drainBegun (s : State) (origin : DrainOrigin) : State :=
  setMode
    (beginDrain (if origin = .recovering then stopRecovery (powerfailSettled s) else powerfailSettled s) origin) .draining

theorem enterDraining_eq (s : State) (origin : DrainOrigin) : enterDraining s origin = drainTest (drainBegun s origin) :=
  rfl

/-- The test of a drain of origin READY begins the final checkpoint or does nothing. -/
theorem drainTest_ready {b : State} (hm : b.modes.mode = .draining) (ho : b.drain.origin = some .ready) :
    drainTest b = b ∨ drainTest b = raiseTrigger { b with drain := { b.drain with finalRaised := true } } := by
  simp only [drainTest, hm, ho, if_true]
  split
  · exact .inr rfl
  · exact .inl rfl

end Sys2Proof.Machine

/-! PROOF. PFW_ASSERT (R121, R131, R142, R143, R148). -/

namespace Sys2Proof.Machine

/-! ## PFW_ASSERT (R142) -/

theorem RegsCounted.drainBudget {r r' : Regs} (h : RegsCounted r r') : r'.drainBudget = r.drainBudget := by
  rw [RegsCounted] at h
  rw [h]

/-- A trigger only adds requests at the media port. -/
theorem raiseTrigger_requests (s : State) : s.media.requests <+: (raiseTrigger s).media.requests := by
  unfold raiseTrigger
  split
  · exact List.prefix_rfl
  · exact List.prefix_append _ _

/-- What the test of a drain of origin READY can change. -/
theorem drainTest_ready_eq {b : State} (hm : b.modes.mode = .draining) (ho : b.drain.origin = some .ready) :
    ∃ raised ckpt media, drainTest b =
        { b with drain := { b.drain with finalRaised := raised }, ckpt := ckpt, media := media }
      ∧ b.media.requests <+: media.requests := by
  obtain h | h := drainTest_ready hm ho
  · exact ⟨b.drain.finalRaised, b.ckpt, b.media, h, List.prefix_rfl⟩
  · exact ⟨true, _, _, h.trans (raiseTrigger_eq { b with drain := { b.drain with finalRaised := true } }),
      raiseTrigger_requests { b with drain := { b.drain with finalRaised := true } }⟩

/-- The sampled level of PFW_N is nothing to the fabric port. -/
theorem QueuesAnswered.of_samplePfw {s t : State} {b : Bool} {front : List Response} {status : Status}
    (h : QueuesAnswered (samplePfw s b) t front status) : QueuesAnswered s t front status := by
  obtain ⟨entered, answered, credits, taken, settled⟩ := h
  exact ⟨entered, answered, credits, taken, settled⟩

theorem powerfailAnswers_samplePfw (s : State) (b : Bool) : powerfailAnswers (samplePfw s b) = powerfailAnswers s := by
  rw [powerfailAnswers, powerfailAnswers]
  rfl

/-- Entry to DRAINING by the event that samples PFW_N asserted, in terms of the state before it. -/
theorem Settled.queues_samplePfw {s p : State} {b : Bool} (h : Settled (samplePfw s b) p) :
    QueuesAnswered s p (powerfailAnswers s) .powerfail :=
  powerfailAnswers_samplePfw s b ▸ h.queues.of_samplePfw

section Pfw

variable {s : State}

/-- The part with PFW_N sampled asserted. -/
theorem exec_pfwAssert (s : State) : exec .pfwAssert s = .next (takeWarning (samplePfw s true)) := rfl

theorem pfwAssert_idle (hm : s.modes.mode = .idle) :
    Completes .pfwAssert s fun t => HaltedWith s t .complete (owedAtHalt s) ∧ t.drain.pfwAsserted = true := by
  have warned : takeWarning (samplePfw s true) = enterHalted (samplePfw s true) .complete := by
    have mode : (samplePfw s true).modes.mode = .idle := hm
    simp only [takeWarning, mode]
  refine ⟨_, (exec_pfwAssert s).trans (congrArg _ warned),
    enterHalted_direct (s := s) (a := samplePfw s true) rfl rfl rfl .complete, ?_⟩
  rw [enterHalted_eq (samplePfw s true)]
  rfl

theorem pfwAssert_faulted (hm : s.modes.mode = .faulted) :
    Completes .pfwAssert s fun t =>
      HaltedWith s t (if s.drain.faultLoss then .incomplete else .complete) (owedAtHalt s)
        ∧ t.drain.pfwAsserted = true := by
  have warned : takeWarning (samplePfw s true) =
      enterHalted (samplePfw s true) (if s.drain.faultLoss then .incomplete else .complete) := by
    have mode : (samplePfw s true).modes.mode = .faulted := hm
    simp only [takeWarning, mode]
    rfl
  generalize (if s.drain.faultLoss then DrainStatus.incomplete else .complete) = status at warned ⊢
  refine ⟨_, (exec_pfwAssert s).trans (congrArg _ warned),
    enterHalted_direct (s := s) (a := samplePfw s true) rfl rfl rfl status, ?_⟩
  rw [enterHalted_eq (samplePfw s true)]
  rfl

/-- The part at entry to DRAINING from READY, before the test. -/
theorem drainBegun_ready (s : State) :
    drainBegun s .ready = setMode (beginDrain (powerfailSettled s) .ready) .draining := by
  rw [drainBegun, if_neg (by decide)]

theorem drainBegun_recovering (s : State) :
    drainBegun s .recovering = setMode (beginDrain (stopRecovery (powerfailSettled s)) .recovering) .draining := by
  rw [drainBegun, if_pos rfl]

/-- The test of a drain of origin RECOVERING (R145). -/
theorem drainTest_recovering {b : State} (hm : b.modes.mode = .draining) (ho : b.drain.origin = some .recovering) :
    drainTest b = if portQuiet b && !b.media.linkOwed then enterHalted b .complete else b := by
  simp only [drainTest, hm, ho, if_true]

theorem portQuiet_iff (b : State) :
    (portQuiet b && !b.media.linkOwed) = true ↔ b.media.requests = [] ∧ b.media.linkOwed = false := by
  rw [portQuiet, Bool.and_eq_true, List.isEmpty_iff, Bool.not_eq_true']

/-- With nothing held, queued or tracked, no answer comes before those of the queues. -/
theorem powerfailAnswers_nil (hq : s.groups.queue = []) (hn : NoneHeld s) (hr : s.reads = []) : powerfailAnswers s = [] := by
  simp [powerfailAnswers, heldAnswers, hq, hn.1, hn.2, hr]

end Pfw

/-- What the stop of the recovery sequencer changes (R131). -/
theorem stopRecovery_eq (s : State) :
    stopRecovery s =
      { s with
        modes := { s.modes with startStatus := .interrupted }
        recovery := none
        regs := flagged s.regs .recoveryDone
        media :=
          { s.media with
            requests := s.media.requests.filter fun r => r.outstanding || !Requester.isRecovery r.requester } } := rfl

/-- A drain of origin RECOVERING, begun in `b` (R131, R143, R145). -/
structure DrainRecovering (s b : State) : Prop where
  mode : b.modes.mode = .draining
  start : b.modes.startStatus = .interrupted
  recovery : b.recovery = none
  done : flagSet b .recoveryDone = true
  requests : b.media.requests =
    (s.media.requests.filter fun r =>
        r.outstanding || !(r.requester.isHomeRead || r.requester.isHomeWrite || r.requester.isReloc)).filter
      fun r => r.outstanding || !r.requester.isRecovery
  link : b.media.linkOwed = s.media.linkOwed
  drain : b.drain.status = .active ∧ b.drain.origin = some .recovering
    ∧ b.drain.deadline = some (s.now + s.regs.drainBudget)
  queue : ∀ e ∈ b.groups.queue, e ∈ s.groups.queue
  queues : QueuesAnswered s b (powerfailAnswers s) .powerfail

theorem drainBegun_recovering_spec (s : State) : DrainRecovering s (drainBegun (samplePfw s true) .recovering) := by
  have settled := powerfailSettled_spec (samplePfw s true)
  rw [drainBegun_recovering]
  generalize powerfailSettled (samplePfw s true) = p at settled
  rw [stopRecovery_eq]
  exact
    { mode := rfl
      start := rfl
      recovery := rfl
      done := flagged_set p.regs .recoveryDone
      requests := congrArg (List.filter fun r : MediaReq => r.outstanding || !r.requester.isRecovery) settled.requests
      link := settled.link
      drain := ⟨rfl, rfl, congrArg₂ (fun n b => some (n + b)) settled.now settled.regs.drainBudget⟩
      queue := fun e he => (settled.unsealed e he).1
      queues := settled.queues_samplePfw.of_fabric rfl }

/-- The part when PFW_N has ended a format, before the drain's end is tested (R121, R148). -/
def formatInterrupted (s : State) : State :=
  beginDrain (setStart { withdraw (samplePfw s true) Requester.isFormat with format := none } .interrupted) .formatting

theorem interruptFormat_eq {s : State} (hm : (formatInterrupted s).modes.mode = .formatting) :
    interruptFormat (samplePfw s true) =
      if anyRequest (formatInterrupted s) Requester.isFormat then formatInterrupted s
      else enterHalted (formatInterrupted s) .complete := by
  have drain : inDrain (formatInterrupted s) = true := by
    rw [inDrain, hm]
    rfl
  have done : formatLinesDone (formatInterrupted s) = enterHalted (formatInterrupted s) .complete := if_pos drain
  rw [← done]
  rfl

/-- A format line is left exactly when one has been issued. -/
theorem formatInterrupted_issued_iff (s : State) :
    anyRequest (formatInterrupted s) Requester.isFormat = true ↔
      ∃ r ∈ s.media.requests, r.outstanding = true ∧ r.requester.isFormat = true := by
  have requests : (formatInterrupted s).media.requests =
      s.media.requests.filter fun r => r.outstanding || !r.requester.isFormat := rfl
  rw [anyRequest, requests, List.any_eq_true]
  refine exists_congr fun r => ?_
  rw [List.mem_filter, and_assoc]
  refine and_congr_right fun _ => ?_
  cases r.outstanding <;> cases r.requester.isFormat <;> simp

/-- Settles O28: by the mode in which PFW_N is asserted. -/
theorem powerFailWarningByMode : Obligations.PowerFailWarningByMode := by
  unfold Obligations.PowerFailWarningByMode
  intro kept
  refine ⟨fun s => ⟨pfwAssert_idle, pfwAssert_faulted, fun hm => ?ready, fun hm => ?ignored⟩,
    fun s => ⟨fun hm => ?recovering, fun hm hd => ?formatting⟩⟩
  case ready =>
    have warned : takeWarning (samplePfw s true) = drainTest (drainBegun (samplePfw s true) .ready) := by
      have mode : (samplePfw s true).modes.mode = .ready := hm
      simp only [takeWarning, mode]
      rfl
    have runs := (exec_pfwAssert s).trans (congrArg _ warned)
    have settled := powerfailSettled_spec (samplePfw s true)
    rw [drainBegun_ready] at runs
    generalize powerfailSettled (samplePfw s true) = p at settled runs
    obtain ⟨raised, ckpt, media, test, more⟩ := drainTest_ready_eq (b := setMode (beginDrain p .ready) .draining) rfl rfl
    rw [test] at runs
    have answered := settled.queues_samplePfw
    have requests : p.media.requests <+: media.requests := more
    rw [settled.requests] at requests
    exact ⟨_, runs, congrArg (fun m : ModeCtl => { m with mode := .draining }) settled.modes, rfl, rfl,
      congrArg₂ (fun n b => some (n + b)) settled.now settled.regs.drainBudget, congrArg Drain.pfwAsserted settled.drain,
      settled.records, fun e he => (settled.unsealed e he).2, settled.held, settled.queue, settled.reads, settled.posted,
      settled.reloc, requests, settled.journal,
      answered.of_fabric rfl⟩
  case ignored =>
    have warned : takeWarning (samplePfw s true) = samplePfw s true := by
      have mode : (samplePfw s true).modes.mode = s.modes.mode := rfl
      have status : (samplePfw s true).drain.status = s.drain.status := rfl
      rw [takeWarning, mode]
      obtain hm | hm | ⟨hm, hd⟩ := hm
      · rw [hm]
      · rw [hm]
      · rw [hm, status, hd]
        rfl
    exact (exec_pfwAssert s).trans (congrArg _ warned)
  case recovering =>
    have warned : takeWarning (samplePfw s true) = drainTest (drainBegun (samplePfw s true) .recovering) := by
      have mode : (samplePfw s true).modes.mode = .recovering := hm
      simp only [takeWarning, mode]
      rfl
    have runs := (exec_pfwAssert s).trans (congrArg _ warned)
    have begun := drainBegun_recovering_spec s
    generalize drainBegun (samplePfw s true) .recovering = b at runs begun
    obtain ⟨active, origin, deadline⟩ := begun.drain
    rw [drainTest_recovering begun.mode origin] at runs
    have nothing (hq : s.groups.queue = []) (hn : NoneHeld s) (hr : s.reads = []) :
        b.groups.queue = [] ∧ QueuesAnswered s b [] .powerfail := by
      refine ⟨List.eq_nil_iff_forall_not_mem.2 fun e he => ?_, powerfailAnswers_nil hq hn hr ▸ begun.queues⟩
      have member := begun.queue e he
      rw [hq] at member
      cases member
    by_cases hquiet : (portQuiet b && !b.media.linkOwed) = true
    · rw [if_pos hquiet] at runs
      obtain ⟨empty, unowed⟩ := (portQuiet_iff b).1 hquiet
      have halted := enterHalted_haltedWith b .complete
      have flag := flagSet_enterHalted begun.done .complete
      have rest := enterHalted_eq b .complete
      refine ⟨_, runs, ?_, ?_, flag, ?_, ?_, .inr ⟨halted.mode, halted.drain.1, ?_, ?_⟩, fun hq hn hr => ?_⟩
      · rw [rest]
        exact begun.start
      · rw [rest]
      · rw [rest]
        exact begun.requests
      · rw [rest]
        exact begun.link
      · rw [rest]
        exact empty
      · rw [rest]
        exact unowed
      · obtain ⟨queue, answered⟩ := nothing hq hn hr
        have owed : owedAtHalt b = [] := by
          rw [owedAtHalt, queue]
          rfl
        exact answered.trans (owed ▸ halted.queues)
    · rw [if_neg hquiet] at runs
      have left : b.media.requests ≠ [] ∨ b.media.linkOwed = true := by
        rw [portQuiet_iff, not_and_or, Bool.not_eq_false] at hquiet
        exact hquiet
      exact ⟨b, runs, begun.start, begun.recovery, begun.done, begun.requests, begun.link,
        .inl ⟨begun.mode, active, origin, deadline, left⟩, fun hq hn hr => (nothing hq hn hr).2⟩
  case formatting =>
    have warned : takeWarning (samplePfw s true) = interruptFormat (samplePfw s true) := by
      have mode : (samplePfw s true).modes.mode = .formatting := hm
      have status : (samplePfw s true).drain.status ≠ .active := hd
      simp only [takeWarning, mode, if_neg status]
    have runs := (exec_pfwAssert s).trans (congrArg _ warned)
    have stopped : (formatInterrupted s).modes.mode = .formatting := hm
    rw [interruptFormat_eq stopped] at runs
    have issued := formatInterrupted_issued_iff s
    by_cases hi : anyRequest (formatInterrupted s) Requester.isFormat = true
    · rw [if_pos hi] at runs
      exact ⟨_, runs, rfl, rfl, rfl, fun _ => ⟨stopped, rfl, rfl, rfl, rfl⟩, fun hn => absurd (issued.1 hi) hn⟩
    · rw [if_neg hi] at runs
      have rest := enterHalted_eq (formatInterrupted s) .complete
      refine ⟨_, runs, ?_, ?_, ?_, fun h => absurd (issued.2 h) hi,
        fun _ => enterHalted_direct (s := s) (a := formatInterrupted s) rfl rfl rfl .complete⟩
      · rw [rest]
        rfl
      · rw [rest]
      · rw [rest]
        rfl

end Sys2Proof.Machine

/-! PROOF. The lines of a record (R97, R99). -/

namespace Sys2Proof.Machine

/-! ## The lines of a record (R97, R99) -/

section JournalLine

variable {s : State} {t : MediaTag} {i : Nat}

theorem exec_journalLineOk (h : Carries s t (.journalLine i)) :
    exec (.journalLineOk t) s = .next (journalLineAcked (dropTag s t)) :=
  congrArg Host.Outcome.next (onOutcome_carries h rfl)

theorem exec_journalLineFail (h : Carries s t (.journalLine i)) :
    exec (.journalLineFail t) s = .next (journalLineFailed (dropTag s t)) :=
  congrArg Host.Outcome.next (onOutcome_carries h rfl)

theorem anyRequest_iff (s : State) (p : Requester → Bool) :
    anyRequest s p = true ↔ ∃ r ∈ s.media.requests, p r.requester = true := by
  simp [anyRequest]

theorem anyRequest_eq_false_iff (s : State) (p : Requester → Bool) :
    anyRequest s p = false ↔ ∀ r ∈ s.media.requests, p r.requester = false := by
  simp [anyRequest]

/-- Other lines of the record are left. -/
theorem journalLineAcked_more {u : State} (h : ∃ r ∈ u.media.requests, r.requester.isJournalLine = true) :
    journalLineAcked u = u := if_pos ((anyRequest_iff u _).2 h)

/-- No line of the record is left. -/
theorem journalLineAcked_last {u : State} (h : ∀ r ∈ u.media.requests, r.requester.isJournalLine = false) :
    journalLineAcked u = recordLinesDone u :=
  if_neg (by rw [(anyRequest_eq_false_iff u _).2 h]; exact Bool.false_ne_true)

/-- A failed line: the lines not yet issued are withdrawn, and the failure is remembered (R99). -/
theorem journalLineFailed_writing {u : State} {failed : Bool} (h : u.journal.writer = .writing failed) :
    journalLineFailed u = journalLineAcked (setWriter (withdraw u Requester.isJournalLine) (.writing true)) := by
  simp only [journalLineFailed, h]

/-- The lines of a group whose slots are all there. -/
theorem length_linesOfEntry {e : Entry} (h : ∀ n ∈ e.slots, (slotAt s n).isSome = true) :
    (linesOfEntry s e).length = e.slots.length := by
  rw [linesOfEntry, List.length_filterMap_eq_countP, List.countP_eq_length]
  simpa using h

/-- The commit line of a record (R88, R97). -/
theorem commitLineRequest_eq {e : Entry} {x : Extent} {seq : Seq} (hx : e.extent = some x) (hseq : e.seq = some seq)
    (h : ∀ n ∈ e.slots, (slotAt s n).isSome = true) :
    commitLineRequest s e =
      { requester := .commitLine
        line := s.journal.region.base
          + BitVec.ofNat 40 ((2 + (x.start + (e.slots.length + (e.slots.length + 3) / 4 + 1)) % s.journal.region.ringLength) * 64)
        write := some (BitVec.allOnes 64,
          commitLine e.slots.length seq (crcLines (recordBody e.stream seq (linesOfEntry s e))))
        state := .ready } := by
  have lines : groupLines s e = linesOfEntry s e := rfl
  have length := length_linesOfEntry h
  obtain ⟨body, -⟩ := recordBody_lines e.stream seq (linesOfEntry s e)
  have place : (recordBody e.stream seq (linesOfEntry s e)).length = e.slots.length + (e.slots.length + 3) / 4 + 1 := by
    rw [body, length]
    omega
  rw [commitLineRequest, entryBody, extentOf, lines, hx, hseq, Option.getD_some, Option.getD_some, length]
  simp only [place]
  rfl

end JournalLine

/-- Settles O30: other lines are left, or the commit line follows. -/
theorem journalLineOutcomes : Obligations.JournalLineOutcomes := by
  refine ⟨fun s t i failed hcarry hw => ⟨fun hmore => ?acked, fun hmore => ?failed⟩,
    fun s t i e x seq hcarry hw hlast he hx hseq hslots => ?commit⟩
  case acked =>
    rw [Answers, exec_journalLineOk hcarry, journalLineAcked_more (by exact hmore)]
    rfl
  case failed =>
    obtain ⟨r, hr, hline, hout⟩ := hmore
    rw [Answers, exec_journalLineFail hcarry, journalLineFailed_writing (by exact hw), journalLineAcked_more]
    · rfl
    · exact ⟨r, List.mem_filter.2 ⟨hr, by simp [hout]⟩, hline⟩
  case commit =>
    intro lines n offset
    have entry : journalingEntry (dropTag s t) = some e := he
    have writing : (dropTag s t).journal.writer = .writing false := hw
    have done : recordLinesDone (dropTag s t) = handOver (dropTag s t) [commitLineRequest (dropTag s t) e] := by
      simp only [recordLinesDone, writing, handCommitLine, entry]
    rw [Answers, exec_journalLineOk hcarry, journalLineAcked_last (by exact hlast), done,
      commitLineRequest_eq hx hseq (by exact hslots)]
    rfl

end Sys2Proof.Machine

/-! PROOF. The writer's look at the SEALED entries (R12, R95). -/

namespace Sys2Proof.Machine

/-! ## The writer's look at the SEALED entries (R12, R95) -/

/-- What the writer's look does to the empty commits at the front of the queue: they pass the journal stage, and COMMITTED is
sent for those that owe no posted write. -/
structure Looked (s t : State) : Prop where
  answers : ∃ back, t.fabric = fabricAfter s back ∧ ∀ r ∈ back, r.status = .committed
    ∧ ∃ y ∈ s.groups.queue, y.state = .sealed ∧ y.slots = [] ∧ r.stream = y.stream ∧ r.tag = y.tag
  rest : t = { s with
    fabric := t.fabric
    posted := { s.posted with lossMarks := t.posted.lossMarks }
    groups := { s.groups with queue := t.groups.queue } }
  slotted : (t.groups.queue.filter fun e => !e.slots.isEmpty) = s.groups.queue.filter fun e => !e.slots.isEmpty
  serials : (t.groups.queue.map Entry.serial).Sublist (s.groups.queue.map Entry.serial)
  entries : ∀ y ∈ t.groups.queue, y ∈ s.groups.queue ∨ y.state = .durable ∧ y.slots = []

theorem Looked.refl (s : State) : Looked s s where
  answers := ⟨[], (fabricAfter_nil s).symm, by simp⟩
  rest := rfl
  slotted := rfl
  serials := List.Sublist.refl _
  entries y hy := .inl hy

theorem fabricAfter_fabricAfter {s t u : State} {front back : List Response} (h : t.fabric = fabricAfter s front)
    (k : u.fabric = fabricAfter t back) : u.fabric = fabricAfter s (front ++ back) := by
  rw [k, fabricAfter, h]
  simp [fabricAfter, Nat.sub_sub]

theorem Looked.trans {s t u : State} (h : Looked s t) (k : Looked t u) : Looked s u where
  answers := by
    obtain ⟨front, hfabric, hfront⟩ := h.answers
    obtain ⟨back, kfabric, hback⟩ := k.answers
    refine ⟨front ++ back, fabricAfter_fabricAfter hfabric kfabric, fun r hr => ?_⟩
    obtain hr | hr := List.mem_append.1 hr
    · exact hfront r hr
    · obtain ⟨hstatus, y, hy, hsealed, rest⟩ := hback r hr
      obtain hy | ⟨hdurable, -⟩ := h.entries y hy
      · exact ⟨hstatus, y, hy, hsealed, rest⟩
      · rw [hdurable] at hsealed
        cases hsealed
  rest := by
    have first := h.rest
    have second := k.rest
    rw [first] at second
    exact second
  slotted := k.slotted.trans h.slotted
  serials := k.serials.trans h.serials
  entries y hy := by
    obtain hy | hy := k.entries y hy
    · exact h.entries y hy
    · exact .inr hy

/-- The oldest entry with slots that meets a test. -/
theorem oldestWith_congr {s t : State}
    (h : (t.groups.queue.filter fun e => !e.slots.isEmpty) = s.groups.queue.filter fun e => !e.slots.isEmpty)
    (p : Entry → Bool) : oldestWith t p = oldestWith s p := by
  have filtered (u : State) : oldestWith u p = (u.groups.queue.filter fun e => !e.slots.isEmpty).find? p := by
    rw [List.find?_filter, oldestWith]
    simp only [Bool.decide_and, Bool.decide_eq_true]
  rw [filtered, filtered, h]

theorem oldestWith_spec {s : State} {p : Entry → Bool} {d : Entry} (h : oldestWith s p = some d) :
    d ∈ s.groups.queue ∧ d.slots ≠ [] ∧ p d = true := by
  have found := List.find?_some h
  rw [Bool.and_eq_true] at found
  exact ⟨List.mem_of_find?_eq_some h, by simpa using found.1, found.2⟩

/-- The oldest SEALED entry, with its place. -/
theorem oldestSealed_split {s : State} {e : Entry} (h : oldestSealed s = some e) :
    ∃ front back, s.groups.queue = front ++ e :: back ∧ (∀ x ∈ front, x.state ≠ .sealed) ∧ e.state = .sealed := by
  obtain ⟨hp, front, back, hq, hf⟩ := List.find?_eq_some_iff_append.1 h
  exact ⟨front, back, hq, fun x hx => by simpa using hf x hx, by simpa using hp⟩

/-- The turn of an empty commit in the writer's look. -/
theorem looked_empty {s : State} {e : Entry} (hd : SerialsDistinct s) (he : oldestSealed s = some e) (hs : e.slots = []) :
    ∃ t, tryAnswer (mapEntry s e.serial fun e => { e with state := .durable }) e.serial = t ∧ Looked s t
      ∧ (t.groups.queue.countP fun e => e.state == .sealed) + 1 = s.groups.queue.countP fun e => e.state == .sealed := by
  obtain ⟨front, back, hq, -, hsealed⟩ := oldestSealed_split he
  have distinct := hd
  rw [SerialsDistinct, hq, List.map_append, List.map_cons, List.nodup_append, List.nodup_cons] at distinct
  obtain ⟨-, ⟨hself, -⟩, hcross⟩ := distinct
  have hf : ∀ x ∈ front, x.serial ≠ e.serial := fun x hx =>
    hcross _ (List.mem_map_of_mem hx) _ (List.mem_cons_self ..)
  have hb : ∀ x ∈ back, x.serial ≠ e.serial := fun x hx hs => hself (hs ▸ List.mem_map_of_mem hx)
  have slotless (x : Entry) (hx : x.slots = []) : (!x.slots.isEmpty) = false := by rw [hx]; rfl
  have durable := mapEntry_split hq hf hb fun e => { e with state := .durable }
  rw [durable]
  have turn := tryAnswer_split (s := { s with groups := { s.groups with
    queue := front ++ { e with state := .durable } :: back } }) (front := front) (back := back)
    (e := { e with state := .durable }) rfl hf hb
  refine ⟨_, turn, ?_⟩
  have leaves : Entry.leaves { e with state := .durable } = true := by simp [Entry.leaves, hs]
  have member : e ∈ s.groups.queue := by rw [hq]; simp
  split
  case isTrue ha =>
    have gone : answeredOwed { e with state := .durable } = none := by rw [answeredOwed, if_pos ha, if_pos leaves]
    rw [gone]
    refine ⟨⟨⟨_, rfl, ?_⟩, rfl, ?_, ?_, ?_⟩, ?_⟩
    · intro r hr
      obtain rfl := List.mem_singleton.1 hr
      exact ⟨rfl, e, member, hsealed, hs, rfl, rfl⟩
    · rw [hq]
      simp [slotless e hs]
    · rw [hq]
      simp
    · intro y hy
      left
      rw [hq]
      simp at hy ⊢
      tauto
    · rw [hq]
      simp [hsealed]
      omega
  case isFalse ha =>
    refine ⟨⟨⟨[], (fabricAfter_nil s).symm, by simp⟩, rfl, ?_, ?_, ?_⟩, ?_⟩
    · rw [hq]
      simp [slotless e hs]
    · rw [hq]
      simp
    · intro y hy
      rw [List.mem_append, List.mem_cons] at hy
      rw [hq, List.mem_append, List.mem_cons]
      obtain hy | rfl | hy := hy
      · exact .inl (.inl hy)
      · exact .inr ⟨rfl, hs⟩
      · exact .inl (.inr (.inr hy))
    · rw [hq]
      simp [hsealed]
      omega

/-- The writer's look in READY with the writer IDLE: the oldest SEALED entry with slots is begun, if there is one. -/
theorem writerLooks_spec (n : Nat) : ∀ {s : State}, SerialsDistinct s → s.modes.mode = .ready →
    s.journal.writer = .idle → (s.groups.queue.countP fun e => e.state == .sealed) < n →
    ∃ t, Looked s t ∧ (oldestWith s (fun e => e.state == .sealed) = none → writerLooks n s = t)
      ∧ ∀ d, oldestWith s (fun e => e.state == .sealed) = some d → writerLooks n s = beginJournal t d := by
  induction n with
  | zero => exact fun _ _ _ hn => absurd hn (Nat.not_lt_zero _)
  | succ n ih =>
    intro s hd hm hw hn
    rw [writerLooks, if_pos ⟨hm, hw⟩]
    cases he : oldestSealed s with
    | none =>
      refine ⟨s, .refl s, fun _ => rfl, fun d hfind => ?_⟩
      obtain ⟨hmem, -, hsealed⟩ := oldestWith_spec hfind
      have none := List.find?_eq_none.1 he d hmem
      exact absurd hsealed none
    | some e =>
      simp only
      by_cases hs : e.slots = []
      · rw [if_pos (by rw [hs]; rfl)]
        obtain ⟨t, ht, looked, count⟩ := looked_empty hd he hs
        rw [ht]
        have rest := looked.rest
        obtain ⟨u, looked', hnone, hsome⟩ := ih (s := t) (hd.sublist looked.serials) (by rw [rest]; exact hm)
          (by rw [rest]; exact hw) (by omega)
        rw [oldestWith_congr looked.slotted] at hnone hsome
        exact ⟨u, looked.trans looked', hnone, hsome⟩
      · rw [if_neg (by simpa using hs)]
        obtain ⟨front, back, hq, hf, hsealed⟩ := oldestSealed_split he
        have found : oldestWith s (fun e => e.state == .sealed) = some e := by
          have none : front.find? (fun x => !x.slots.isEmpty && x.state == .sealed) = none := by
            rw [List.find?_eq_none]
            intro x hx hc
            rw [Bool.and_eq_true, beq_iff_eq] at hc
            exact hf x hx hc.2
          rw [oldestWith, hq, List.find?_append, none, Option.none_or, List.find?_cons_of_pos]
          simp [hsealed, hs]
        refine ⟨s, .refl s, fun hn => ?_, fun d hfind => ?_⟩
        · rw [found] at hn
          cases hn
        · obtain rfl := Option.some.inj (found.symm.trans hfind)
          rfl

theorem writerLook_spec {s : State} (hd : SerialsDistinct s) (hm : s.modes.mode = .ready) (hw : s.journal.writer = .idle) :
    ∃ t, Looked s t ∧ (oldestWith s (fun e => e.state == .sealed) = none → writerLook s = t)
      ∧ ∀ d, oldestWith s (fun e => e.state == .sealed) = some d → writerLook s = beginJournal t d :=
  writerLooks_spec _ hd hm hw (Nat.lt_succ_of_le List.countP_le_length)

/-- Outside READY the writer does not look. -/
theorem writerLook_outside {s : State} (hm : s.modes.mode ≠ .ready) : writerLook s = s := by
  rw [writerLook, writerLooks, if_neg fun h => hm h.1]

end Sys2Proof.Machine

/-! PROOF. The writer begins a group (R14, R95, R96). -/

namespace Sys2Proof.Machine

/-! ## The writer begins a group (R14, R95, R96) -/

section BeginJournal

variable {t : State} {d : Entry}

/-- The entry and its slots are JOURNALING. -/
def journaled (t : State) (d : Entry) : State :=
  mapSlots (mapEntry t d.serial (begunEntry t)) d.slots fun v => { v with state := .journaling }

theorem mem_queue_journaled (hd : d ∈ t.groups.queue) : begunEntry t d ∈ (journaled t d).groups.queue :=
  List.mem_map.2 ⟨d, hd, if_pos rfl⟩

theorem slots_journaled {v : Slot} (hv : v ∈ (journaled t d).staging.slots) (hn : v.num ∈ d.slots) :
    v.state = .journaling := by
  obtain ⟨u, -, rfl⟩ := List.mem_map.1 hv
  by_cases hu : u.num ∈ d.slots
  · rw [if_pos hu]
  · rw [if_neg hu] at hn
    exact absurd hn hu

theorem entryBody_journaled (t : State) (d : Entry) :
    entryBody (journaled t d) (begunEntry t d) = recordBody d.stream t.journal.nextSeq (linesOfEntry t d) := by
  have lines : groupLines (journaled t d) (begunEntry t d) = groupLines t (begunEntry t d) :=
    groupLines_map (fun v => by split <;> rfl) (fun v => by split <;> rfl) rfl _
  rw [entryBody, lines]
  rfl

/-- The record fits: its lines are handed over. -/
theorem beginJournal_fits (h : recordLength d.slots.length ≤ t.journal.region.ringLength - t.journal.used) :
    beginJournal t d =
      handOver (setWriter (journaled t d) (.writing false))
        (lineRequests t.journal.region t.journal.head 0
          (recordBody d.stream t.journal.nextSeq (linesOfEntry t d))) := by
  rw [← entryBody_journaled]
  exact if_pos (decide_eq_true h)

/-- The record does not fit: the writer waits for space, and asks for a checkpoint while the tails differ. -/
theorem beginJournal_waits (h : t.journal.region.ringLength - t.journal.used < recordLength d.slots.length) :
    beginJournal t d =
      if 0 < t.journal.retiredSpan then
        raiseTrigger (setFlag (setWriter (journaled t d) .waitingSpace) .journalLow)
      else setFlag (setWriter (journaled t d) .waitingSpace) .journalLow := by
  have full : fits (journaled t d) (recordLength d.slots.length) = false := decide_eq_false (Nat.not_le.2 h)
  have tails : tailsDiffer (setFlag (setWriter (journaled t d) .waitingSpace) .journalLow) =
      decide (0 < t.journal.retiredSpan) := rfl
  rw [beginJournal, ← journaled, full]
  simp only [tails, decide_eq_true_eq, Bool.false_eq_true, if_false]

/-- What the begin of a group leaves alone. -/
theorem beginJournal_rest (t : State) (d : Entry) :
    (beginJournal t d).fabric = t.fabric ∧ (beginJournal t d).groups = (journaled t d).groups
      ∧ (beginJournal t d).staging = (journaled t d).staging ∧ (beginJournal t d).apply = t.apply
      ∧ (beginJournal t d).modes = t.modes ∧ (beginJournal t d).reloc = t.reloc
      ∧ (∃ w, (beginJournal t d).journal = { t.journal with writer := w })
      ∧ t.media.requests <+: (beginJournal t d).media.requests ∧ (beginJournal t d).drain = t.drain
      ∧ RegsCounted t.regs (beginJournal t d).regs ∧ (beginJournal t d).claims = t.claims := by
  by_cases h : recordLength d.slots.length ≤ t.journal.region.ringLength - t.journal.used
  · rw [beginJournal_fits h]
    exact ⟨rfl, rfl, rfl, rfl, rfl, rfl, ⟨_, rfl⟩, List.prefix_append _ _, rfl, rfl, rfl⟩
  · rw [beginJournal_waits (Nat.lt_of_not_le h)]
    by_cases hs : 0 < t.journal.retiredSpan
    · rw [if_pos hs]
      have more := raiseTrigger_requests (setFlag (setWriter (journaled t d) .waitingSpace) .journalLow)
      rw [raiseTrigger_eq]
      exact ⟨rfl, rfl, rfl, rfl, rfl, rfl, ⟨_, rfl⟩, more, rfl, rfl, rfl⟩
    · rw [if_neg hs]
      exact ⟨rfl, rfl, rfl, rfl, rfl, rfl, ⟨_, rfl⟩, List.prefix_rfl, rfl, rfl, rfl⟩

/-- The begin of a group in the words of the statements. -/
theorem beginJournal_begun {s : State} (hd : d ∈ t.groups.queue) (hl : linesOfEntry t d = linesOfEntry s d)
    (hr : t.journal.region = s.journal.region) (hspan : t.journal.retiredSpan = s.journal.retiredSpan) :
    JournalBegun s (beginJournal t d) d t.journal.nextSeq t.journal.head t.journal.used t.media.requests := by
  obtain ⟨-, groups, staging, -⟩ := beginJournal_rest t d
  refine ⟨⟨begunEntry t d, groups ▸ mem_queue_journaled hd, rfl, rfl, rfl, rfl, rfl⟩,
    fun v hv hn => slots_journaled (staging ▸ hv) hn, fun h => ?_, fun h => ?_⟩
  · rw [← hr] at h
    rw [beginJournal_fits (by exact h), ← hl, ← hr]
    exact ⟨rfl, List.prefix_rfl⟩
  · rw [← hr] at h
    rw [beginJournal_waits (by exact h), ← hspan]
    have low : flagSet (setFlag (setWriter (journaled t d) .waitingSpace) .journalLow) .journalLow = true :=
      flagged_set t.regs .journalLow
    by_cases hs : 0 < t.journal.retiredSpan
    · rw [if_pos hs]
      have inFlight := raiseTrigger_inFlight (setFlag (setWriter (journaled t d) .waitingSpace) .journalLow)
      rw [raiseTrigger_eq] at inFlight ⊢
      exact ⟨rfl, low, fun _ => inFlight⟩
    · rw [if_neg hs]
      exact ⟨rfl, low, fun h => absurd h hs⟩

end BeginJournal

end Sys2Proof.Machine

/-! PROOF. The end of a failed record (R15, R99). -/

namespace Sys2Proof.Machine

/-! ## The end of a failed record (R15, R99) -/

/-- A slot that is not among those whose versions end. -/
theorem slotAt_endSlot {s t : State} {ns : List Nat} {x : SlotState}
    (ht : t.staging.slots = s.staging.slots.filterMap (endSlot ns x)) {n : Nat} (hn : n ∉ ns) : slotAt t n = slotAt s n := by
  rw [slotAt, slotAt, ht]
  induction s.staging.slots with
  | nil => rfl
  | cons v vs ih =>
    by_cases hv : v.num ∈ ns
    · have other : (v.num == n) = false := by simpa using fun he : v.num = n => hn (he ▸ hv)
      rw [List.find?_cons_of_neg (by simp [other])]
      by_cases hp : v.pins = 0
      · rw [List.filterMap_cons_none (by rw [endSlot, if_pos hv, if_pos hp])]
        exact ih
      · rw [List.filterMap_cons_some (by rw [endSlot, if_pos hv, if_neg hp]), List.find?_cons_of_neg (by simp [other])]
        exact ih
    · rw [List.filterMap_cons_some (by rw [endSlot, if_neg hv]), List.find?_cons, List.find?_cons, ih]

/-- The lines of an entry whose slots are not touched. -/
theorem linesOfEntry_congr {s t : State} {d : Entry} (h : ∀ n ∈ d.slots, slotAt t n = slotAt s n) :
    linesOfEntry t d = linesOfEntry s d :=
  List.filterMap_congr fun n hn => by rw [h n hn]

section FailedRecord

variable {s u : State} {e : Entry}

/-- The part when a failed record has ended, before the writer looks again. -/
def recordFailed (u : State) (e : Entry) : State :=
  { u with
    fabric := fabricReplied u (abortedAnswer e.stream e.tag .journalError)
    posted := { u.posted with lossMarks := u.posted.lossMarks.write e.stream false }
    groups := { u.groups with queue := u.groups.queue.filter fun x => x.serial != e.serial }
    staging := stagingAborted u.staging e.slots
    journal := { u.journal with writer := .idle }
    regs := abortCounted (flagged u.regs .journalError) }

theorem finishFailedRecord_eq (hn : NoneHeld u) (he : journalingEntry u = some e) :
    finishFailedRecord u = drainTest (relocTrigger u (writerLook (recordFailed u e))) := by
  have entry : journalingEntry (setFlag u .journalError) = some e := he
  have aborted := settle_noneHeld
    (abortVersions
      (Work.start
        (removeEntry (countAborted
          (answerCommitAborted (setFlag u .journalError) e.stream e.tag .journalError)) e.serial)) e.slots) hn.1 hn.2
  rw [finishFailedRecord]
  simp only [entry]
  rw [abortJournaled, aborted]
  rfl

/-- With no drain and no relocation that waits, the event ends with the writer's look. -/
theorem finishFailedRecord_outside (hn : NoneHeld u) (he : journalingEntry u = some e) (hm : u.modes.mode ≠ .draining)
    (hr : u.reloc.state ≠ .pending) (hlook : (writerLook (recordFailed u e)).modes = u.modes)
    (hreloc : (writerLook (recordFailed u e)).reloc = u.reloc) :
    finishFailedRecord u = writerLook (recordFailed u e) := by
  rw [finishFailedRecord_eq hn he, relocTrigger_outside (by rw [hreloc]; exact hr), drainTest_outside (by rw [hlook]; exact hm)]

end FailedRecord

/-- The part when the last outcome of a failed record has come: none of its lines is left. -/
def linesFailed (s : State) (t : MediaTag) : State :=
  setWriter (withdraw (dropTag s t) Requester.isJournalLine) (.writing true)

section LastOutcome

variable {s : State} {t : MediaTag} {i : Nat} {failed : Bool}

/-- The last outcome is a failure. -/
theorem exec_journalLineFail_last (hcarry : Carries s t (.journalLine i)) (hw : s.journal.writer = .writing failed)
    (hlast : ∀ r ∈ requestsWithout s t, r.requester.isJournalLine = true → r.outstanding = false) :
    exec (.journalLineFail t) s = .next (finishFailedRecord (linesFailed s t)) := by
  rw [exec_journalLineFail hcarry, journalLineFailed_writing (by exact hw), journalLineAcked_last]
  · rfl
  · intro r hr
    obtain ⟨hmem, hkept⟩ := List.mem_filter.1 hr
    cases hline : r.requester.isJournalLine with
    | false => rfl
    | true => simp [hlast r hmem hline, hline] at hkept

/-- The last outcome is an acknowledgement, after a failure. -/
theorem exec_journalLineOk_last (hcarry : Carries s t (.journalLine i)) (hw : s.journal.writer = .writing true)
    (hlast : ∀ r ∈ requestsWithout s t, r.requester.isJournalLine = false) :
    exec (.journalLineOk t) s = .next (finishFailedRecord (linesFailed s t)) := by
  have same : linesFailed s t = dropTag s t := by
    have all : (requestsWithout s t).filter (fun r => r.outstanding || !r.requester.isJournalLine) = requestsWithout s t :=
      List.filter_eq_self.2 fun r hr => by simp [hlast r hr]
    have journal : ({ s.journal with writer := .writing true } : Journal) = s.journal := by rw [← hw]
    have media : ({ s.media with
        requests := (requestsWithout s t).filter fun r => r.outstanding || !r.requester.isJournalLine } : Media) =
          (dropTag s t).media := by
      rw [all]
      rfl
    calc linesFailed s t
        = { s with
            journal := { s.journal with writer := .writing true }
            media := { s.media with
              requests := (requestsWithout s t).filter fun r => r.outstanding || !r.requester.isJournalLine } } := rfl
      _ = dropTag s t := by
        rw [journal, media]
        rfl
  have done : recordLinesDone (dropTag s t) = finishFailedRecord (dropTag s t) := by
    have writing : (dropTag s t).journal.writer = .writing true := hw
    simp only [recordLinesDone, writing]
  rw [exec_journalLineOk hcarry, journalLineAcked_last (by exact hlast), done, same]

end LastOutcome

/-- The oldest entry that meets a test when another one has left the queue. -/
theorem oldestWith_removed {s u : State} {n : Serial} {p : Entry → Bool}
    (hq : u.groups.queue = s.groups.queue.filter fun x => x.serial != n)
    (hp : ∀ x ∈ s.groups.queue, p x = true → x.serial ≠ n) : oldestWith u p = oldestWith s p := by
  rw [oldestWith, oldestWith, hq]
  generalize s.groups.queue = es at hp
  induction es with
  | nil => rfl
  | cons x xs ih =>
    rw [List.forall_mem_cons] at hp
    by_cases hx : x.serial = n
    · have fails : p x = false := by
        rw [← Bool.not_eq_true]
        exact fun h => hp.1 h hx
      rw [List.filter_cons_of_neg (by simp [hx]), List.find?_cons_of_neg (by simp [fails]), ih hp.2]
    · rw [List.filter_cons_of_pos (by simpa using hx), List.find?_cons, List.find?_cons, ih hp.2]

/-- With distinct serials, an entry of another state has another serial. -/
theorem serial_ne_of_state {s : State} (hd : SerialsDistinct s) {e x : Entry} (he : e ∈ s.groups.queue)
    (hx : x ∈ s.groups.queue) (hs : x.state ≠ e.state) : x.serial ≠ e.serial := fun h =>
  hs (congrArg Entry.state (List.inj_on_of_nodup_map hd hx he h))

theorem mem_of_looked {s t : State} (h : Looked s t) {d : Entry} (hd : d ∈ s.groups.queue) (hs : d.slots ≠ []) :
    d ∈ t.groups.queue := by
  have member : d ∈ s.groups.queue.filter fun e => !e.slots.isEmpty := List.mem_filter.2 ⟨hd, by simpa using hs⟩
  rw [← h.slotted] at member
  exact List.mem_of_mem_filter member

/-- The serials of a queue in which a group has been begun are those of the queue before. -/
theorem serials_beginJournal (t : State) (d : Entry) :
    (beginJournal t d).groups.queue.map Entry.serial = t.groups.queue.map Entry.serial := by
  have queue : (beginJournal t d).groups.queue =
      t.groups.queue.map fun x => if x.serial = d.serial then begunEntry t x else x :=
    congrArg Groups.queue (beginJournal_rest t d).2.1
  rw [queue, List.map_map]
  refine List.map_congr_left fun x _ => ?_
  rw [Function.comp_apply]
  split <;> rfl

/-- Settles O31: the group is ended; what is SEALED behind it is looked at. -/
theorem failedRecordAbortsItsGroup : Obligations.FailedRecordAbortsItsGroup := by
  refine ⟨fun s t i e failed hcarry hw hn hr hm he hsealed => ?alone,
    fun s t i e d failed hcarry hw hn hr hm hd he hfind hslots => ?behind⟩
  case alone =>
    intro after
    have look : writerLook (recordFailed (linesFailed s t) e) = recordFailed (linesFailed s t) e :=
      writerLooks_none (fun x hx => hsealed x (List.mem_of_mem_filter hx)) _
    have ends : finishFailedRecord (linesFailed s t) = after := by
      rw [finishFailedRecord_outside (u := linesFailed s t) hn he hm hr (by rw [look]; rfl) (by rw [look]; rfl), look]
      rfl
    refine ⟨fun hlast => ?_, fun hfailed hlast => ?_⟩
    · rw [Answers, exec_journalLineFail_last hcarry hw hlast, ends]
    · rw [Answers, exec_journalLineOk_last hcarry (hfailed ▸ hw) hlast, ends]
  case behind =>
    intro left next
    have entry : e ∈ s.groups.queue := List.mem_of_find?_eq_some he
    have journaling : e.state = .journaling := by simpa using List.find?_some he
    obtain ⟨member, slotted, sealed⟩ := oldestWith_spec hfind
    have state : d.state = .sealed := by simpa using sealed
    have queue : (recordFailed (linesFailed s t) e).groups.queue = s.groups.queue.filter fun x => x.serial != e.serial := rfl
    have oldest : oldestWith (recordFailed (linesFailed s t) e) (fun x => x.state == .sealed) = some d :=
      (oldestWith_removed queue fun x hx hs => serial_ne_of_state hd entry hx
        (by rw [journaling, beq_iff_eq.1 hs]; decide)).trans hfind
    obtain ⟨x, looked, -, begins⟩ := writerLook_spec (s := recordFailed (linesFailed s t) e)
      (hd.sublist (List.filter_sublist.map _)) hm rfl
    have look := begins d oldest
    have rest := looked.rest
    have present : d ∈ x.groups.queue := mem_of_looked looked
      (queue ▸ List.mem_filter.2 ⟨member, by simpa using serial_ne_of_state hd entry member (by rw [state, journaling]; decide)⟩)
      slotted
    have staging : x.staging = stagingAborted s.staging e.slots := by rw [rest]; rfl
    have journal : x.journal = { s.journal with writer := .idle } := by rw [rest]; rfl
    have requests : x.media.requests = left := by rw [rest]; rfl
    have modes : x.modes = s.modes := by rw [rest]; rfl
    have reloc : x.reloc = s.reloc := by rw [rest]; rfl
    have lines : linesOfEntry x d = linesOfEntry s d := linesOfEntry_congr fun n hn =>
      slotAt_endSlot (congrArg Staging.slots staging) (hslots n hn)
    have begun := beginJournal_begun (s := s) present lines (by rw [journal]) (by rw [journal])
    obtain ⟨fabric, -, -, -, modes', reloc', ⟨w, writer⟩, -⟩ := beginJournal_rest x d
    have ends : finishFailedRecord (linesFailed s t) = beginJournal x d := by
      rw [finishFailedRecord_outside (u := linesFailed s t) hn he (by rw [show (linesFailed s t).modes = s.modes from rfl, hm]; decide)
        hr (by rw [look, modes', modes]; rfl) (by rw [look, reloc', reloc]; rfl), look]
    have goal : next (finishFailedRecord (linesFailed s t)) := by
      rw [ends]
      refine ⟨?_, ?_, fun y hy => ?_, w, by rw [writer, journal]⟩
      · rw [journal, requests] at begun
        exact begun
      · obtain ⟨back, answered, -⟩ := looked.answers
        rw [fabric, answered]
        exact List.prefix_append _ _
      · have serial : y.serial ∈ (recordFailed (linesFailed s t) e).groups.queue.map Entry.serial :=
          looked.serials.subset (serials_beginJournal x d ▸ List.mem_map_of_mem hy)
        obtain ⟨z, hz, hzy⟩ := List.mem_map.1 serial
        rw [queue] at hz
        rw [← hzy]
        simpa using (List.mem_filter.1 hz).2
    exact ⟨fun hlast => ⟨_, exec_journalLineFail_last hcarry hw hlast, goal⟩,
      fun hfailed hlast => ⟨_, exec_journalLineOk_last hcarry (hfailed ▸ hw) hlast, goal⟩⟩

end Sys2Proof.Machine

/-! PROOF. The apply engine begins a group (R104, R105). -/

namespace Sys2Proof.Machine

/-! ## The apply engine begins a group (R104, R105) -/

/-- Slots under a change of the buffer that keeps their numbers. -/
theorem slotAt_map {s t : State} {f : Slot → Slot} (hf : ∀ v, (f v).num = v.num)
    (ht : t.staging.slots = s.staging.slots.map f) (n : Nat) : slotAt t n = (slotAt s n).map f := by
  rw [slotAt, ht, find?_num_map hf]
  rfl

/-- The home writes of an entry are not changed by the states of slots. -/
theorem homeWritesOf_map {s t : State} {f : Slot → Slot} (hf : ∀ v, (f v).num = v.num)
    (hl : ∀ v, homeWriteRequest (f v) = homeWriteRequest v) (ht : t.staging.slots = s.staging.slots.map f) (e : Entry) :
    homeWritesOf t e = homeWritesOf s e := by
  refine List.filterMap_congr fun n _ => ?_
  rw [slotAt_map hf ht, Option.map_map]
  exact congrArg (fun g => (slotAt s n).map g) (funext hl)

section BeginApply

variable {t : State} {d : Entry}

theorem homeWritesOf_eq (t : State) (d : Entry) :
    homeWritesOf t d = d.slots.filterMap fun n => (slotAt t n).map homeWriteRequest := rfl

theorem beginApply_eq (t : State) (d : Entry) :
    beginApply t d =
      { t with
        groups :=
          { t.groups with
            queue := t.groups.queue.map fun x => if x.serial = d.serial then { x with state := .applying } else x }
        staging :=
          { t.staging with
            slots := t.staging.slots.map fun v => if v.num ∈ d.slots then { v with state := .applying } else v }
        apply := { current := some d.serial, outstanding := d.slots, withdrawn := false }
        media := { t.media with requests := t.media.requests ++ homeWritesOf t d } } := by
  have writes : homeWritesOf
      (mapSlots (mapEntry t d.serial fun e => { e with state := .applying }) d.slots fun v =>
        { v with state := .applying }) d = homeWritesOf t d :=
    homeWritesOf_map (fun v => by split <;> rfl) (fun v => by split <;> rfl) rfl d
  rw [← writes]
  rfl

/-- The begin of a group in the words of the statements; in them the entry stands as in an earlier state. -/
theorem beginApply_begun {s : State} {f : Entry} (hd : d ∈ t.groups.queue) (hserial : d.serial = f.serial)
    (hslots : d.slots = f.slots) (hw : homeWritesOf t d = homeWritesOf s f) : ApplyBegun s (beginApply t d) f := by
  rw [beginApply_eq]
  refine ⟨by rw [hserial, hslots], ⟨{ d with state := .applying }, ?_, hserial, rfl, hslots⟩, fun v hv hn => ?_, ?_⟩
  · exact List.mem_map.2 ⟨d, hd, if_pos rfl⟩
  · obtain ⟨u, -, rfl⟩ := List.mem_map.1 hv
    by_cases hu : u.num ∈ d.slots
    · rw [if_pos hu]
    · rw [if_neg hu, ← hslots] at hn
      exact absurd hn hu
  · rw [hw]
    exact List.suffix_append _ _

/-- What the journal writer has begun is not touched by the begin of another entry with other slots. -/
theorem JournalBegun.of_beginApply {s : State} {e : Entry} {seq : Seq} {start used : Nat} {front : List MediaReq}
    (h : JournalBegun s t e seq start used front) (hserial : e.serial ≠ d.serial) (hslots : ∀ n ∈ e.slots, n ∉ d.slots) :
    JournalBegun s (beginApply t d) e seq start used front := by
  obtain ⟨⟨y, hy, hys, rest⟩, slots, fitting, waiting⟩ := h
  rw [beginApply_eq]
  refine ⟨⟨y, ?_, hys, rest⟩, fun v hv hn => ?_, fun hf => ?_, waiting⟩
  · exact List.mem_map.2 ⟨y, hy, if_neg (hys ▸ hserial)⟩
  · obtain ⟨u, hu, rfl⟩ := List.mem_map.1 hv
    by_cases hin : u.num ∈ d.slots
    · rw [if_pos hin] at hn
      exact absurd hin (hslots _ hn)
    · rw [if_neg hin] at hn ⊢
      exact slots u hu hn
  · obtain ⟨writer, lines⟩ := fitting hf
    exact ⟨writer, lines.trans (List.prefix_append _ _)⟩

/-- The engine looks in READY while it is IDLE. -/
theorem applyLook_begins (hm : t.modes.mode = .ready) (hc : t.apply.current = none) (hd : oldestDurable t = some d) :
    applyLook t = beginApply t d := by
  rw [applyLook, if_pos ⟨hm, hc⟩, hd]

theorem applyLook_none (hd : oldestDurable t = none) : applyLook t = t := by
  rw [applyLook, hd]
  exact ite_self _

theorem applyLook_busy (hc : t.apply.current ≠ none) : applyLook t = t := if_neg fun h => hc h.2

/-- The oldest DURABLE entry with slots. -/
theorem oldestDurable_eq (t : State) : oldestDurable t = oldestWith t fun e => e.state == .durable := by
  rw [oldestDurable, oldestWith]
  simp only [Bool.and_comm]

/-- What the engine's look leaves alone. -/
theorem applyLook_rest (t : State) :
    (applyLook t).fabric = t.fabric ∧ (applyLook t).journal = t.journal ∧ (applyLook t).modes = t.modes
      ∧ (applyLook t).reloc = t.reloc ∧ (applyLook t).drain = t.drain ∧ (applyLook t).regs = t.regs
      ∧ (applyLook t).claims = t.claims ∧ (applyLook t).groups.table = t.groups.table
      ∧ (applyLook t).ckpt = t.ckpt ∧ (applyLook t).posted = t.posted := by
  unfold applyLook
  split
  · split
    · exact ⟨rfl, rfl, rfl, rfl, rfl, rfl, rfl, rfl, rfl, rfl⟩
    · exact ⟨rfl, rfl, rfl, rfl, rfl, rfl, rfl, rfl, rfl, rfl⟩
  · exact ⟨rfl, rfl, rfl, rfl, rfl, rfl, rfl, rfl, rfl, rfl⟩

/-- An entry after the engine's look: as before, or APPLYING. -/
theorem mem_queue_applyLook {y : Entry} (hy : y ∈ (applyLook t).groups.queue) :
    ∃ x ∈ t.groups.queue, y.serial = x.serial ∧ (y = x ∨ y.state = .applying) := by
  unfold applyLook at hy
  split at hy
  · split at hy
    · exact ⟨y, hy, rfl, .inl rfl⟩
    · rw [beginApply_eq] at hy
      obtain ⟨x, hx, rfl⟩ := List.mem_map.1 hy
      refine ⟨x, hx, ?_⟩
      split
      · exact ⟨rfl, .inr rfl⟩
      · exact ⟨rfl, .inl rfl⟩
  · exact ⟨y, hy, rfl, .inl rfl⟩

end BeginApply

end Sys2Proof.Machine

/-! PROOF. The answers at the end of an event are STAGED and ABORTED (R34, R47). -/

namespace Sys2Proof.Machine

/-! ## The answers at the end of an event: STAGED and ABORTED (R34, R47) -/

/-- A part of an event that answers held writes alone. -/
def AnswersHeld (s t : State) : Prop :=
  ∃ front, t.fabric.egress = s.fabric.egress ++ front ∧ ∀ r ∈ front, r.status = .staged ∨ r.status = .aborted

section AnswersHeld

variable {s t u : State}

theorem AnswersHeld.still (h : t.fabric = s.fabric) : AnswersHeld s t := ⟨[], by rw [h, List.append_nil], by simp⟩

theorem AnswersHeld.trans (h : AnswersHeld s t) (k : AnswersHeld t u) : AnswersHeld s u := by
  obtain ⟨front, hf, hs⟩ := h
  obtain ⟨back, kf, ks⟩ := k
  refine ⟨front ++ back, by rw [kf, hf, List.append_assoc], fun r hr => ?_⟩
  obtain hr | hr := List.mem_append.1 hr
  · exact hs r hr
  · exact ks r hr

theorem AnswersHeld.answerTaken {r : Response} (h : AnswersHeld s t) (hr : r.status = .staged ∨ r.status = .aborted) :
    AnswersHeld s (answerTaken t r) :=
  h.trans ⟨[r], rfl, by simpa using hr⟩

end AnswersHeld

section Turns

variable (w : Work) (h : HeldWrite)

theorem doom_fabric (st : Stream) (r : DoomReason) : (doom w st r).s.fabric = w.s.fabric := by
  unfold doom
  split <;> rfl

theorem refuseWrite_answers (r : DoomReason) : AnswersHeld w.s (refuseWrite w h r).s :=
  (AnswersHeld.still (doom_fabric { w with s := leaveSlotWait w.s h.stream } h.stream r)).answerTaken (.inr rfl)

theorem answerStaged_answers (s : State) : AnswersHeld s (answerStaged s h) :=
  (AnswersHeld.still rfl : AnswersHeld s (leaveSlotWait s h.stream)).answerTaken (.inl rfl)

theorem stageNew_heldAnswers (s : State) (c : Nat) : AnswersHeld s (stageNew s h c) := by
  rw [stageNew_answers]
  exact ⟨[stagedAnswer h], rfl, by simp [stagedAnswer, plainAnswer]⟩

theorem joinSlotWait_answers (s : State) : AnswersHeld s (joinSlotWait s h) := by
  unfold joinSlotWait
  split <;> exact .still rfl

theorem fromCheck4_answers : AnswersHeld w.s (fromCheck4 w h).s := by
  unfold fromCheck4
  split
  · exact refuseWrite_answers w h _
  · split
    · exact refuseWrite_answers w h _
    · split
      · exact joinSlotWait_answers h w.s
      · exact stageNew_heldAnswers h w.s _

theorem fromCheck3_answers : AnswersHeld w.s (fromCheck3 w h).s := by
  unfold fromCheck3
  split
  · exact fromCheck4_answers w h
  · split
    · exact answerStaged_answers h (restartIdle (mapSlots w.s _ (mergeInto h)) h.stream)
    · split
      · exact joinSlotWait_answers h w.s
      · exact (AnswersHeld.still rfl).trans (answerStaged_answers h _)

theorem fromCheck2_answers : AnswersHeld w.s (fromCheck2 w h).s := by
  unfold fromCheck2 claimDecision
  split
  · exact fromCheck3_answers w h
  · split
    · exact fromCheck3_answers w h
    · split
      · exact refuseWrite_answers w h _
      · exact .still rfl

theorem reexamineOne_answers (r : WaitRecord) : AnswersHeld w.s (reexamineOne w r).s := by
  unfold reexamineOne
  split
  · exact fromCheck3_answers { w with s := leaveWaitList w.s r.write.stream } r.write
  · exact .still rfl

/-- The end of an event answers held writes alone. -/
theorem settle_answers : AnswersHeld w.s (settle w) :=
  settle_keeps (P := AnswersHeld w.s) (Q := fun _ => True) (fun _ _ _ _ => trivial) (fun _ _ _ _ => trivial)
    (fun u r _ hu => hu.trans (reexamineOne_answers u r)) (fun u h _ hu => hu.trans (fromCheck2_answers u h)) w (.still rfl)

end Turns

end Sys2Proof.Machine

/-! PROOF. COMMIT_LINE_OK: the group's answer and what the writer and the engine do then (R95, R98, R104). -/

namespace Sys2Proof.Machine

/-! ## The end of an event that may empty the queue or end a drain -/

/-- What the relocation trigger and the test of a drain of origin READY can change. -/
theorem drainTest_relocTrigger_eq {b s : State} (h : s.modes.mode = .draining → s.drain.origin = some .ready) :
    ∃ raised ckpt media, drainTest (relocTrigger b s) =
        { s with drain := { s.drain with finalRaised := raised }, ckpt := ckpt, media := media }
      ∧ s.media.requests <+: media.requests := by
  have trigger : ∃ ckpt media, relocTrigger b s = { s with ckpt := ckpt, media := media }
      ∧ s.media.requests <+: media.requests := by
    unfold relocTrigger
    split
    · exact ⟨_, _, raiseTrigger_eq s, raiseTrigger_requests s⟩
    · exact ⟨s.ckpt, s.media, rfl, List.prefix_rfl⟩
  obtain ⟨ckpt, media, htrigger, hmore⟩ := trigger
  rw [htrigger]
  by_cases hm : s.modes.mode = .draining
  · obtain ⟨raised, ckpt', media', htest, hmore'⟩ :=
      drainTest_ready_eq (b := { s with ckpt := ckpt, media := media }) hm (h hm)
    exact ⟨raised, ckpt', media', htest, hmore.trans hmore'⟩
  · rw [drainTest_outside (by exact hm)]
    exact ⟨s.drain.finalRaised, ckpt, media, rfl, hmore⟩

/-! ## COMMIT_LINE_OK (R98) -/

section CommitLine

variable {s : State} {t : MediaTag} {e : Entry} {x : Extent} {seq : Seq}

/-- Steps 1 to 3 of R98: the pointers, the count, and the group DURABLE. -/
def groupCommitted (v : State) (e : Entry) (x : Extent) (seq : Seq) : State :=
  makeDurable (countCommitted (advanceDurable v seq x.length)) e

/-- Step 5 of R98 and what the writer and the engine do then. -/
def commitAnswered (u : State) (e : Entry) : State :=
  applyLook (writerLook (setWriter (tryAnswer u e.serial) .idle))

theorem exec_commitLineOk (hcarry : Carries s t .commitLine) (he : journalingEntry s = some e) (hx : e.extent = some x)
    (hseq : e.seq = some seq) :
    exec (.commitLineOk t) s =
      .next (drainTest (relocTrigger (dropTag s t)
        (commitAnswered (releaseClaims (groupCommitted (dropTag s t) e x seq) e) e))) := by
  have entry : journalingEntry (dropTag s t) = some e := he
  refine congrArg Host.Outcome.next ((onOutcome_carries hcarry rfl).trans ?_)
  simp only [commitLineAcked, entry, groupDurable, extentOf, hx, hseq, Option.getD_some]
  rfl

end CommitLine

/-! ### The queue through the event -/

/-- An entry's place in a queue with distinct serials. -/
theorem queue_split {s : State} (hd : SerialsDistinct s) {e : Entry} (he : e ∈ s.groups.queue) :
    ∃ front back, s.groups.queue = front ++ e :: back ∧ (∀ x ∈ front, x.serial ≠ e.serial)
      ∧ ∀ x ∈ back, x.serial ≠ e.serial := by
  obtain ⟨front, back, hq⟩ := List.append_of_mem he
  rw [SerialsDistinct, hq, List.map_append, List.map_cons, List.nodup_append, List.nodup_cons] at hd
  obtain ⟨-, ⟨hself, -⟩, hcross⟩ := hd
  exact ⟨front, back, hq, fun x hx => hcross _ (List.mem_map_of_mem hx) _ (List.mem_cons_self ..),
    fun x hx hs => hself (hs ▸ List.mem_map_of_mem hx)⟩

/-- The turn of a group that has become DURABLE: COMMITTED when it owes no posted write. -/
theorem tryAnswer_durable {u : State} {front back : List Entry} {e : Entry}
    (hq : u.groups.queue = front ++ { e with state := .durable } :: back)
    (hf : ∀ x ∈ front, x.serial ≠ e.serial) (hb : ∀ x ∈ back, x.serial ≠ e.serial) :
    ∃ mid, tryAnswer u e.serial =
        { u with
          fabric := (tryAnswer u e.serial).fabric
          posted := { u.posted with lossMarks := (tryAnswer u e.serial).posted.lossMarks }
          groups := { u.groups with queue := front ++ mid ++ back } }
      ∧ (mid = [] ∨ ∃ answered, mid = [{ e with state := .durable, answered := answered }])
      ∧ (mid = [] → e.slots = [] ∨ e.homeDone = true)
      ∧ (tryAnswer u e.serial).fabric = fabricAfter u
        (if e.barrier = 0 ∧ e.answered = false then
          [committedAnswer e.stream e.tag (e.lossMark || lossMark u e.stream)] else []) := by
  have turn := tryAnswer_split (e := { e with state := .durable }) hq hf hb
  have due : Entry.answerable { e with state := .durable } = true ↔ e.barrier = 0 ∧ e.answered = false := by
    simp [Entry.answerable]
  rw [show e.serial = ({ e with state := .durable } : Entry).serial from rfl, turn]
  by_cases ha : e.barrier = 0 ∧ e.answered = false
  · rw [if_pos (due.2 ha), if_pos ha]
    refine ⟨(answeredOwed { e with state := .durable }).toList, rfl, ?_, fun hn => ?_, rfl⟩
    · rw [answeredOwed, if_pos (due.2 ha)]
      split
      · exact .inl rfl
      · exact .inr ⟨true, rfl⟩
    · rw [answeredOwed, if_pos (due.2 ha)] at hn
      by_cases hl : Entry.leaves { e with state := .durable } = true
      · simpa [Entry.leaves] using hl
      · rw [if_neg hl] at hn
        cases hn
  · rw [if_neg (due.not.2 ha), if_neg ha]
    refine ⟨[{ e with state := .durable }], ?_, .inr ⟨e.answered, rfl⟩, fun hn => absurd hn (List.cons_ne_nil _ _),
      (fabricAfter_nil u).symm⟩
    rw [List.append_assoc, List.singleton_append, ← hq]

/-- The writer's look in any mode. -/
theorem writerLook_cases {l : State} (hd : SerialsDistinct l) (hw : l.journal.writer = .idle) :
    ∃ x, Looked l x ∧ (writerLook l = x
      ∨ ∃ d, oldestWith l (fun e => e.state == .sealed) = some d ∧ writerLook l = beginJournal x d) := by
  by_cases hm : l.modes.mode = .ready
  · obtain ⟨x, looked, hnone, hsome⟩ := writerLook_spec hd hm hw
    refine ⟨x, looked, ?_⟩
    cases ho : oldestWith l (fun e => e.state == .sealed) with
    | none => exact .inl (hnone ho)
    | some d => exact .inr ⟨d, rfl, hsome d ho⟩
  · exact ⟨l, .refl l, .inl (writerLook_outside hm)⟩

/-- What the answer of the group and the look of the writer and the engine leave (R98 step 5, R95, R104). -/
structure CommitPassed (u z : State) (front back : List Entry) (e : Entry) : Prop where
  fabric : ∃ answers, z.fabric = fabricAfter u
      ((if e.barrier = 0 ∧ e.answered = false then
        [committedAnswer e.stream e.tag (e.lossMark || lossMark u e.stream)] else []) ++ answers)
    ∧ ∀ r ∈ answers, r.status = .committed
      ∧ ∃ y ∈ front ++ back, y.state = .sealed ∧ y.slots = [] ∧ r.stream = y.stream ∧ r.tag = y.tag
  journal : ∃ w, z.journal = { u.journal with writer := w }
  modes : z.modes = u.modes
  drain : z.drain = u.drain
  committed : z.regs.committedCount = u.regs.committedCount
  states : ∀ y ∈ z.groups.queue, y.serial = e.serial → y.state = .durable ∨ y.state = .applying

theorem RegsCounted.committedCount {r r' : Regs} (h : RegsCounted r r') : r'.committedCount = r.committedCount := by
  rw [RegsCounted] at h
  rw [h]

section CommitPassed

variable {u : State} {front back : List Entry} {e : Entry}

/-- The queue with the group's entry after its turn. -/
theorem distinct_after_turn {mid : List Entry} (hd : ((front ++ e :: back).map Entry.serial).Nodup)
    (hmid : mid = [] ∨ ∃ answered, mid = [{ e with state := .durable, answered := answered }]) :
    ((front ++ mid ++ back).map Entry.serial).Nodup := by
  have serials : (mid.map Entry.serial).Sublist [e.serial] := by
    obtain rfl | ⟨a, rfl⟩ := hmid <;> simp
  refine hd.sublist ?_
  simp only [List.map_append, List.map_cons, List.append_assoc]
  exact (List.Sublist.refl _).append (serials.append (List.Sublist.refl _))

theorem commitAnswered_passed (hd : ((front ++ e :: back).map Entry.serial).Nodup)
    (hq : u.groups.queue = front ++ { e with state := .durable } :: back)
    (hf : ∀ x ∈ front, x.serial ≠ e.serial) (hb : ∀ x ∈ back, x.serial ≠ e.serial) :
    CommitPassed u (commitAnswered u e) front back e := by
  obtain ⟨mid, turn, hmid, -, own⟩ := tryAnswer_durable hq hf hb
  have turned : SerialsDistinct (setWriter (tryAnswer u e.serial) .idle) := by
    rw [turn]
    exact distinct_after_turn hd hmid
  have queue : (setWriter (tryAnswer u e.serial) .idle).groups.queue = front ++ mid ++ back := by
    rw [turn]
    rfl
  have journal : (setWriter (tryAnswer u e.serial) .idle).journal = { u.journal with writer := .idle } := by
    rw [turn]
    rfl
  have modes : (setWriter (tryAnswer u e.serial) .idle).modes = u.modes := by rw [turn]; rfl
  have drain : (setWriter (tryAnswer u e.serial) .idle).drain = u.drain := by rw [turn]; rfl
  have regs : (setWriter (tryAnswer u e.serial) .idle).regs = u.regs := by rw [turn]; rfl
  have fabric : (setWriter (tryAnswer u e.serial) .idle).fabric = (tryAnswer u e.serial).fabric := rfl
  rw [own] at fabric
  rw [commitAnswered]
  generalize setWriter (tryAnswer u e.serial) .idle = l at turned queue journal modes drain regs fabric ⊢
  obtain ⟨x, looked, hlook⟩ := writerLook_cases turned (by rw [journal])
  have rest := looked.rest
  obtain ⟨answers, answered, hanswers⟩ := looked.answers
  have sameSerial (y : Entry) (hy : y ∈ front ++ mid ++ back) (hs : y.serial = e.serial) : y.state = .durable := by
    rw [List.mem_append, List.mem_append] at hy
    obtain (hy | hy) | hy := hy
    · exact absurd hs (hf y hy)
    · obtain rfl | ⟨a, rfl⟩ := hmid
      · cases hy
      · rw [List.mem_singleton.1 hy]
    · exact absurd hs (hb y hy)
  have emptied (y : Entry) (hy : y ∈ front ++ mid ++ back) (hs : y.state = .sealed) : y ∈ front ++ back := by
    rw [List.mem_append, List.mem_append] at hy
    rw [List.mem_append]
    obtain (hy | hy) | hy := hy
    · exact .inl hy
    · obtain rfl | ⟨a, rfl⟩ := hmid
      · cases hy
      · rw [List.mem_singleton.1 hy] at hs
        cases hs
    · exact .inr hy
  have xStates (y : Entry) (hy : y ∈ x.groups.queue) (hs : y.serial = e.serial) : y.state = .durable := by
    obtain hy | ⟨hdurable, -⟩ := looked.entries y hy
    · exact sameSerial y (queue ▸ hy) hs
    · exact hdurable
  have seen : CommitPassed u (writerLook l) front back e := by
    have whole := fabricAfter_fabricAfter fabric answered
    have sealed (r : Response) (hr : r ∈ answers) : r.status = .committed
        ∧ ∃ y ∈ front ++ back, y.state = .sealed ∧ y.slots = [] ∧ r.stream = y.stream ∧ r.tag = y.tag := by
      obtain ⟨hstatus, y, hy, hs, more⟩ := hanswers r hr
      exact ⟨hstatus, y, emptied y (queue ▸ hy) hs, hs, more⟩
    have xJournal : x.journal = { u.journal with writer := .idle } := by rw [rest]; exact journal
    have xModes : x.modes = u.modes := by rw [rest]; exact modes
    have xDrain : x.drain = u.drain := by rw [rest]; exact drain
    have xRegs : x.regs = u.regs := by rw [rest]; exact regs
    obtain hlook | ⟨d, hold, hlook⟩ := hlook
    · rw [hlook]
      exact
        { fabric := ⟨answers, whole, sealed⟩
          journal := ⟨_, xJournal⟩
          modes := xModes
          drain := xDrain
          committed := by rw [xRegs]
          states := fun y hy hs => .inl (xStates y hy hs) }
    · rw [hlook]
      obtain ⟨fabric', groups', -, -, modes', -, ⟨w, writer⟩, -, drain', regs', -⟩ := beginJournal_rest x d
      exact
        { fabric := ⟨answers, fabric'.trans whole, sealed⟩
          journal := ⟨w, by rw [writer, xJournal]⟩
          modes := modes'.trans xModes
          drain := drain'.trans xDrain
          committed := by rw [regs'.committedCount, xRegs]
          states := fun y hy hs => by
            rw [groups'] at hy
            obtain ⟨z, hz, rfl⟩ := List.mem_map.1 hy
            by_cases hzd : z.serial = d.serial
            · obtain ⟨hmem, hslots, hsealed⟩ := oldestWith_spec hold
              rw [if_pos hzd] at hs
              have durable := xStates d (mem_of_looked looked hmem hslots) (hzd.symm.trans hs)
              rw [beq_iff_eq.1 hsealed] at durable
              cases durable
            · rw [if_neg hzd] at hs ⊢
              exact .inl (xStates z hz hs) }
  obtain ⟨fabric', journal', modes', -, drain', regs', -⟩ := applyLook_rest (writerLook l)
  exact
    { fabric := by
        rw [fabric']
        exact seen.fabric
      journal := by
        rw [journal']
        exact seen.journal
      modes := modes'.trans seen.modes
      drain := drain'.trans seen.drain
      committed := by rw [regs', seen.committed]
      states := fun y hy hs => by
        obtain ⟨z, hz, hzs, rfl | happ⟩ := mem_queue_applyLook hy
        · exact seen.states y hz hs
        · exact .inr happ }

end CommitPassed

end Sys2Proof.Machine

/-! PROOF. COMMIT_LINE_OK: the group becomes DURABLE (R98). -/

namespace Sys2Proof.Machine

/-! ## COMMIT_LINE_OK: the group becomes DURABLE (R98) -/

section Durable

variable {s : State} {t : MediaTag} {e : Entry} {x : Extent} {seq : Seq}

theorem mem_queue_of_journalingEntry (he : journalingEntry s = some e) : e ∈ s.groups.queue ∧ e.state = .journaling :=
  ⟨List.mem_of_find?_eq_some he, by simpa using List.find?_some he⟩

/-- The queue once the group is DURABLE. -/
theorem queue_groupCommitted {front back : List Entry} (hq : s.groups.queue = front ++ e :: back)
    (hf : ∀ y ∈ front, y.serial ≠ e.serial) (hb : ∀ y ∈ back, y.serial ≠ e.serial) :
    (groupCommitted s e x seq).groups.queue = front ++ { e with state := .durable } :: back := by
  have mapped := mapEntry_split (s := countCommitted (advanceDurable s seq x.length)) hq hf hb fun e => { e with state := .durable }
  exact congrArg (fun u : State => u.groups.queue) mapped

/-- The claims of the group's versions are released: the part but for held writes is as it was (R47). -/
theorem releaseClaims_quiet (u : State) (e : Entry) :
    Quiet u (releaseClaims u e) ∧ AnswersHeld u (releaseClaims u e) :=
  ⟨settle_quiet { Work.start u with release := _ }, settle_answers { Work.start u with release := _ }⟩

/-- The first part of the statement: the pointers, the count, the group's own answer and its neighbours in the port. -/
theorem commitLineOk_passes (hcarry : Carries s t .commitLine) (he : journalingEntry s = some e) (hx : e.extent = some x)
    (hseq : e.seq = some seq) (hd : SerialsDistinct s)
    (hdrain : s.modes.mode = .draining → s.drain.origin = some .ready) :
    Completes (.commitLineOk t) s fun u =>
      u.journal.durableThrough = seq ∧ u.journal.nextSeq = seq + 1
        ∧ u.journal.head = (s.journal.head + x.length) % s.journal.region.ringLength
        ∧ u.journal.used = s.journal.used + x.length
        ∧ u.journal.appliedThrough = s.journal.appliedThrough ∧ u.journal.region = s.journal.region
        ∧ u.regs.committedCount = s.regs.committedCount + 1
        ∧ (∀ y ∈ u.groups.queue, y.serial = e.serial → y.state = .durable ∨ y.state = .applying)
        ∧ ∃ front back, u.fabric.egress = s.fabric.egress ++ front
            ++ (if e.barrier = 0 ∧ e.answered = false then
              [committedAnswer e.stream e.tag (e.lossMark || lossMark s e.stream)] else []) ++ back
          ∧ (∀ r ∈ front, r.status = .staged ∨ r.status = .aborted)
          ∧ ∀ r ∈ back, r.status = .committed ∧ ∃ y ∈ s.groups.queue, y.serial ≠ e.serial ∧ y.state = .sealed
            ∧ y.slots = [] ∧ r.stream = y.stream ∧ r.tag = y.tag := by
  obtain ⟨member, -⟩ := mem_queue_of_journalingEntry he
  obtain ⟨front, back, hq, hf, hb⟩ := queue_split hd member
  have runs := exec_commitLineOk hcarry he hx hseq
  have queue := queue_groupCommitted (s := dropTag s t) (x := x) (seq := seq) hq hf hb
  obtain ⟨quiet, held, heldEgress, heldStatus⟩ := releaseClaims_quiet (groupCommitted (dropTag s t) e x seq) e
  have passed := commitAnswered_passed (u := releaseClaims (groupCommitted (dropTag s t) e x seq) e)
    (by rw [← hq]; exact hd) (quiet.queue.trans queue) hf hb
  have sameMark : lossMark (releaseClaims (groupCommitted (dropTag s t) e x seq) e) e.stream = lossMark s e.stream := by
    rw [lossMark, quiet.posted]
    rfl
  have modes : (releaseClaims (groupCommitted (dropTag s t) e x seq) e).modes = s.modes := quiet.modes
  have drain : (releaseClaims (groupCommitted (dropTag s t) e x seq) e).drain = s.drain := quiet.drain
  have journal : (releaseClaims (groupCommitted (dropTag s t) e x seq) e).journal =
      { s.journal with
        durableThrough := seq
        nextSeq := seq + 1
        head := (s.journal.head + x.length) % s.journal.region.ringLength
        used := s.journal.used + x.length } := quiet.journal
  have committed : (releaseClaims (groupCommitted (dropTag s t) e x seq) e).regs.committedCount =
      s.regs.committedCount + 1 := quiet.committed
  have egress : (releaseClaims (groupCommitted (dropTag s t) e x seq) e).fabric.egress = s.fabric.egress ++ held := heldEgress
  generalize releaseClaims (groupCommitted (dropTag s t) e x seq) e = u at *
  generalize commitAnswered u e = z at *
  obtain ⟨raised, ckpt, media, ends, -⟩ := drainTest_relocTrigger_eq (b := dropTag s t) (s := z) (by
    rw [passed.modes, modes, passed.drain, drain]
    exact hdrain)
  rw [ends] at runs
  obtain ⟨w, writer⟩ := passed.journal
  obtain ⟨answers, fabric, hanswers⟩ := passed.fabric
  rw [journal] at writer
  have region := congrArg Journal.region writer
  have applied := congrArg Journal.appliedThrough writer
  refine ⟨_, runs, congrArg Journal.durableThrough writer, congrArg Journal.nextSeq writer, congrArg Journal.head writer,
    congrArg Journal.used writer, applied, region, passed.committed.trans committed, passed.states, held, answers, ?_,
    heldStatus, fun r hr => ?_⟩
  · refine (congrArg Fabric.egress fabric).trans ?_
    rw [sameMark]
    refine (congrArg (· ++ _) egress).trans ?_
    simp only [List.append_assoc]
  · obtain ⟨status, y, hy, hsealed, hslots, hstream, htag⟩ := hanswers r hr
    obtain ⟨hmem, hother⟩ : y ∈ s.groups.queue ∧ y.serial ≠ e.serial := by
      obtain hy | hy := List.mem_append.1 hy
      · exact ⟨hq ▸ List.mem_append_left _ hy, hf y hy⟩
      · exact ⟨hq ▸ List.mem_append_right _ (List.mem_cons_of_mem _ hy), hb y hy⟩
    exact ⟨status, y, hmem, hother, hsealed, hslots, hstream, htag⟩

end Durable

end Sys2Proof.Machine

/-! PROOF. COMMIT_LINE_OK: the claims of the group are released (R14, R47). -/

namespace Sys2Proof.Machine

/-! ## COMMIT_LINE_OK: the claims of the group are released (R14, R47) -/

/-- What the group's answer and the looks of the writer and the engine keep of a write that has been staged. -/
structure Onward (t u : State) : Prop where
  egress : t.fabric.egress <+: u.fabric.egress
  claims : u.claims = t.claims
  modes : u.modes = t.modes
  table : u.groups.table = t.groups.table
  queue : ∀ y ∈ u.groups.queue, ∃ x ∈ t.groups.queue, y.slots = x.slots
  slots : ∀ v ∈ t.staging.slots, (∀ x ∈ t.groups.queue, v.num ∉ x.slots) → v ∈ u.staging.slots

section Onward

variable {t u v : State}

theorem Onward.refl (t : State) : Onward t t where
  egress := List.prefix_rfl
  claims := rfl
  modes := rfl
  table := rfl
  queue y hy := ⟨y, hy, rfl⟩
  slots _ hv _ := hv

theorem Onward.trans (h : Onward t u) (k : Onward u v) : Onward t v where
  egress := h.egress.trans k.egress
  claims := k.claims.trans h.claims
  modes := k.modes.trans h.modes
  table := k.table.trans h.table
  queue y hy := by
    obtain ⟨x, hx, hyx⟩ := k.queue y hy
    obtain ⟨z, hz, hxz⟩ := h.queue x hx
    exact ⟨z, hz, hyx.trans hxz⟩
  slots w hw hn := k.slots w (h.slots w hw hn) fun x hx => by
    obtain ⟨z, hz, hxz⟩ := h.queue x hx
    rw [hxz]
    exact hn z hz

/-- Entries may change, but not their slot lists. -/
theorem mapEntry_onward (t : State) (n : Serial) (f : Entry → Entry) (hf : ∀ e, (f e).slots = e.slots) :
    Onward t (mapEntry t n f) :=
  { Onward.refl t with
    queue := fun y hy => by
      obtain ⟨x, hx, rfl⟩ := List.mem_map.1 hy
      refine ⟨x, hx, ?_⟩
      split
      · exact hf x
      · rfl }

theorem sendCommitted_onward (t : State) (e : Entry) (loss : Bool) : Onward t (sendCommitted t e loss) :=
  { Onward.refl t with egress := List.prefix_append _ _ }

theorem tryAnswer_onward (t : State) (n : Serial) : Onward t (tryAnswer t n) := by
  unfold tryAnswer
  split
  · exact .refl t
  · split
    · split
      · exact (sendCommitted_onward t _ _).trans
          { Onward.refl _ with queue := fun y hy => ⟨y, List.mem_of_mem_filter hy, rfl⟩ }
      · exact (sendCommitted_onward t _ _).trans (mapEntry_onward _ _ _ fun _ => rfl)
    · exact .refl t

theorem beginJournal_onward {d : Entry} (hd : d ∈ t.groups.queue) : Onward t (beginJournal t d) := by
  obtain ⟨fabric, groups, staging, -, modes, -, -, -, -, -, claims⟩ := beginJournal_rest t d
  exact
    { egress := by rw [fabric]
      claims
      modes
      table := by rw [groups]; rfl
      queue := fun y hy => (mapEntry_onward t d.serial (begunEntry t) fun _ => rfl).queue y (groups ▸ hy)
      slots := fun v hv hn => by
        rw [staging]
        exact List.mem_map.2 ⟨v, hv, if_neg (hn d hd)⟩ }

theorem writerLooks_onward (n : Nat) (t : State) : Onward t (writerLooks n t) := by
  induction n generalizing t with
  | zero => exact .refl t
  | succ n ih =>
    rw [writerLooks]
    split
    · split
      · exact .refl t
      next e he =>
        split
        · exact ((mapEntry_onward t e.serial (fun e => { e with state := .durable }) fun _ => rfl).trans
            (tryAnswer_onward _ _)).trans (ih _)
        · exact beginJournal_onward (List.mem_of_find?_eq_some he)
    · exact .refl t

theorem applyLook_onward (t : State) : Onward t (applyLook t) := by
  unfold applyLook
  split
  · split
    · exact .refl t
    next e he =>
      rw [beginApply_eq]
      exact
        { Onward.refl t with
          queue := fun y hy => (mapEntry_onward t e.serial (fun e => { e with state := .applying }) fun _ => rfl).queue y hy
          slots := fun v hv hn => List.mem_map.2 ⟨v, hv, if_neg (hn e (List.mem_of_find?_eq_some he))⟩ }
  · exact .refl t

theorem setWriter_onward (t : State) (w : Writer) : Onward t (setWriter t w) := { Onward.refl t with }

theorem commitAnswered_onward (t : State) (e : Entry) : Onward t (commitAnswered t e) := by
  have answered := (tryAnswer_onward t e.serial).trans (setWriter_onward _ .idle)
  exact (answered.trans (writerLooks_onward _ _)).trans (applyLook_onward _)

end Onward

section Released

variable {s : State} {t : MediaTag} {e : Entry} {x : Extent} {seq : Seq}

/-- The slots of the group are DURABLE, whatever else the queue holds. -/
theorem groupCommitted_staging (v : State) :
    (groupCommitted v e x seq).staging =
      { v.staging with slots := v.staging.slots.map fun v => if v.num ∈ e.slots then { v with state := .durable } else v } :=
  rfl

theorem linesOf_groupCommitted (s : State) : linesOf (groupCommitted (dropTag s t) e x seq) e.slots = linesReleased s e.slots := by
  refine List.filterMap_congr fun n _ => ?_
  rw [slotAt_map (s := s) (f := fun v => if v.num ∈ e.slots then { v with state := .durable } else v)
    (fun v => by split <;> rfl) rfl, Option.map_map]
  cases slotAt s n with
  | none => rfl
  | some v => 
    simp only [Option.map_some, Function.comp_apply]
    split <;> rfl

/-- The first waiting write for a line of the group is staged; nothing has become FREE (R47). -/
theorem releaseClaims_first {a : State} {r : WaitRecord} {rs : List WaitRecord} {c : Nat}
    (ha : (groupCommitted (dropTag s t) e x seq).staging = a.staging) (k : Released s a (linesReleased s e.slots) r rs c) :
    releaseClaims (groupCommitted (dropTag s t) e x seq) e = firstStaged (groupCommitted (dropTag s t) e x seq) r rs c := by
  have goes : FirstGoes { Work.start (groupCommitted (dropTag s t) e x seq) with
      release := unclaimed (groupCommitted (dropTag s t) e x seq)
        (linesOf (groupCommitted (dropTag s t) e x seq) e.slots) } r rs c :=
    .of_released k ha rfl rfl rfl (by rw [linesOf_groupCommitted]; rfl)
  have released := settleReleases_first goes
  rw [releaseClaims, settle_of_notFreed (by rw [released]; rfl), released]
  rfl

theorem mem_insertSlot_self (v : Slot) (vs : List Slot) : v ∈ insertSlot v vs := mem_insertSlot.2 (.inl rfl)

/-- The second part of the statement: the waiting write goes on, whatever the group's answer and the looks do then. -/
theorem commitLineOk_releases {a : State} {r : WaitRecord} {rs : List WaitRecord} {c : Nat} (hcarry : Carries s t .commitLine)
    (hm : s.modes.mode = .ready) (he : journalingEntry s = some e) (hx : e.extent = some x) (hseq : e.seq = some seq)
    (ha : (groupCommitted (dropTag s t) e x seq).staging = a.staging) (k : Released s a (linesReleased s e.slots) r rs c)
    (hc : ∀ y ∈ s.groups.queue, c ∉ y.slots) :
    Completes (.commitLineOk t) s fun u =>
      s.fabric.egress ++ [stagedAnswer r.write] <+: u.fabric.egress ∧ u.claims.waitList = rs
        ∧ recordOf u r.write.stream = recordStaged s r.write c ∧ stagedSlot r.write c ∈ u.staging.slots := by
  have runs := exec_commitLineOk hcarry he hx hseq
  have slotLists := (mapEntry_onward (countCommitted (advanceDurable (dropTag s t) seq x.length)) e.serial
    (fun e => { e with state := .durable }) fun _ => rfl).queue
  have released := releaseClaims_first ha k
  rw [firstStaged, stageNew_answers] at released
  rw [released] at runs
  generalize hu : ({ groupCommitted (dropTag s t) e x seq with
    claims := { (groupCommitted (dropTag s t) e x seq).claims with waitList := rs } } : State) = b at runs
  have onward := commitAnswered_onward
    { b with
      fabric := fabricReplied b (stagedAnswer r.write)
      groups := { b.groups with table := b.groups.table.write r.write.stream (recordStaged b r.write c) }
      staging := { stagingStaged b.staging r.write c with
        slotWait := b.staging.slotWait.filter fun x => x.stream != r.write.stream } } e
  generalize commitAnswered _ e = z at runs onward
  have ready : z.modes.mode = .ready := by
    rw [onward.modes, ← hu]
    exact hm
  obtain ⟨raised, ckpt, media, ends, -⟩ := drainTest_relocTrigger_eq (b := dropTag s t) (s := z)
    (fun h => absurd (ready.symm.trans h) (by decide))
  rw [ends] at runs
  subst hu
  refine ⟨_, runs, onward.egress, congrArg Claims.waitList onward.claims, ?_,
    onward.slots _ (mem_insertSlot_self _ _) fun y hy => ?_⟩
  · refine (congrArg (fun table => table.read r.write.stream) onward.table).trans ?_
    exact (PerStream.read_write ..).trans (if_pos rfl)
  · obtain ⟨w, hw, hyw⟩ := slotLists y hy
    rw [hyw]
    exact hc w hw

end Released

end Sys2Proof.Machine

/-! PROOF. COMMIT_LINE_OK: the writer and the engine begin what they can (R95, R104). -/

namespace Sys2Proof.Machine

/-! ## COMMIT_LINE_OK: the writer and the engine begin what they can (R95, R104) -/

theorem linesOfEntry_map {s t : State} {f : Slot → Slot} (hf : ∀ v, (f v).num = v.num)
    (hl : ∀ v, ((f v).line, (f v).mask, (f v).data) = (v.line, v.mask, v.data))
    (ht : t.staging.slots = s.staging.slots.map f) (e : Entry) : linesOfEntry t e = linesOfEntry s e := by
  refine List.filterMap_congr fun n _ => ?_
  rw [slotAt_map hf ht, Option.map_map]
  exact congrArg (fun g => (slotAt s n).map g) (funext hl)

theorem homeWritesOf_slots {s : State} {d f : Entry} (h : d.slots = f.slots) : homeWritesOf s d = homeWritesOf s f := by
  rw [homeWritesOf, homeWritesOf, h]

section OldestAfter

variable {s l : State} {front back : List Entry} {e : Entry} {a : Bool}

/-- The group, DURABLE now, is no longer passed over by the engine, and the writer passes over it as before. -/
theorem oldestSealed_after (hq : s.groups.queue = front ++ e :: back) (he : e.state = .journaling)
    (hl : l.groups.queue = front ++ [{ e with state := .durable, answered := a }] ++ back) :
    oldestWith l (fun y => y.state == .sealed) = oldestWith s fun y => y.state == .sealed := by
  simp [oldestWith, hq, hl, he]

theorem oldestDurable_after (hq : s.groups.queue = front ++ e :: back) (hf : ∀ y ∈ front, y.serial ≠ e.serial)
    (hslots : e.slots ≠ []) (hl : l.groups.queue = front ++ [{ e with state := .durable, answered := a }] ++ back) :
    ∃ d d', oldestWith s (fun y => y.state == .durable || y.serial == e.serial) = some d
      ∧ oldestDurable l = some d' ∧ d'.serial = d.serial ∧ d'.slots = d.slots := by
  have same : front.find? (fun y => !y.slots.isEmpty && (y.state == .durable || y.serial == e.serial)) =
      front.find? fun y => !y.slots.isEmpty && y.state == .durable := by
    refine List.find?_congr fun y hy => ?_
    rw [show (y.serial == e.serial) = false by simpa using hf y hy, Bool.or_false]
  rw [oldestDurable_eq, oldestWith, oldestWith, hq, hl, List.append_assoc, List.find?_append, List.find?_append, same,
    List.singleton_append, List.find?_cons_of_pos (by simpa using hslots), List.find?_cons_of_pos (by simpa using hslots)]
  cases front.find? fun y => !y.slots.isEmpty && y.state == .durable with
  | some f => exact ⟨f, f, rfl, rfl, rfl, rfl⟩
  | none => exact ⟨e, _, rfl, rfl, rfl, rfl⟩

/-- The begin of a SEALED group does not change which DURABLE one is the oldest. -/
theorem oldestDurable_beginJournal {x : State} {d : Entry} (hd : SerialsDistinct x) (hx : d ∈ x.groups.queue)
    (hs : d.state = .sealed) : oldestDurable (beginJournal x d) = oldestDurable x := by
  have queue : (beginJournal x d).groups.queue =
      x.groups.queue.map fun y => if y.serial = d.serial then begunEntry x y else y :=
    congrArg Groups.queue (beginJournal_rest x d).2.1
  have each (y : Entry) (hy : y ∈ x.groups.queue) (hyd : y.serial = d.serial) : y.state = .sealed := by
    rw [List.inj_on_of_nodup_map hd hy hx hyd, hs]
  rw [oldestDurable, oldestDurable, queue]
  generalize x.groups.queue = ys at each
  induction ys with
  | nil => rfl
  | cons y ys ih =>
    rw [List.forall_mem_cons] at each
    rw [List.map_cons]
    by_cases hyd : y.serial = d.serial
    · rw [if_pos hyd, List.find?_cons_of_neg (by simp [begunEntry]), List.find?_cons_of_neg (by simp [each.1 hyd]),
        ih each.2]
    · rw [if_neg hyd, List.find?_cons, List.find?_cons, ih each.2]

end OldestAfter

section BeginsNext

variable {s : State} {t : MediaTag} {e : Entry} {x : Extent} {seq : Seq}

/-- What the group's answer leaves when the group has slots whose home writes are not done, with no write held (R98 step 5). -/
structure Turned (s : State) (t : MediaTag) (e : Entry) (x : Extent) (seq : Seq) (l : State) : Prop where
  distinct : SerialsDistinct l
  requests : l.media.requests = requestsWithout s t
  journal : l.journal =
    { s.journal with
      durableThrough := seq
      nextSeq := seq + 1
      head := (s.journal.head + x.length) % s.journal.region.ringLength
      used := s.journal.used + x.length
      writer := .idle }
  staging : l.staging.slots = s.staging.slots.map fun v => if v.num ∈ e.slots then { v with state := .durable } else v
  apply : l.apply = s.apply
  modes : l.modes = s.modes
  reloc : l.reloc = s.reloc
  sealed : oldestWith l (fun y => y.state == .sealed) = oldestWith s fun y => y.state == .sealed
  durable : ∃ d d', oldestWith s (fun y => y.state == .durable || y.serial == e.serial) = some d
    ∧ oldestDurable l = some d' ∧ d'.serial = d.serial ∧ d'.slots = d.slots

theorem turned (hn : NoneHeld s) (hd : SerialsDistinct s) (he : journalingEntry s = some e) (hslots : e.slots ≠ [])
    (hhome : e.homeDone = false) :
    Turned s t e x seq
      (setWriter (tryAnswer (releaseClaims (groupCommitted (dropTag s t) e x seq) e) e.serial) .idle) := by
  obtain ⟨member, journaling⟩ := mem_queue_of_journalingEntry he
  obtain ⟨front, back, hq, hf, hb⟩ := queue_split hd member
  have kept : releaseClaims (groupCommitted (dropTag s t) e x seq) e = groupCommitted (dropTag s t) e x seq :=
    settle_noneHeld
      { Work.start (groupCommitted (dropTag s t) e x seq) with
        release := unclaimed (groupCommitted (dropTag s t) e x seq)
          (linesOf (groupCommitted (dropTag s t) e x seq) e.slots) } hn.1 hn.2
  have queue := queue_groupCommitted (s := dropTag s t) (x := x) (seq := seq) hq hf hb
  obtain ⟨mid, turn, hmid, stays, -⟩ := tryAnswer_durable queue hf hb
  have some : mid ≠ [] := fun h => (stays h).elim hslots fun h => by rw [hhome] at h; cases h
  obtain ⟨a, rfl⟩ := hmid.resolve_left some
  rw [kept, turn]
  exact
    { distinct := distinct_after_turn (by rw [← hq]; exact hd) (.inr ⟨a, rfl⟩)
      requests := rfl
      journal := rfl
      staging := rfl
      apply := rfl
      modes := rfl
      reloc := rfl
      sealed := oldestSealed_after hq journaling rfl
      durable := oldestDurable_after hq hf hslots rfl }

/-- What the engine does in READY when the writer has looked. -/
theorem applyLook_applied {u : State} {d : Entry} (hm : u.modes.mode = .ready) (hc : u.apply.current = none)
    {d' : Entry} (hd : oldestDurable u = some d') (hserial : d'.serial = d.serial) (hslots : d'.slots = d.slots)
    (hw : homeWritesOf u d = homeWritesOf s d) :
    ApplyBegun s (applyLook u) d ∧ (applyLook u).media.requests = u.media.requests ++ homeWritesOf s d := by
  have member : d' ∈ u.groups.queue := List.mem_of_find?_eq_some hd
  have writes : homeWritesOf u d' = homeWritesOf s d := (homeWritesOf_slots hslots).trans hw
  rw [applyLook_begins hm hc hd]
  refine ⟨beginApply_begun member hserial hslots writes, ?_⟩
  rw [beginApply_eq, ← writes]

/-- The states of slots do not enter into the home writes of a group. -/
theorem homeWritesOf_turned {l u : State} (turn : Turned s t e x seq l) (hu : u.staging = l.staging) (d : Entry) :
    homeWritesOf u d = homeWritesOf s d :=
  homeWritesOf_map (fun v => by split <;> rfl) (fun v => by split <;> rfl)
    ((congrArg Staging.slots hu).trans turn.staging) d

/-- The home writes of a group when the writer has begun another. -/
theorem homeWritesOf_beginJournal (u : State) (f d : Entry) : homeWritesOf (beginJournal u f) d = homeWritesOf u d :=
  homeWritesOf_map (fun v => by split <;> rfl) (fun v => by split <;> rfl)
    (congrArg Staging.slots (beginJournal_rest u f).2.2.1) d

/-- In READY with no relocation that waits, the event ends with the looks of the writer and the engine. -/
theorem exec_commitLineOk_ready {u : State} (hcarry : Carries s t .commitLine) (he : journalingEntry s = some e)
    (hx : e.extent = some x) (hseq : e.seq = some seq)
    (hu : commitAnswered (releaseClaims (groupCommitted (dropTag s t) e x seq) e) e = u) (hm : u.modes.mode = .ready)
    (hr : u.reloc.state ≠ .pending) : exec (.commitLineOk t) s = .next u := by
  rw [exec_commitLineOk hcarry he hx hseq, hu, relocTrigger_outside hr, drainTest_outside (by rw [hm]; decide)]

end BeginsNext

section ThirdPart

variable {s : State} {t : MediaTag} {e : Entry} {x : Extent} {seq : Seq} {l y : State}

/-- Nothing else is SEALED with slots: the writer is IDLE. -/
theorem applied_idle (turn : Turned s t e x seq l) (hm : s.modes.mode = .ready) (looked : Looked l y) :
    (applyLook y).journal.writer = .idle
      ∧ (s.apply.current ≠ none → (applyLook y).apply = s.apply ∧ (applyLook y).media.requests = requestsWithout s t)
      ∧ ∀ d, s.apply.current = none →
        oldestWith s (fun y => y.state == .durable || y.serial == e.serial) = some d →
        ApplyBegun s (applyLook y) d ∧ (applyLook y).media.requests = requestsWithout s t ++ homeWritesOf s d := by
  have rest := looked.rest
  have apply : y.apply = s.apply := by rw [rest]; exact turn.apply
  have requests : y.media.requests = requestsWithout s t := by rw [rest]; exact turn.requests
  have staging : y.staging = l.staging := by rw [rest]
  have modes : y.modes.mode = .ready := by rw [rest]; exact turn.modes ▸ hm
  have writer : y.journal.writer = .idle := by rw [rest]; exact congrArg Journal.writer turn.journal
  refine ⟨?_, fun hc => ?_, fun d hc hd => ?_⟩
  · rw [(applyLook_rest y).2.1, writer]
  · rw [applyLook_busy (by rw [apply]; exact hc)]
    exact ⟨apply, requests⟩
  · obtain ⟨f, d', hf, hd', hserial, hslots⟩ := turn.durable
    obtain rfl := Option.some.inj (hf.symm.trans hd)
    have oldest : oldestDurable y = some d' := by
      rw [oldestDurable_eq, oldestWith_congr looked.slotted, ← oldestDurable_eq, hd']
    rw [← requests]
    exact applyLook_applied modes (by rw [apply]; exact hc) oldest hserial hslots (homeWritesOf_turned turn staging f)

/-- The oldest SEALED group with slots is begun with the next sequence and the advanced head. -/
theorem applied_begun (turn : Turned s t e x seq l) (hm : s.modes.mode = .ready) (looked : Looked l y) {d : Entry}
    (hd : oldestWith s (fun y => y.state == .sealed) = some d)
    (hshared : ∀ f, s.apply.current = none →
      oldestWith s (fun y => y.state == .durable || y.serial == e.serial) = some f →
      ∀ n ∈ d.slots, n ∉ f.slots) :
    (s.apply.current ≠ none → (applyLook (beginJournal y d)).apply = s.apply)
      ∧ (∀ f, s.apply.current = none →
        oldestWith s (fun y => y.state == .durable || y.serial == e.serial) = some f →
        ApplyBegun s (applyLook (beginJournal y d)) f)
      ∧ JournalBegun s (applyLook (beginJournal y d)) d (seq + 1)
        ((s.journal.head + x.length) % s.journal.region.ringLength) (s.journal.used + x.length) (requestsWithout s t) := by
  have rest := looked.rest
  obtain ⟨member, slotted, sealed⟩ := oldestWith_spec (turn.sealed.trans hd)
  have present := mem_of_looked looked member slotted
  have staging : y.staging = l.staging := by rw [rest]
  have lines : linesOfEntry y d = linesOfEntry s d :=
    linesOfEntry_map (fun v => by split <;> rfl) (fun v => by split <;> rfl)
      ((congrArg Staging.slots staging).trans turn.staging) d
  have journal : y.journal = l.journal := by rw [rest]
  rw [turn.journal] at journal
  have requests : y.media.requests = requestsWithout s t := by rw [rest]; exact turn.requests
  have begun := beginJournal_begun (s := s) present lines (by rw [journal]) (by rw [journal])
  rw [journal, requests] at begun
  obtain ⟨-, -, -, apply, modes, -⟩ := beginJournal_rest y d
  have apply' : (beginJournal y d).apply = s.apply := by rw [apply, rest]; exact turn.apply
  have modes' : (beginJournal y d).modes.mode = .ready := by rw [modes, rest]; exact turn.modes ▸ hm
  have distinct : SerialsDistinct y := turn.distinct.sublist looked.serials
  have oldest : oldestDurable (beginJournal y d) = oldestDurable l := by
    rw [oldestDurable_beginJournal distinct present (beq_iff_eq.1 sealed), oldestDurable_eq,
      oldestWith_congr looked.slotted, ← oldestDurable_eq]
  obtain ⟨f, f', hf, hf', hserial, hslots⟩ := turn.durable
  have writes : homeWritesOf (beginJournal y d) f = homeWritesOf s f :=
    (homeWritesOf_beginJournal y d f).trans (homeWritesOf_turned turn staging f)
  by_cases hc : s.apply.current = none
  · have current : (beginJournal y d).apply.current = none := by rw [apply']; exact hc
    refine ⟨fun h => absurd hc h, fun g _ hg => ?_, ?_⟩
    · obtain rfl := Option.some.inj (hf.symm.trans hg)
      exact (applyLook_applied modes' current (oldest.trans hf') hserial hslots writes).1
    · have other : d.serial ≠ f'.serial := fun h => by
        have durable : f'.state = .durable := beq_iff_eq.1 (oldestWith_spec (oldestDurable_eq l ▸ hf')).2.2
        have same := List.inj_on_of_nodup_map turn.distinct member (List.mem_of_find?_eq_some hf') h
        rw [same, beq_iff_eq, durable] at sealed
        cases sealed
      rw [applyLook_begins modes' current (oldest.trans hf')]
      exact begun.of_beginApply other (hslots ▸ hshared f hc hf)
  · have busy : applyLook (beginJournal y d) = beginJournal y d := applyLook_busy (by rw [apply']; exact hc)
    rw [busy]
    exact ⟨fun _ => apply', fun _ h => absurd h hc, begun⟩

/-- The third part of the statement. -/
theorem commitLineOk_begins (hcarry : Carries s t .commitLine) (hn : NoneHeld s) (hm : s.modes.mode = .ready)
    (hr : s.reloc.state ≠ .pending) (hd : SerialsDistinct s) (he : journalingEntry s = some e) (hx : e.extent = some x)
    (hseq : e.seq = some seq) (hslots : e.slots ≠ []) (hhome : e.homeDone = false) :
    ∃ l y, Turned s t e x seq l ∧ Looked l y
      ∧ (oldestWith s (fun y => y.state == .sealed) = none → exec (.commitLineOk t) s = .next (applyLook y))
      ∧ ∀ d, oldestWith s (fun y => y.state == .sealed) = some d →
        exec (.commitLineOk t) s = .next (applyLook (beginJournal y d)) := by
  have turn := turned (t := t) (x := x) (seq := seq) hn hd he hslots hhome
  have runs (u : State) (hu : commitAnswered (releaseClaims (groupCommitted (dropTag s t) e x seq) e) e = u) :=
    exec_commitLineOk_ready (u := u) hcarry he hx hseq hu
  unfold commitAnswered at runs
  generalize setWriter (tryAnswer (releaseClaims (groupCommitted (dropTag s t) e x seq) e) e.serial) .idle = l at turn runs
  have ready : l.modes.mode = .ready := turn.modes ▸ hm
  obtain ⟨y, looked, hnone, hsome⟩ := writerLook_spec turn.distinct ready (by rw [turn.journal])
  have rest := looked.rest
  rw [turn.sealed] at hnone hsome
  refine ⟨l, y, turn, looked, fun h => runs _ (by rw [hnone h]) ?_ ?_, fun d h => runs _ (by rw [hsome d h]) ?_ ?_⟩
  · rw [(applyLook_rest y).2.2.1, rest]
    exact ready
  · rw [(applyLook_rest y).2.2.2.1, rest]
    exact turn.reloc ▸ hr
  · obtain ⟨-, -, -, -, modes, -⟩ := beginJournal_rest y d
    rw [(applyLook_rest _).2.2.1, modes, rest]
    exact ready
  · obtain ⟨-, -, -, -, -, reloc, -⟩ := beginJournal_rest y d
    rw [(applyLook_rest _).2.2.2.1, reloc, rest]
    exact turn.reloc ▸ hr

end ThirdPart

end Sys2Proof.Machine

/-! PROOF. COMMIT_LINE_FAIL: the group is in doubt (R100). -/

namespace Sys2Proof.Machine

/-! ## COMMIT_LINE_FAIL: the group is in doubt (R100) -/

/-- Entry to FAULTED in any mode: the answers follow what was sent, no journal pointer moves, and no group is left. -/
theorem enterFaulted_leaves (u : State) :
    u.fabric.egress <+: (enterFaulted u).fabric.egress ∧ (enterFaulted u).journal = { u.journal with writer := .idle }
      ∧ (enterFaulted u).groups.queue = [] := by
  obtain ⟨front, core, -⟩ := faulted_core u
  obtain ⟨answers, answered, -⟩ := faultAnswers_answered u
  obtain ⟨w, m, r, hf, -⟩ := faulted_eq u
  have journal : (faulted u).journal = { u.journal with writer := .idle } := by
    rw [hf, ← answered.journal]
  have egress : u.fabric.egress <+: (faulted u).fabric.egress := by
    rw [core.fabric]
    exact List.prefix_append _ _
  have queue := core.queue
  rw [enterFaulted_eq]
  generalize faulted u = f at journal egress queue
  cases inDrain u with
  | false => exact ⟨egress, journal, queue⟩
  | true =>
    have halted := enterHalted_haltedWith f .incomplete
    obtain ⟨answers, sent, -⟩ := halted.queues.entered
    refine ⟨egress.trans ?_, ?_, congrArg Groups.queue halted.groups⟩
    · rw [if_pos rfl, sent, List.append_assoc]
      exact List.prefix_append _ _
    · rw [if_pos rfl, enterHalted_eq, journal]

/-- Settles O32: by the four parts of the statement. -/
theorem commitLineOutcomes : Obligations.CommitLineOutcomes := by
  refine ⟨fun s t e x seq hcarry he hx hseq hd hdrain => ?passes, fun s t e x seq r rs c hcarry hm he hx hseq _ => ?releases,
    fun s t e x seq hcarry hn hm hr hd he hx hseq hslots hhome => ?begins, fun s t e hcarry he => ?fails⟩
  case passes => exact commitLineOk_passes hcarry he hx hseq hd hdrain
  case releases =>
    intro durable a released hc
    exact commitLineOk_releases (a := a) hcarry hm he hx hseq rfl released hc
  case begins =>
    intro applied
    obtain ⟨l, y, turn, looked, hnone, hsome⟩ := commitLineOk_begins hcarry hn hm hr hd he hx hseq hslots hhome
    refine ⟨fun h => ?_, fun d h hshared => ?_⟩
    · obtain ⟨writer, busy, begins⟩ := applied_idle turn hm looked
      exact ⟨_, hnone h, ⟨fun d hc hd => (begins d hc hd).1, fun hc => (busy hc).1⟩, writer, fun hc => (busy hc).2,
        fun d hc hd => (begins d hc hd).2⟩
    · obtain ⟨busy, begins, begun⟩ := applied_begun turn hm looked h hshared
      exact ⟨_, hsome d h, ⟨fun f hc hf => begins f hc hf, busy⟩, begun⟩
  case fails =>
    have entry : journalingEntry (dropTag s t) = some e := he
    have runs : exec (.commitLineFail t) s = .next (enterFaulted (indoubtEntry (dropTag s t) e)) := by
      refine congrArg Host.Outcome.next ((onOutcome_carries hcarry rfl).trans ?_)
      rw [commitLineFailed, entry]
    obtain ⟨egress, journal, queue⟩ := enterFaulted_leaves (indoubtEntry (dropTag s t) e)
    have flag : flagSet (indoubtEntry (dropTag s t) e) .indoubt = true := flagged_set s.regs .indoubt
    exact ⟨_, runs, egress, flagSet_kept (enterFaulted_path _).keepsFlags flag, journal, queue⟩

end Sys2Proof.Machine

/-! PROOF. HOME_WRITE_OK: one of several, and the slot waiter that goes on (R106, R34). -/

namespace Sys2Proof.Machine

/-! ## HOME_WRITE_OK (R106) -/

/-- What the relocation trigger can change. -/
theorem relocTrigger_eq (b s : State) :
    ∃ ckpt media, relocTrigger b s = { s with ckpt := ckpt, media := media }
      ∧ (s.ckpt.inFlight.isSome = true → ckpt.inFlight.isSome = true) := by
  unfold relocTrigger
  split
  · exact ⟨_, _, raiseTrigger_eq s, fun _ => raiseTrigger_inFlight s⟩
  · exact ⟨s.ckpt, s.media, rfl, id⟩

/-- What the end of an event that may empty the queue or end a drain leaves, whatever the drain's origin. -/
structure Tested (z u : State) : Prop where
  journal : ∃ w, u.journal = { z.journal with writer := w }
  queue : ∀ y ∈ u.groups.queue, y ∈ z.groups.queue
  idle : z.apply = Apply.reset → u.apply = Apply.reset
  outside : z.modes.mode ≠ .draining →
    u.groups = z.groups ∧ (z.ckpt.inFlight.isSome = true → u.ckpt.inFlight.isSome = true)

/-- A drain of another origin does not end in the test. -/
theorem drainTest_otherwise {a : State} (hr : a.drain.origin ≠ some .ready) (ho : a.drain.origin ≠ some .recovering) :
    drainTest a = a := by
  unfold drainTest
  split
  · split
    · contradiction
    · contradiction
    · rfl
    · rfl
  · rfl

theorem drainTest_relocTrigger_tested (b z : State) : Tested z (drainTest (relocTrigger b z)) := by
  obtain ⟨ckpt, media, trigger, inFlight⟩ := relocTrigger_eq b z
  rw [trigger]
  have still : Tested z { z with ckpt := ckpt, media := media } :=
    { journal := ⟨z.journal.writer, rfl⟩, queue := fun y hy => hy, idle := id, outside := fun _ => ⟨rfl, inFlight⟩ }
  by_cases hm : z.modes.mode = .draining
  · by_cases ho : z.drain.origin = some .recovering
    · rw [drainTest_recovering (b := { z with ckpt := ckpt, media := media }) hm ho]
      split
      · rw [enterHalted_eq]
        exact
          { journal := ⟨.idle, rfl⟩
            queue := fun y hy => absurd hy List.not_mem_nil
            idle := fun _ => rfl
            outside := fun h => absurd hm h }
      · exact still
    · by_cases hr : z.drain.origin = some .ready
      · obtain ⟨raised, ckpt', media', test, -⟩ := drainTest_ready_eq (b := { z with ckpt := ckpt, media := media }) hm hr
        rw [test]
        exact
          { journal := ⟨z.journal.writer, rfl⟩
            queue := fun y hy => hy
            idle := id
            outside := fun h => absurd hm h }
      · rw [drainTest_otherwise (a := { z with ckpt := ckpt, media := media }) hr ho]
        exact still
  · rw [drainTest_outside (by exact hm)]
    exact still

section HomeWrite

variable {s : State} {t : MediaTag} {n : Nat}

/-- The slot's version is SPENT, and its slot FREE when no read pins it (R106). -/
def homeSpent (s : State) (t : MediaTag) (n : Nat) : State :=
  { s with
    apply := { s.apply with outstanding := s.apply.outstanding.filter fun m => m != n }
    staging :=
      { s.staging with
        slots := s.staging.slots.filterMap fun v =>
          if v.num = n then if v.pins = 0 then none else some { v with state := .spent, owner := none } else some v
        index := s.staging.index.filter fun x => x.slot ≠ n }
    media := { s.media with requests := requestsWithout s t } }

/-- Whether that has made the slot FREE. -/
def homeFreed (s : State) (t : MediaTag) (n : Nat) : Bool :=
  (homeSpent s t n).staging.slots.length < s.staging.slots.length

theorem endSlot_single (n : Nat) (x : SlotState) :
    endSlot [n] x = fun v => if v.num = n then if v.pins = 0 then none else some { v with state := x, owner := none } else some v := by
  funext v
  simp [endSlot]

theorem homeWork_eq (s : State) (t : MediaTag) (n : Nat) :
    endVersions (Work.start (leaveOutstanding (dropTag s t) n)) [n] .spent = ⟨homeSpent s t n, [], homeFreed s t n⟩ := by
  have index : (s.staging.index.filter fun e => decide (e.slot ∉ [n])) = s.staging.index.filter fun x => x.slot ≠ n :=
    List.filter_congr fun x _ => by simp
  have spent : (endVersions (Work.start (leaveOutstanding (dropTag s t) n)) [n] .spent).s = homeSpent s t n := by
    have unfolded : (endVersions (Work.start (leaveOutstanding (dropTag s t) n)) [n] .spent).s =
        { homeSpent s t n with
          staging :=
            { s.staging with
              slots := s.staging.slots.filterMap (endSlot [n] .spent)
              index := s.staging.index.filter fun e => decide (e.slot ∉ [n]) } } := rfl
    rw [unfolded, endSlot_single, index]
    rfl
  have freed : (endVersions (Work.start (leaveOutstanding (dropTag s t) n)) [n] .spent).freed = homeFreed s t n := by
    have unfolded : (endVersions (Work.start (leaveOutstanding (dropTag s t) n)) [n] .spent).freed =
        (false || decide ((s.staging.slots.filterMap (endSlot [n] .spent)).length < s.staging.slots.length)) := rfl
    rw [unfolded, Bool.false_or, endSlot_single]
    rfl
  rw [← spent, ← freed]
  rfl

theorem exec_homeWriteOk (hcarry : Carries s t (.homeWrite n)) :
    exec (.homeWriteOk t) s =
      .next (drainTest (relocTrigger (dropTag s t)
        (settle ⟨afterHomeWrite (homeSpent s t n), [], homeFreed s t n⟩))) := by
  refine congrArg Host.Outcome.next ((onOutcome_carries hcarry rfl).trans ?_)
  rw [homeWriteAcked, homeWork_eq]

/-- Another home write of the group is outstanding: the engine goes on. -/
theorem afterHomeWrite_others (h : ∃ m ∈ s.apply.outstanding, m ≠ n) :
    afterHomeWrite (homeSpent s t n) = homeSpent s t n := by
  obtain ⟨m, hm, hn⟩ := h
  refine if_neg fun he => ?_
  have none : (s.apply.outstanding.filter fun m => m != n) = [] := List.isEmpty_iff.1 he
  rw [List.filter_eq_nil_iff] at none
  exact none m hm (by simpa using hn)

/-- The last home write of the group. -/
theorem afterHomeWrite_last {e : Entry} (h : ∀ m ∈ s.apply.outstanding, m = n) (hc : s.apply.current = some e.serial)
    (he : entryAt s e.serial = some e) :
    afterHomeWrite (homeSpent s t n) =
      if s.apply.withdrawn then applyIdle (homeSpent s t n) else completeGroup (homeSpent s t n) e := by
  have none : (homeSpent s t n).apply.outstanding.isEmpty = true := by
    rw [List.isEmpty_iff]
    exact List.filter_eq_nil_iff.2 fun m hm => by simpa using h m hm
  have current : currentEntry (homeSpent s t n) = some e := by
    rw [currentEntry, show (homeSpent s t n).apply.current = some e.serial from hc]
    exact he
  rw [afterHomeWrite, if_pos none, lastHomeWrite, current]
  rfl

/-- One of several home writes, with no write held. -/
theorem exec_homeWriteOk_others (hcarry : Carries s t (.homeWrite n)) (hn : NoneHeld s) (hr : s.reloc.state ≠ .pending)
    (h : ∃ m ∈ s.apply.outstanding, m ≠ n) : exec (.homeWriteOk t) s = .next (drainTest (homeSpent s t n)) := by
  have ends : settle ⟨homeSpent s t n, [], homeFreed s t n⟩ = homeSpent s t n := settle_noneHeld _ hn.1 hn.2
  rw [exec_homeWriteOk hcarry, afterHomeWrite_others h, ends, relocTrigger_outside (by exact hr)]

/-- One of several home writes, with a slot waiter that takes the FREE slot (R34). -/
theorem exec_homeWriteOk_wakes {h : HeldWrite} {hs : List HeldWrite} {c : Nat} (hcarry : Carries s t (.homeWrite n))
    (hr : s.reloc.state ≠ .pending) (hm : s.modes.mode = .ready) (ho : ∃ m ∈ s.apply.outstanding, m ≠ n)
    (k : Woken s { s with staging := (homeSpent s t n).staging } [] h hs c) :
    Answers (.homeWriteOk t) s
      { s with
        apply := (homeSpent s t n).apply
        staging := { stagingStaged (homeSpent s t n).staging h c with slotWait := hs }
        groups := { s.groups with table := s.groups.table.write h.stream (recordStaged s h c) }
        fabric := fabricReplied s (stagedAnswer h)
        media := { s.media with requests := requestsWithout s t } } := by
  have freed : homeFreed s t n = true := decide_eq_true k.freed
  have wakes : FirstWakes (homeSpent s t n) h hs c := .of_woken k rfl rfl (fun _ _ => rfl) rfl
  have ends := settle_wakes (w := ⟨homeSpent s t n, [], homeFreed s t n⟩) wakes freed fun _ _ => List.not_mem_nil
  have rest : ((homeSpent s t n).staging.slotWait.filter fun x => x.stream != h.stream) = hs := by
    rw [show (homeSpent s t n).staging.slotWait = h :: hs from k.list, List.filter_cons_of_neg (by simp)]
    exact List.filter_eq_self.2 fun x hx => by simpa using (k.others x hx).1
  have record : recordStaged (homeSpent s t n) h c = recordStaged s h c := recordStaged_congr rfl rfl rfl c
  rw [stageNew_answers, rest, record] at ends
  rw [Answers, exec_homeWriteOk hcarry, afterHomeWrite_others ho, ends, relocTrigger_outside (by exact hr),
    drainTest_outside (by
      change s.modes.mode ≠ .draining
      rw [hm]
      decide)]
  rfl

end HomeWrite

end Sys2Proof.Machine

/-! PROOF. HOME_WRITE_OK: the last home write of a group (R106, R108). -/

namespace Sys2Proof.Machine

/-! ## The last home write of a group (R106) -/

section Completes

variable {s : State} {t : MediaTag} {n : Nat} {e : Entry} {x : Extent} {seq : Seq}

/-- The queue when a group's home writes are done: an answered entry leaves, one that is not yet answered stays. -/
def queueRetired (q : List Entry) (e : Entry) : List Entry :=
  if e.answered then q.filter fun y => y.serial != e.serial
  else q.map fun y => if y.serial = e.serial then { y with homeDone := true } else y

/-- Steps 1 to 3 and 6 of R106, and the engine IDLE. -/
def groupRetired (u : State) (e : Entry) (x : Extent) (seq : Seq) : State :=
  { u with
    journal :=
      { u.journal with
        appliedThrough := seq
        retiredTail := (x.start + x.length) % u.journal.region.ringLength
        retiredSpan := u.journal.retiredSpan + x.length }
    groups := { u.groups with queue := queueRetired u.groups.queue e }
    apply := Apply.reset }

/-- A checkpoint may be asked for twice on the way (R106 steps 4 and 5). -/
theorem raiseTriggers_eq (a : State) (b : Bool) :
    ∃ ckpt media, (if wantsSpace (if b then raiseTrigger a else a) then raiseTrigger (if b then raiseTrigger a else a)
          else if b then raiseTrigger a else a) = { a with ckpt := ckpt, media := media }
      ∧ (b = true → ckpt.inFlight.isSome = true) ∧ a.media.requests <+: media.requests := by
  have first : ∃ ckpt media, (if b then raiseTrigger a else a) = { a with ckpt := ckpt, media := media }
      ∧ (b = true → ckpt.inFlight.isSome = true) ∧ a.media.requests <+: media.requests := by
    cases b with
    | true => exact ⟨_, _, raiseTrigger_eq a, fun _ => raiseTrigger_inFlight a, raiseTrigger_requests a⟩
    | false => exact ⟨a.ckpt, a.media, rfl, fun h => (Bool.false_ne_true h).elim, List.prefix_rfl⟩
  obtain ⟨ckpt, media, hfirst, inFlight, more⟩ := first
  rw [hfirst]
  split
  · exact ⟨_, _, raiseTrigger_eq { a with ckpt := ckpt, media := media }, fun _ => raiseTrigger_inFlight _,
      more.trans (raiseTrigger_requests { a with ckpt := ckpt, media := media })⟩
  · exact ⟨ckpt, media, rfl, inFlight, more⟩

/-- The group completes, and the engine looks again. -/
theorem completeGroup_eq (u : State) (hx : e.extent = some x) (hseq : e.seq = some seq) :
    ∃ ckpt media, completeGroup u e = applyLook { groupRetired u e x seq with ckpt := ckpt, media := media }
      ∧ (u.regs.ckptInterval ≤ (seq - u.ckpt.applied).toNat → ckpt.inFlight.isSome = true)
      ∧ u.media.requests <+: media.requests := by
  obtain ⟨ckpt, media, triggers, inFlight, more⟩ :=
    raiseTriggers_eq (advanceApplied u seq x) (intervalReached (advanceApplied u seq x))
  refine ⟨ckpt, media, ?_, fun h => inFlight (decide_eq_true h), more⟩
  have retired (c : Checkpoint) (m : Media) :
      applyIdle (retireEntry { advanceApplied u seq x with ckpt := c, media := m } e) =
        { groupRetired u e x seq with ckpt := c, media := m } := by
    unfold retireEntry groupRetired queueRetired
    split <;> rfl
  simp only [completeGroup, extentOf, hx, hseq, Option.getD_some]
  rw [triggers, retired]

theorem mem_queueRetired {q : List Entry} {y : Entry} (hy : y ∈ queueRetired q e) :
    (e.answered = true → y.serial ≠ e.serial) ∧ ∃ z ∈ q, z.serial = y.serial ∧ z.state = y.state := by
  unfold queueRetired at hy
  split at hy
  · obtain ⟨hmem, hne⟩ := List.mem_filter.1 hy
    exact ⟨fun _ => by simpa using hne, y, hmem, rfl, rfl⟩
  next ha =>
    obtain ⟨z, hz, rfl⟩ := List.mem_map.1 hy
    refine ⟨fun h => absurd h ha, z, hz, ?_⟩
    split
    · exact ⟨rfl, rfl⟩
    · exact ⟨rfl, rfl⟩

/-- An entry that is not yet answered stays, its home writes done. -/
theorem queueRetired_stays {q : List Entry} (he : e ∈ q) (ha : e.answered = false) :
    { e with homeDone := true } ∈ queueRetired q e := by
  rw [queueRetired, if_neg (by simp [ha])]
  exact List.mem_map.2 ⟨e, he, if_pos rfl⟩

/-- An entry in the queue is found after the engine's look, its home writes done as before. -/
theorem applyLook_member {u : State} {y : Entry} (hy : y ∈ u.groups.queue) :
    ∃ z ∈ (applyLook u).groups.queue, z.serial = y.serial ∧ z.homeDone = y.homeDone := by
  unfold applyLook
  split
  · split
    · exact ⟨y, hy, rfl, rfl⟩
    next d hd =>
      rw [beginApply_eq]
      refine ⟨_, List.mem_map_of_mem hy, ?_⟩
      split
      · exact ⟨rfl, rfl⟩
      · exact ⟨rfl, rfl⟩
  · exact ⟨y, hy, rfl, rfl⟩

/-- The end of the event after the engine's part `a`. -/
theorem exec_homeWriteOk_tested {a : State} (hcarry : Carries s t (.homeWrite n)) (ha : afterHomeWrite (homeSpent s t n) = a) :
    ∃ z, Quiet a z ∧ exec (.homeWriteOk t) s = .next (drainTest (relocTrigger (dropTag s t) z)) := by
  subst ha
  exact ⟨_, settle_quiet ⟨afterHomeWrite (homeSpent s t n), [], homeFreed s t n⟩, exec_homeWriteOk hcarry⟩

/-- The last home write of a group of which none was withdrawn. -/
theorem homeWriteOk_completes (hcarry : Carries s t (.homeWrite n)) (hlast : ∀ m ∈ s.apply.outstanding, m = n)
    (hc : s.apply.current = some e.serial) (he : entryAt s e.serial = some e) (hx : e.extent = some x)
    (hseq : e.seq = some seq) (hw : s.apply.withdrawn = false) :
    Completes (.homeWriteOk t) s fun u =>
      (∃ w, u.journal =
        { s.journal with
          appliedThrough := seq
          retiredTail := (x.start + x.length) % s.journal.region.ringLength
          retiredSpan := s.journal.retiredSpan + x.length
          writer := w })
        ∧ (e.answered = true → ∀ y ∈ u.groups.queue, y.serial ≠ e.serial)
        ∧ (e.answered = false → s.modes.mode ≠ .draining →
          ∃ y ∈ u.groups.queue, y.serial = e.serial ∧ y.homeDone = true)
        ∧ (s.regs.ckptInterval ≤ (seq - s.ckpt.applied).toNat → s.modes.mode ≠ .draining →
          u.ckpt.inFlight.isSome = true) := by
  obtain ⟨ckpt, media, complete, interval, -⟩ := completeGroup_eq (homeSpent s t n) hx hseq
  obtain ⟨z, quiet, runs⟩ := exec_homeWriteOk_tested (n := n) hcarry
    ((afterHomeWrite_last hlast hc he).trans ((if_neg (by simp [hw])).trans complete))
  have tested := drainTest_relocTrigger_tested (dropTag s t) z
  generalize hb : ({ groupRetired (homeSpent s t n) e x seq with ckpt := ckpt, media := media } : State) = b at quiet
  have queue : b.groups.queue = queueRetired s.groups.queue e := by rw [← hb]; rfl
  have member : e ∈ s.groups.queue := List.mem_of_find?_eq_some he
  obtain ⟨-, journal, modes, -, -, -, -, -, hckpt, -⟩ := applyLook_rest b
  have outside (h : s.modes.mode ≠ .draining) : z.modes.mode ≠ .draining := by
    rw [quiet.modes, modes, ← hb]
    exact h
  refine ⟨_, runs, ?_, fun ha y hy => ?_, fun ha hm => ?_, fun hi hm => ?_⟩
  · obtain ⟨w, hw⟩ := tested.journal
    refine ⟨w, hw.trans ?_⟩
    rw [quiet.journal, journal, ← hb]
    rfl
  · have before := tested.queue y hy
    rw [quiet.queue] at before
    obtain ⟨v, hv, hvs, -⟩ := mem_queue_applyLook before
    rw [hvs]
    exact (mem_queueRetired (queue ▸ hv)).1 ha
  · obtain ⟨groups, -⟩ := tested.outside (outside hm)
    rw [groups, quiet.queue]
    have stays : { e with homeDone := true } ∈ b.groups.queue := by
      rw [queue]
      exact queueRetired_stays member ha
    obtain ⟨v, hv, serial, done⟩ := applyLook_member stays
    exact ⟨v, hv, serial, done⟩
  · obtain ⟨-, inFlight⟩ := tested.outside (outside hm)
    refine inFlight ?_
    rw [quiet.ckpt, hckpt, ← hb]
    exact interval hi

/-- The last home write of a group of which another was withdrawn (R108). -/
theorem homeWriteOk_withdrawn (hcarry : Carries s t (.homeWrite n)) (hlast : ∀ m ∈ s.apply.outstanding, m = n)
    (hc : s.apply.current = some e.serial) (he : entryAt s e.serial = some e) (hw : s.apply.withdrawn = true) :
    Completes (.homeWriteOk t) s fun u =>
      u.apply = Apply.reset ∧ (∃ w, u.journal = { s.journal with writer := w })
        ∧ (s.modes.mode = .draining → s.drain.origin = some .ready →
          u.journal = s.journal ∧ u.groups.queue = s.groups.queue) := by
  obtain ⟨z, quiet, runs⟩ := exec_homeWriteOk_tested (n := n) hcarry
    ((afterHomeWrite_last hlast hc he).trans (if_pos hw))
  have tested := drainTest_relocTrigger_tested (dropTag s t) z
  have journal : z.journal = s.journal := quiet.journal
  refine ⟨_, runs, tested.idle quiet.apply, ?_, fun hm ho => ?_⟩
  · obtain ⟨w, hw⟩ := tested.journal
    exact ⟨w, by rw [hw, journal]⟩
  · obtain ⟨raised, ckpt, media, ends, -⟩ := drainTest_relocTrigger_eq (b := dropTag s t) (s := z) fun _ =>
      (congrArg Drain.origin quiet.drain).trans ho
    rw [ends]
    exact ⟨journal, quiet.queue⟩

end Completes

end Sys2Proof.Machine

/-! PROOF. HOME_WRITE_OK: the engine begins the next group (R104, R106). -/

namespace Sys2Proof.Machine

/-! ## The engine begins the next group (R104, R106 step 7) -/

section BeginsNextGroup

variable {s : State} {t : MediaTag} {n : Nat} {e : Entry} {x : Extent} {seq : Seq}

/-- The end of a group that was APPLYING does not change which DURABLE group is the oldest. -/
theorem oldestDurable_retired {u : State} (hd : SerialsDistinct s) (he : e ∈ s.groups.queue) (ha : e.state = .applying)
    (hu : u.groups.queue = queueRetired s.groups.queue e) :
    oldestDurable u = oldestWith s fun y => y.state == .durable := by
  have other : ∀ y ∈ s.groups.queue, (y.state == .durable) = true → y.serial ≠ e.serial := fun y hy hs =>
    serial_ne_of_state hd he hy (by rw [ha, beq_iff_eq.1 hs]; decide)
  rw [oldestDurable_eq]
  unfold queueRetired at hu
  split at hu
  · exact oldestWith_removed hu other
  · rw [oldestWith, oldestWith, hu]
    generalize s.groups.queue = ys at other
    induction ys with
    | nil => rfl
    | cons y ys ih =>
      rw [List.forall_mem_cons] at other
      rw [List.map_cons]
      by_cases hy : y.serial = e.serial
      · have fails : (y.state == .durable) = false := by
          rw [← Bool.not_eq_true]
          exact fun h => other.1 h hy
        rw [if_pos hy, List.find?_cons_of_neg (by simp [fails]),
          List.find?_cons_of_neg (by simp [fails]), ih other.2]
      · rw [if_neg hy, List.find?_cons, List.find?_cons, ih other.2]

/-- The home writes of a group that the SPENT slot is not of. -/
theorem homeWritesOf_spent {d : Entry} (hn : n ∉ d.slots) (u : State) (hu : u.staging = (homeSpent s t n).staging) :
    homeWritesOf u d = homeWritesOf s d := by
  have slots : u.staging.slots = s.staging.slots.filterMap (endSlot [n] .spent) := by
    rw [hu, endSlot_single]
    rfl
  refine List.filterMap_congr fun m hm => ?_
  rw [slotAt_endSlot slots (n := m) (by
    rw [List.mem_singleton]
    rintro rfl
    exact hn hm)]

/-- In READY with no write held, the event ends with the engine's look. -/
theorem exec_homeWriteOk_looks (hcarry : Carries s t (.homeWrite n)) (hn : NoneHeld s) (hm : s.modes.mode = .ready)
    (hr : s.reloc.state ≠ .pending) (hlast : ∀ m ∈ s.apply.outstanding, m = n) (hc : s.apply.current = some e.serial)
    (hw : s.apply.withdrawn = false) (he : entryAt s e.serial = some e) (hx : e.extent = some x)
    (hseq : e.seq = some seq) :
    ∃ b, exec (.homeWriteOk t) s = .next (applyLook b) ∧ b.modes.mode = .ready ∧ b.apply = Apply.reset
      ∧ b.groups.queue = queueRetired s.groups.queue e ∧ b.staging = (homeSpent s t n).staging
      ∧ requestsWithout s t <+: b.media.requests := by
  obtain ⟨ckpt, media, complete, -, more⟩ := completeGroup_eq (homeSpent s t n) hx hseq
  have after := (afterHomeWrite_last hlast hc he).trans ((if_neg (by simp [hw])).trans complete)
  generalize hb : ({ groupRetired (homeSpent s t n) e x seq with ckpt := ckpt, media := media } : State) = b at after
  have modes : b.modes.mode = .ready := by
    rw [← hb]
    exact hm
  obtain ⟨-, -, modes', reloc', -, -, claims', -, -, -⟩ := applyLook_rest b
  have slotWait : (applyLook b).staging.slotWait = b.staging.slotWait := by
    unfold applyLook
    split
    · split
      · rfl
      · rw [beginApply_eq]
    · rfl
  have ends : settle ⟨applyLook b, [], homeFreed s t n⟩ = applyLook b :=
    settle_noneHeld _ (by rw [claims', ← hb]; exact hn.1) (by rw [slotWait, ← hb]; exact hn.2)
  refine ⟨b, ?_, modes, by rw [← hb]; rfl, by rw [← hb]; rfl, by rw [← hb]; rfl, by rw [← hb]; exact more⟩
  rw [exec_homeWriteOk hcarry, after, ends, relocTrigger_outside (by rw [reloc', ← hb]; exact hr),
    drainTest_outside (by rw [modes', modes]; decide)]

end BeginsNextGroup

/-- Settles O33: one of several home writes, then the last one of a group. -/
theorem homeWriteOkSpendsAndCompletes : Obligations.HomeWriteOkSpendsAndCompletes := by
  refine ⟨fun s t n hcarry hn hr hm ho => ?spent, fun s t n hcarry hr hm ho => ?woken,
    fun s t n hcarry hn hr hm ho => ?drains, fun s t n e x seq hcarry hlast hc he hx hseq => ?completes,
    fun s t n e x seq hcarry hn hm hr hd hlast hc hw he ha hx hseq => ?begins⟩
  case spent =>
    have runs := exec_homeWriteOk_others hcarry hn hr ho
    rw [drainTest_outside (by exact hm)] at runs
    exact runs
  case woken =>
    intro spent h hs c k
    exact exec_homeWriteOk_wakes hcarry hr hm ho k
  case drains => exact drainsTo_of_drainTest (exec_homeWriteOk_others hcarry hn hr ho) hm rfl
  case completes =>
    cases hw : s.apply.withdrawn with
    | false =>
      obtain ⟨u, runs, ⟨w, writer⟩, leaves, stays, interval⟩ := homeWriteOk_completes hcarry hlast hc he hx hseq hw
      refine ⟨u, runs, fun _ => ⟨?_, ?_, ?_, leaves, stays, interval⟩, fun h => (Bool.false_ne_true h).elim, ?_, ?_, ?_, ?_⟩
      all_goals rw [writer]
    | true =>
      obtain ⟨u, runs, idle, ⟨w, writer⟩, kept⟩ := homeWriteOk_withdrawn hcarry hlast hc he hw
      refine ⟨u, runs, fun h => (Bool.false_ne_true h.symm).elim, fun _ hm => ⟨idle, ?_, ?_, ?_, kept hm⟩, ?_, ?_, ?_, ?_⟩
      all_goals rw [writer]
  case begins =>
    obtain ⟨b, runs, modes, idle, queue, staging, requests⟩ :=
      exec_homeWriteOk_looks hcarry hn hm hr hlast hc hw he hx hseq
    have member : e ∈ s.groups.queue := List.mem_of_find?_eq_some he
    have oldest := oldestDurable_retired hd member ha queue
    refine ⟨fun hnone => ⟨_, runs, ?_⟩, fun d hfind hslots => ⟨_, runs, ?_⟩⟩
    · rw [applyLook_none (oldest.trans hnone)]
      exact idle
    · obtain ⟨begun, after⟩ := applyLook_applied (s := s) modes (by rw [idle]; rfl) (oldest.trans hfind) rfl rfl
        (homeWritesOf_spent hslots b staging)
      refine ⟨begun, ?_⟩
      rw [after]
      exact requests.trans (List.prefix_append _ _)

end Sys2Proof.Machine

/-! PROOF. The end of a checkpoint (R110, R112, R113). -/

namespace Sys2Proof.Machine

/-! ## The end of a checkpoint (R110, R112, R113) -/

/-- Nothing is in flight and no trigger is pending. -/
def ckptCleared (a : State) : State := { a with ckpt := { a.ckpt with inFlight := none, trigger := false } }

theorem beginCheckpoint_eq (a : State) : beginCheckpoint a = checkpointBegun a := rfl

/-- A kept trigger, or a request of the same event, begins the next checkpoint. -/
theorem endCheckpoint_requestAtEnd (a : State) (b : Bool) :
    endCheckpoint (requestAtEnd a b) =
      if a.ckpt.trigger = true ∨ b = true then checkpointBegun (ckptCleared a) else ckptCleared a := by
  cases b with
  | true =>
    rw [if_pos (.inr rfl)]
    rfl
  | false =>
    cases ht : a.ckpt.trigger with
    | true => 
      rw [if_pos (.inl rfl)]
      exact if_pos ht
    | false =>
      rw [if_neg (by simp)]
      exact if_neg (by simp [requestAtEnd, ht])

/-- Whether the next checkpoint begins or not. -/
theorem endCheckpoint_cases (a : State) (b : Bool) :
    ∃ ckpt media, endCheckpoint (requestAtEnd a b) = { a with ckpt := ckpt, media := media }
      ∧ (ckpt.counter = a.ckpt.counter ∧ ckpt.applied = a.ckpt.applied ∧ ckpt.nextSlot = a.ckpt.nextSlot
        ∧ ckpt.errors = a.ckpt.errors ∧ ckpt.trigger = false)
      ∧ (ckpt.inFlight.isSome = true ↔ a.ckpt.trigger = true ∨ b = true) ∧ a.media.requests <+: media.requests
      ∧ ∀ f, ckpt.inFlight = some f → f.sb.counter = a.ckpt.counter + 1 ∧ f.span = a.journal.retiredSpan := by
  rw [endCheckpoint_requestAtEnd]
  by_cases h : a.ckpt.trigger = true ∨ b = true
  · rw [if_pos h]
    refine ⟨_, _, rfl, ⟨rfl, rfl, rfl, rfl, rfl⟩, iff_of_true rfl h, List.prefix_append _ _, fun f hf => ?_⟩
    obtain rfl := Option.some.inj hf
    exact ⟨rfl, rfl⟩
  · rw [if_neg h]
    exact ⟨_, _, rfl, ⟨rfl, rfl, rfl, rfl, rfl⟩, iff_of_false (by simp) h, List.prefix_rfl,
      fun f hf => by cases hf⟩

/-- With requests at the port a drain does not end. -/
theorem drainTest_busy {a : State} (h : a.media.requests ≠ []) : drainTest a = a := by
  have busy : portQuiet a = false := by simp [portQuiet, h]
  have incomplete : drainComplete a = false := by simp [drainComplete, busy]
  simp only [drainTest, busy, incomplete, Bool.false_and, Bool.false_eq_true, if_false]
  split
  · split <;> rfl
  · rfl

section Failed

variable {s : State} {t : MediaTag}

/-- The part after CHECKPOINT_ERROR and the count. -/
def checkpointCounted (s : State) (t : MediaTag) : State :=
  { s with
    regs := flagged s.regs .checkpointError
    ckpt := { s.ckpt with errors := s.ckpt.errors + 1 }
    media := { s.media with requests := requestsWithout s t } }

theorem countCheckpointError_eq (s : State) (t : MediaTag) : countCheckpointError (dropTag s t) = checkpointCounted s t := rfl

/-- A failed checkpoint that is not fatal (R113). -/
theorem exec_checkpointFail (hcarry : Carries s t .checkpoint) (hm : s.modes.mode ≠ .recovering) (he : s.ckpt.errors < 2) :
    exec (.checkpointFail t) s =
      .next (drainTest (endCheckpoint (requestAtEnd (checkpointCounted s t) (wantsSpace s || pendingEmpty s)))) := by
  refine congrArg Host.Outcome.next ((onOutcome_carries hcarry rfl).trans ?_)
  refine if_neg fun h => ?_
  obtain h | h := h
  · exact hm h
  · exact absurd (show 3 ≤ s.ckpt.errors + 1 from h) (by omega)

theorem wantsSpace_iff (s : State) :
    wantsSpace s = true ↔ s.journal.writer = .waitingSpace ∧ 0 < s.journal.retiredSpan := by
  rw [wantsSpace, tailsDiffer, Bool.and_eq_true, beq_iff_eq, decide_eq_true_iff]

theorem pendingEmpty_iff (s : State) : pendingEmpty s = true ↔ s.reloc.state = .pending ∧ s.groups.queue = [] := by
  rw [pendingEmpty, Bool.and_eq_true, beq_iff_eq, List.isEmpty_iff]

/-- The third part of the statement: in READY. -/
theorem checkpointFail_ready (hcarry : Carries s t .checkpoint) (hm : s.modes.mode = .ready) (he : s.ckpt.errors < 2) :
    Completes (.checkpointFail t) s fun u =>
      flagSet u .checkpointError = true ∧ u.ckpt.errors = s.ckpt.errors + 1 ∧ u.journal = s.journal
        ∧ u.ckpt.counter = s.ckpt.counter ∧ u.ckpt.applied = s.ckpt.applied ∧ u.ckpt.nextSlot = s.ckpt.nextSlot
        ∧ u.ckpt.trigger = false ∧ u.modes = s.modes ∧ u.groups = s.groups ∧ u.staging = s.staging
        ∧ u.fabric = s.fabric
        ∧ (u.ckpt.inFlight.isSome = true ↔
          s.ckpt.trigger = true ∨ (s.journal.writer = .waitingSpace ∧ 0 < s.journal.retiredSpan)
            ∨ (s.reloc.state = .pending ∧ s.groups.queue = []))
        ∧ ∀ f, u.ckpt.inFlight = some f → f.sb.counter = s.ckpt.counter + 1 ∧ f.span = s.journal.retiredSpan := by
  have runs := exec_checkpointFail hcarry (by rw [hm]; decide) he
  obtain ⟨ckpt, media, ends, ⟨counter, applied, slot, errors, trigger⟩, inFlight, -, next⟩ :=
    endCheckpoint_cases (checkpointCounted s t) (wantsSpace s || pendingEmpty s)
  rw [ends, drainTest_outside (by
    change s.modes.mode ≠ .draining
    rw [hm]
    decide)] at runs
  rw [Bool.or_eq_true, wantsSpace_iff, pendingEmpty_iff] at inFlight
  exact ⟨_, runs, flagged_set s.regs .checkpointError, errors, rfl, counter, applied, slot, trigger, rfl, rfl, rfl, rfl,
    inFlight, next⟩

/-- The fourth part of the statement: in DRAINING. -/
theorem checkpointFail_draining (hcarry : Carries s t .checkpoint) (hm : s.modes.mode = .draining) (he : s.ckpt.errors < 2)
    (hr : s.reloc.state ≠ .pending) :
    (s.ckpt.trigger = true ∨ (s.journal.writer = .waitingSpace ∧ 0 < s.journal.retiredSpan) →
        Answers (.checkpointFail t) s (checkpointBegun (ckptCleared (checkpointCounted s t))))
      ∧ (¬(s.ckpt.trigger = true ∨ (s.journal.writer = .waitingSpace ∧ 0 < s.journal.retiredSpan)) →
        DrainsTo (.checkpointFail t) s (ckptCleared (checkpointCounted s t))) := by
  have runs := exec_checkpointFail hcarry (by rw [hm]; decide) he
  have again : (checkpointCounted s t).ckpt.trigger = true ∨ (wantsSpace s || pendingEmpty s) = true ↔
      s.ckpt.trigger = true ∨ (s.journal.writer = .waitingSpace ∧ 0 < s.journal.retiredSpan) := by
    rw [Bool.or_eq_true, wantsSpace_iff, pendingEmpty_iff]
    exact or_congr Iff.rfl (or_iff_left fun h => hr h.1)
  rw [endCheckpoint_requestAtEnd, if_congr again rfl rfl] at runs
  refine ⟨fun h => ?_, fun h => ?_⟩
  · rw [if_pos h, drainTest_busy (List.append_ne_nil_of_right_ne_nil _ (List.cons_ne_nil _ _))] at runs
    exact runs
  · rw [if_neg h] at runs
    exact drainsTo_of_drainTest runs hm rfl

end Failed

section Acknowledged

variable {s : State} {t : MediaTag} {f : InFlight}

/-- The pointers and the writer's values of an acknowledged checkpoint (R112 steps 1 to 5). -/
def checkpointAdvanced (s : State) (t : MediaTag) (f : InFlight) : State :=
  { s with
    journal :=
      { s.journal with
        releasedTail := f.sb.tail, used := s.journal.used - f.span, retiredSpan := s.journal.retiredSpan - f.span }
    ckpt := { s.ckpt with counter := f.sb.counter, applied := f.sb.applied, nextSlot := s.ckpt.nextSlot.other, errors := 0 }
    media := { s.media with requests := requestsWithout s t } }

/-- The next checkpoint begins, or not, after the writer's check of its space. -/
def checkpointPassed (p : State) : State := endCheckpoint (requestAtEnd p (wantsSpace p || intervalReached p))

theorem exec_checkpointOk (hcarry : Carries s t .checkpoint) (hf : s.ckpt.inFlight = some f) :
    exec (.checkpointOk t) s =
      .next (checkpointEnds (relocAfterCheckpoint (checkpointPassed (recheckSpace (checkpointAdvanced s t f))) f)) := by
  refine congrArg Host.Outcome.next ((onOutcome_carries hcarry rfl).trans ?_)
  have inFlight : (dropTag s t).ckpt.inFlight = some f := hf
  simp only [checkpointAcked, inFlight]
  rfl

/-- The writer's check of its space: it goes on waiting, or enters WRITING (R96). -/
theorem recheckSpace_cases (p : State) :
    recheckSpace p = p
      ∨ ∃ media, recheckSpace p = { p with journal := { p.journal with writer := .writing false }, media := media } := by
  unfold recheckSpace
  split
  · split
    · exact .inl rfl
    · split
      · exact .inr ⟨_, rfl⟩
      · exact .inl rfl
  · exact .inl rfl

/-- What the relocation unit does at an acknowledged checkpoint. -/
theorem relocAfterCheckpoint_cases (a : State) (f : InFlight) :
    relocAfterCheckpoint a f = a
      ∨ a.reloc.state = .pending ∧ a.groups.queue = [] ∧ f.sb.applied = a.journal.durableThrough
        ∧ a.ckpt.inFlight = none
        ∧ ∃ media, relocAfterCheckpoint a f =
          { a with reloc := { a.reloc with state := .formattingNew .clearing false }, media := media } := by
  unfold relocAfterCheckpoint
  split
  next h =>
    rw [Bool.and_eq_true, Bool.and_eq_true, pendingEmpty_iff, beq_iff_eq, Option.isNone_iff_eq_none] at h
    obtain ⟨⟨⟨hp, hq⟩, ha⟩, hn⟩ := h
    refine .inr ⟨hp, hq, ha, hn, ?_⟩
    unfold enterFormattingNew handClearing
    split
    · exact ⟨a.media, rfl⟩
    · exact ⟨_, rfl⟩
  · exact .inl rfl

/-- What stands before the mode decides what the acknowledgement ends. -/
theorem checkpointAcked_rest (s : State) (t : MediaTag) (f : InFlight) :
    ∃ w ckpt media st, relocAfterCheckpoint (checkpointPassed (recheckSpace (checkpointAdvanced s t f))) f =
        { s with
          journal :=
            { s.journal with
              releasedTail := f.sb.tail, used := s.journal.used - f.span, retiredSpan := s.journal.retiredSpan - f.span
              writer := w }
          ckpt := ckpt
          media := media
          reloc := { s.reloc with state := st } }
      ∧ (ckpt.counter = f.sb.counter ∧ ckpt.applied = f.sb.applied ∧ ckpt.nextSlot = s.ckpt.nextSlot.other
        ∧ ckpt.errors = 0 ∧ ckpt.trigger = false)
      ∧ (s.ckpt.trigger = true → ckpt.inFlight.isSome = true)
      ∧ (s.reloc.state ≠ .pending ∨ s.groups.queue ≠ [] ∨ f.sb.applied ≠ s.journal.durableThrough
        ∨ s.ckpt.trigger = true → st = s.reloc.state) := by
  obtain ⟨w, media, checked⟩ : ∃ w media, recheckSpace (checkpointAdvanced s t f) =
      { checkpointAdvanced s t f with
        journal := { (checkpointAdvanced s t f).journal with writer := w }, media := media } := by
    obtain h | ⟨media, h⟩ := recheckSpace_cases (checkpointAdvanced s t f)
    · exact ⟨s.journal.writer, (checkpointAdvanced s t f).media, h⟩
    · exact ⟨.writing false, media, h⟩
  rw [checkpointPassed, checked]
  generalize (wantsSpace _ || intervalReached _) = b
  obtain ⟨ckpt, media', ends, ⟨counter, applied, slot, errors, trigger⟩, inFlight, -⟩ := endCheckpoint_cases
    { checkpointAdvanced s t f with
      journal := { (checkpointAdvanced s t f).journal with writer := w }, media := media } b
  rw [ends]
  have kept (h : s.ckpt.trigger = true) : ckpt.inFlight.isSome = true := inFlight.2 (.inl h)
  obtain h | ⟨hp, hq, ha, hn, media'', h⟩ := relocAfterCheckpoint_cases
    { checkpointAdvanced s t f with
      journal := { (checkpointAdvanced s t f).journal with writer := w }, ckpt := ckpt, media := media' } f
  · rw [h]
    exact ⟨w, ckpt, media', s.reloc.state, rfl, ⟨counter, applied, slot, errors, trigger⟩, kept, fun _ => rfl⟩
  · rw [h]
    refine ⟨w, ckpt, media'', _, rfl, ⟨counter, applied, slot, errors, trigger⟩, kept, fun hfails => ?_⟩
    obtain hf | hf | hf | hf := hfails
    · exact absurd hp hf
    · exact absurd hq hf
    · exact absurd ha hf
    · have some := kept hf
      rw [show ckpt.inFlight = none from hn] at some
      cases some

end Acknowledged

end Sys2Proof.Machine

/-! PROOF. CHECKPOINT_OK (R112, R130, R135, R145). -/

namespace Sys2Proof.Machine

/-! ## CHECKPOINT_OK (R112, R130, R135, R145) -/

/-- What an acknowledged checkpoint has advanced and the end of its event keeps. -/
structure PointersKept (a u : State) : Prop where
  journal : ∃ w, u.journal = { a.journal with writer := w }
  ckpt : u.ckpt.counter = a.ckpt.counter ∧ u.ckpt.applied = a.ckpt.applied ∧ u.ckpt.nextSlot = a.ckpt.nextSlot
    ∧ u.ckpt.errors = a.ckpt.errors

section Ends

variable (a : State)

theorem PointersKept.refl : PointersKept a a := ⟨⟨a.journal.writer, rfl⟩, rfl, rfl, rfl, rfl⟩

theorem raiseTrigger_pointers : PointersKept a (raiseTrigger a) := by
  unfold raiseTrigger
  split
  · exact ⟨⟨a.journal.writer, rfl⟩, rfl, rfl, rfl, rfl⟩
  · exact ⟨⟨a.journal.writer, rfl⟩, rfl, rfl, rfl, rfl⟩

theorem enterHalted_pointers (status : DrainStatus) : PointersKept a (enterHalted a status) := by
  rw [enterHalted_eq]
  exact ⟨⟨.idle, rfl⟩, rfl, rfl, rfl, rfl⟩

theorem drainTest_pointers : PointersKept a (drainTest a) := by
  unfold drainTest
  split
  · split
    · split
      · obtain ⟨journal, ckpt⟩ := raiseTrigger_pointers { a with drain := { a.drain with finalRaised := true } }
        exact ⟨journal, ckpt⟩
      · exact .refl a
    · split
      · exact enterHalted_pointers a .complete
      · exact .refl a
    · exact .refl a
    · exact .refl a
  · exact .refl a

/-- A recovery in phase FINAL enters READY (R130). -/
theorem becomeReady_ends :
    PointersKept a (becomeReady (leaveRecovering a))
      ∧ (becomeReady (leaveRecovering a)).modes = { a.modes with mode := .ready, startStatus := .ok }
      ∧ (becomeReady (leaveRecovering a)).recovery = none
      ∧ (becomeReady (leaveRecovering a)).staging.scratch = none
      ∧ flagSet (becomeReady (leaveRecovering a)) .recoveryDone = true := by
  have look (b : State) : (applyLook b).recovery = b.recovery ∧ (applyLook b).staging.scratch = b.staging.scratch := by
    unfold applyLook
    split
    · split
      · exact ⟨rfl, rfl⟩
      · rw [beginApply_eq]
        exact ⟨rfl, rfl⟩
    · exact ⟨rfl, rfl⟩
  rw [becomeReady]
  generalize hb : ({ setMode (setStart (leaveRecovering a) .ok) .ready with
    drain := { (leaveRecovering a).drain with faultLoss := false } } : State) = b
  obtain ⟨-, journal, modes, -, -, regs, -, -, ckpt, -⟩ := applyLook_rest b
  obtain ⟨recovery, scratch⟩ := look b
  have flag : flagSet b .recoveryDone = true := by
    rw [← hb]
    exact flagged_set a.regs .recoveryDone
  subst hb
  refine ⟨⟨⟨a.journal.writer, journal⟩, ?_⟩, modes, recovery, scratch, ?_⟩
  · rw [ckpt]
    exact ⟨rfl, rfl, rfl, rfl⟩
  · rw [flagSet, regs]
    exact flag

theorem checkpointEnds_pointers : PointersKept a (checkpointEnds a) := by
  unfold checkpointEnds
  split
  · split
    · exact (becomeReady_ends a).1
    · exact .refl a
  · split
    · exact enterHalted_pointers a .complete
    · exact drainTest_pointers a
  all_goals exact .refl a

variable {a}

theorem checkpointEnds_ready (h : a.modes.mode = .ready) : checkpointEnds a = a := by
  rw [checkpointEnds, h]

theorem checkpointEnds_final {r : Recovery} (h : a.modes.mode = .recovering) (hr : a.recovery = some r)
    (hp : r.phase = .final) : checkpointEnds a = becomeReady (leaveRecovering a) := by
  simp [checkpointEnds, h, inFinal, hr, hp]

theorem checkpointEnds_drained (h : a.modes.mode = .draining) (hf : a.drain.finalRaised = true) :
    checkpointEnds a = enterHalted a .complete := by
  simp [checkpointEnds, h, hf]

end Ends

section Acknowledged

variable {s : State} {t : MediaTag} {f : InFlight}

/-- The first part of the statement. -/
theorem checkpointOk_ends (hcarry : Carries s t .checkpoint) (hf : s.ckpt.inFlight = some f) :
    Completes (.checkpointOk t) s fun u =>
      u.journal.releasedTail = f.sb.tail ∧ u.journal.used = s.journal.used - f.span
        ∧ u.journal.retiredSpan = s.journal.retiredSpan - f.span ∧ u.journal.head = s.journal.head
        ∧ u.ckpt.counter = f.sb.counter ∧ u.ckpt.applied = f.sb.applied ∧ u.ckpt.nextSlot = s.ckpt.nextSlot.other
        ∧ u.ckpt.errors = 0
        ∧ (s.modes.mode = .ready → (s.ckpt.trigger = true → u.ckpt.inFlight.isSome = true) ∧ u.ckpt.trigger = false)
        ∧ (∀ r, s.modes.mode = .recovering → s.recovery = some r → r.phase = .final →
          u.modes.mode = .ready ∧ u.modes.startStatus = .ok ∧ u.recovery = none ∧ u.staging.scratch = none
            ∧ flagSet u .recoveryDone = true)
        ∧ (s.modes.mode = .draining → s.drain.finalRaised = true → HaltedWith s u .complete (owedAtHalt s)) := by
  have runs := exec_checkpointOk hcarry hf
  obtain ⟨w, ckpt, media, st, ends, ⟨counter, applied, slot, errors, trigger⟩, inFlight, -⟩ := checkpointAcked_rest s t f
  generalize relocAfterCheckpoint (checkpointPassed (recheckSpace (checkpointAdvanced s t f))) f = a at runs ends
  obtain ⟨⟨v, journal⟩, counter', applied', slot', errors'⟩ := checkpointEnds_pointers a
  have journal' := congrArg State.journal ends
  have ckpt' : a.ckpt = ckpt := congrArg State.ckpt ends
  have modes : a.modes = s.modes := by rw [ends]
  have drain : a.drain = s.drain := by rw [ends]
  have recovery : a.recovery = s.recovery := by rw [ends]
  rw [ckpt'] at counter' applied' slot' errors'
  rw [journal'] at journal
  refine ⟨_, runs, by rw [journal], by rw [journal], by rw [journal], by rw [journal], counter'.trans counter,
    applied'.trans applied, slot'.trans slot, errors'.trans errors, fun hm => ?_, fun r hm hr hp => ?_, fun hm hraised => ?_⟩
  · rw [checkpointEnds_ready (by rw [modes]; exact hm), ckpt']
    exact ⟨inFlight, trigger⟩
  · rw [checkpointEnds_final (by rw [modes]; exact hm) (recovery.trans hr) hp]
    obtain ⟨-, ready, recovery, scratch, flag⟩ := becomeReady_ends a
    exact ⟨by rw [ready], by rw [ready], recovery, scratch, flag⟩
  · rw [checkpointEnds_drained (by rw [modes]; exact hm) (by rw [drain]; exact hraised)]
    exact enterHalted_direct (by rw [ends]) (by rw [ends]) (by rw [ends]) .complete

/-- In READY nothing more ends. -/
theorem exec_checkpointOk_ready (hcarry : Carries s t .checkpoint) (hf : s.ckpt.inFlight = some f)
    (hm : s.modes.mode = .ready) :
    exec (.checkpointOk t) s =
      .next (relocAfterCheckpoint (checkpointPassed (recheckSpace (checkpointAdvanced s t f))) f) := by
  have runs := exec_checkpointOk hcarry hf
  obtain ⟨w, ckpt, media, st, ends, -⟩ := checkpointAcked_rest s t f
  generalize relocAfterCheckpoint (checkpointPassed (recheckSpace (checkpointAdvanced s t f))) f = a at runs ends ⊢
  rw [runs, checkpointEnds_ready]
  rw [ends]
  exact hm

/-- The acknowledged checkpoint leaves the old journal empty: the relocation goes on (R135, R136). -/
theorem relocAfterCheckpoint_formats (hp : s.reloc.state = .pending) (hq : s.groups.queue = [])
    (ha : f.sb.applied = s.journal.durableThrough) (ht : s.ckpt.trigger = false) (hw : s.journal.writer = .idle)
    (hi : (s.journal.appliedThrough - f.sb.applied).toNat < s.regs.ckptInterval) :
    relocAfterCheckpoint (checkpointPassed (recheckSpace (checkpointAdvanced s t f))) f =
      enterFormattingNew (ckptCleared (checkpointAdvanced s t f)) := by
  have waits : recheckSpace (checkpointAdvanced s t f) = checkpointAdvanced s t f :=
    if_neg (by
      change s.journal.writer ≠ .waitingSpace
      rw [hw]
      decide)
  have wants : wantsSpace (checkpointAdvanced s t f) = false := by
    rw [← Bool.not_eq_true, wantsSpace_iff]
    rintro ⟨h, -⟩
    exact absurd (hw.symm.trans h) (by decide)
  have interval : intervalReached (checkpointAdvanced s t f) = false := decide_eq_false (Nat.not_le.2 hi)
  have passed : checkpointPassed (checkpointAdvanced s t f) = ckptCleared (checkpointAdvanced s t f) := by
    rw [checkpointPassed, wants, interval, endCheckpoint_requestAtEnd, if_neg]
    rintro (h | h)
    · exact absurd (ht.symm.trans h) (by decide)
    · cases h
  have pending : pendingEmpty (ckptCleared (checkpointAdvanced s t f)) = true := (pendingEmpty_iff _).2 ⟨hp, hq⟩
  have recorded : (f.sb.applied == (ckptCleared (checkpointAdvanced s t f)).journal.durableThrough) = true :=
    beq_iff_eq.2 ha
  rw [waits, passed, relocAfterCheckpoint, if_pos]
  rw [pending, recorded]
  rfl

/-- The clearing lines are handed over, or wait for the last plain write to the target. -/
theorem enterFormattingNew_eq (a : State) :
    enterFormattingNew a =
      { a with
        reloc := { a.reloc with state := .formattingNew .clearing false }
        media :=
          { a.media with
            requests := a.media.requests
              ++ if ∃ p ∈ a.posted.records, p.issued = false ∧ a.reloc.target.contains p.line = true then []
                else clearingLines .relocLine a.reloc.target } } := by
  have unissued : targetUnissued (setReloc a (.formattingNew .clearing false)) = true ↔
      ∃ p ∈ a.posted.records, p.issued = false ∧ a.reloc.target.contains p.line = true := by
    simp [targetUnissued, setReloc]
  rw [enterFormattingNew, handClearing]
  by_cases h : ∃ p ∈ a.posted.records, p.issued = false ∧ a.reloc.target.contains p.line = true
  · rw [if_pos (unissued.2 h), if_pos h, List.append_nil]
    rfl
  · rw [if_neg (unissued.not.2 h), if_neg h]
    rfl

end Acknowledged

end Sys2Proof.Machine

/-! PROOF. CHECKPOINT_OK: the writer that waits for space (R96, R112 step 6). -/

namespace Sys2Proof.Machine

/-! ## The writer that waits for space (R96, R112 step 6) -/

section WaitsForSpace

variable {s : State} {t : MediaTag} {f : InFlight} {e : Entry} {x : Extent} {seq : Seq}

/-- The lines of a record that fits now are handed over. -/
theorem recheckSpace_fits (p : State) (hw : p.journal.writer = .waitingSpace) (he : journalingEntry p = some e)
    (hx : e.extent = some x) (hseq : e.seq = some seq)
    (hfits : x.length ≤ p.journal.region.ringLength - p.journal.used) :
    recheckSpace p =
      { p with
        journal := { p.journal with writer := .writing false }
        media :=
          { p.media with
            requests := p.media.requests
              ++ lineRequests p.journal.region x.start 0 (recordBody e.stream seq (linesOfEntry p e)) } } := by
  have room : fits p (extentOf p e).length = true := decide_eq_true (by simpa [extentOf, hx] using hfits)
  have lines : groupLines p e = linesOfEntry p e := rfl
  rw [recheckSpace, if_pos hw, he]
  simp only [room, if_true]
  simp only [enterWriting, extentOf, entryBody, lines, hx, hseq, Option.getD_some]
  rfl

theorem recheckSpace_waits (p : State) (he : journalingEntry p = some e) (hx : e.extent = some x)
    (hfull : p.journal.region.ringLength - p.journal.used < x.length) : recheckSpace p = p := by
  have full : fits p (extentOf p e).length = false := decide_eq_false (by simpa [extentOf, hx] using hfull)
  unfold recheckSpace
  split
  · rw [he]
    simp only [full, Bool.false_eq_true, if_false]
  · rfl

/-- With a group in the queue the relocation unit stays where it is. -/
theorem relocAfterCheckpoint_queued {a : State} (hq : a.groups.queue ≠ []) (f : InFlight) : relocAfterCheckpoint a f = a := by
  obtain h | ⟨-, h, -⟩ := relocAfterCheckpoint_cases a f
  · exact h
  · exact absurd h hq

/-- The record fits now. -/
theorem checkpointOk_writes (hcarry : Carries s t .checkpoint) (hf : s.ckpt.inFlight = some f) (hm : s.modes.mode = .ready)
    (hw : s.journal.writer = .waitingSpace) (he : journalingEntry s = some e) (hx : e.extent = some x)
    (hseq : e.seq = some seq) (hfits : x.length ≤ s.journal.region.ringLength - (s.journal.used - f.span)) :
    Completes (.checkpointOk t) s fun u =>
      u.journal = { (checkpointAdvanced s t f).journal with writer := .writing false }
        ∧ requestsWithout s t
            ++ lineRequests s.journal.region x.start 0 (recordBody e.stream seq (linesOfEntry s e)) <+: u.media.requests
        ∧ u.groups = s.groups := by
  have runs := exec_checkpointOk_ready hcarry hf hm
  have queued : s.groups.queue ≠ [] := List.ne_nil_of_mem (mem_queue_of_journalingEntry he).1
  rw [recheckSpace_fits (checkpointAdvanced s t f) hw he hx hseq hfits, checkpointPassed] at runs
  generalize (wantsSpace _ || intervalReached _) = b at runs
  obtain ⟨ckpt, media, ends, -, -, more, -⟩ := endCheckpoint_cases
    { checkpointAdvanced s t f with
      journal := { (checkpointAdvanced s t f).journal with writer := .writing false }
      media :=
        { (checkpointAdvanced s t f).media with
          requests := (checkpointAdvanced s t f).media.requests
            ++ lineRequests (checkpointAdvanced s t f).journal.region x.start 0
              (recordBody e.stream seq (linesOfEntry (checkpointAdvanced s t f) e)) } } b
  rw [ends, relocAfterCheckpoint_queued (by exact queued)] at runs
  exact ⟨_, runs, rfl, more, rfl⟩

/-- The record still does not fit: the writer asks for the next checkpoint while the tails differ. -/
theorem checkpointOk_waits (hcarry : Carries s t .checkpoint) (hf : s.ckpt.inFlight = some f) (hm : s.modes.mode = .ready)
    (hw : s.journal.writer = .waitingSpace) (he : journalingEntry s = some e) (hx : e.extent = some x)
    (hfull : s.journal.region.ringLength - (s.journal.used - f.span) < x.length) :
    Completes (.checkpointOk t) s fun u =>
      u.journal = (checkpointAdvanced s t f).journal
        ∧ (0 < (checkpointAdvanced s t f).journal.retiredSpan → u.ckpt.inFlight.isSome = true)
        ∧ u.groups = s.groups := by
  have runs := exec_checkpointOk_ready hcarry hf hm
  have queued : s.groups.queue ≠ [] := List.ne_nil_of_mem (mem_queue_of_journalingEntry he).1
  rw [recheckSpace_waits (checkpointAdvanced s t f) he hx hfull, checkpointPassed] at runs
  have wants := (wantsSpace_iff (checkpointAdvanced s t f)).2
  obtain ⟨ckpt, media, ends, -, inFlight, -⟩ := endCheckpoint_cases (checkpointAdvanced s t f)
    (wantsSpace (checkpointAdvanced s t f) || intervalReached (checkpointAdvanced s t f))
  rw [ends, relocAfterCheckpoint_queued (by exact queued)] at runs
  exact ⟨_, runs, rfl, fun h => inFlight.2 (.inr (Bool.or_eq_true_iff.2 (.inl (wants ⟨hw, h⟩)))), rfl⟩

end WaitsForSpace

/-- Settles O34: the acknowledgement and the failure, by the mode they meet. -/
theorem checkpointOutcomes : Obligations.CheckpointOutcomes := by
  refine ⟨fun s t f hcarry hf => checkpointOk_ends hcarry hf, fun s t f hcarry hf hm => ?ready,
    fun s t hcarry hm he => checkpointFail_ready hcarry hm he,
    fun s t hcarry hm he hr => checkpointFail_draining hcarry hm he hr⟩
  intro journal target
  refine ⟨fun hp hq ha ht hw hi => ?_, fun h => ?_, fun e x seq hw he hx hseq => ?_⟩
  · rw [Answers, exec_checkpointOk_ready hcarry hf hm, relocAfterCheckpoint_formats hp hq ha ht hw hi,
      enterFormattingNew_eq]
    rfl
  · obtain ⟨w, ckpt, media, st, ends, -, -, stays⟩ := checkpointAcked_rest s t f
    refine ⟨_, exec_checkpointOk_ready hcarry hf hm, ?_⟩
    rw [ends, stays h]
  · intro lines
    exact ⟨checkpointOk_writes hcarry hf hm hw he hx hseq, checkpointOk_waits hcarry hf hm hw he hx⟩

end Sys2Proof.Machine

/-! PROOF. The lines of a format (R120, R148). -/

namespace Sys2Proof.Machine

/-! ## The lines of a format (R120, R148) -/

theorem isFormat_iff (q : Requester) : q.isFormat = true ↔ q = .formatLine := by
  cases q <;> simp [Requester.isFormat]

section FormatLine

variable {s : State} {t : MediaTag} {f : Format}

theorem exec_formatLineOk (h : Carries s t .formatLine) :
    exec (.formatLineOk t) s = .next (formatLineAcked (dropTag s t)) :=
  congrArg Host.Outcome.next (onOutcome_carries h rfl)

theorem exec_formatLineFail (h : Carries s t .formatLine) :
    exec (.formatLineFail t) s = .next (formatLineFailed (dropTag s t)) :=
  congrArg Host.Outcome.next (onOutcome_carries h rfl)

/-- Other lines are left. -/
theorem formatLineAcked_more {u : State} (h : ∃ r ∈ u.media.requests, r.requester = .formatLine) : formatLineAcked u = u := by
  refine if_pos ((anyRequest_iff u _).2 ?_)
  simpa only [isFormat_iff] using h

/-- No line is left. -/
theorem formatLineAcked_last {u : State} (h : ¬∃ r ∈ u.media.requests, r.requester = .formatLine) :
    formatLineAcked u = formatLinesDone u := by
  refine if_neg fun hany => h ?_
  simpa only [isFormat_iff] using (anyRequest_iff u _).1 hany

/-- The stage's last line, outside a drain. -/
theorem formatLinesDone_outside {u : State} (hd : inDrain u = false) (hf : u.format = some f) :
    formatLinesDone u =
      if f.failed then formatFails u
      else if f.stage = .clearing then handFormatSuperblocks u else formatComplete u := by
  rw [formatLinesDone, if_neg (by simp [hd]), hf]
  simp only
  split
  · rfl
  · cases f.stage <;> rfl

/-- A failure withdraws the lines not yet issued and is remembered. -/
def formatWithdrawn (s : State) (t : MediaTag) (f : Format) : State :=
  { s with
    media :=
      { s.media with requests := (requestsWithout s t).filter fun r => r.outstanding || !r.requester.isFormat }
    format := some { stage := f.stage, failed := true } }

theorem formatLineFailed_running (hf : s.format = some f) :
    formatLineFailed (dropTag s t) = formatLineAcked (formatWithdrawn s t f) := by
  have format : (dropTag s t).format = some f := hf
  rw [formatLineFailed, format]
  rfl

/-- The lines left after a failure are those issued. -/
theorem formatWithdrawn_lines (s : State) (t : MediaTag) (f : Format) :
    (∃ r ∈ (formatWithdrawn s t f).media.requests, r.requester = .formatLine) ↔
      ∃ r ∈ requestsWithout s t, r.requester = .formatLine ∧ r.outstanding = true := by
  constructor
  · rintro ⟨r, hr, hline⟩
    obtain ⟨hmem, hkept⟩ := List.mem_filter.1 hr
    rw [hline] at hkept
    exact ⟨r, hmem, hline, by simpa [Requester.isFormat] using hkept⟩
  · rintro ⟨r, hr, hline, hout⟩
    exact ⟨r, List.mem_filter.2 ⟨hr, by rw [hout, Bool.true_or]⟩, hline⟩

/-- The last superblock: the part enters READY with a format's values. -/
theorem formatComplete_ready (u : State) :
    (formatComplete u).modes.mode = .ready ∧ (formatComplete u).modes.startStatus = .ok
      ∧ (formatComplete u).format = none
      ∧ (formatComplete u).journal =
        { u.journal with
          head := 0, used := 0, retiredTail := 0, releasedTail := 0, retiredSpan := 0, nextSeq := 1,
          durableThrough := 0, appliedThrough := 0 }
      ∧ (formatComplete u).ckpt.counter = 2 ∧ (formatComplete u).ckpt.nextSlot = .a
      ∧ (formatComplete u).ckpt.applied = 0 ∧ (formatComplete u).ckpt.errors = 0
      ∧ (formatComplete u).regs.flags = u.regs.flags ∧ (formatComplete u).fabric = u.fabric := by
  have look (b : State) : (applyLook b).format = b.format := by
    unfold applyLook
    split
    · split
      · rfl
      · rw [beginApply_eq]
    · rfl
  rw [formatComplete, becomeReady]
  generalize hb : ({ setMode (setStart _ .ok) .ready with drain := _ } : State) = b
  obtain ⟨fabric, journal, modes, -, -, regs, -, -, ckpt, -⟩ := applyLook_rest b
  have format := look b
  rw [modes, format, journal, ckpt, regs, fabric, ← hb]
  exact ⟨rfl, rfl, rfl, rfl, rfl, rfl, rfl, rfl, rfl, rfl⟩

/-- The last outcome of a format that PFW_N has ended (R148). -/
theorem formatEnded_halts {u : State} (hd : inDrain u = true) (hf : u.fabric = s.fabric) (hc : u.regs.config = s.regs.config)
    (hq : u.groups.queue = s.groups.queue) (hm : u.modes.startStatus = s.modes.startStatus) (hj : u.journal = s.journal) :
    HaltedWith s (formatLinesDone u) .complete (owedAtHalt s)
      ∧ (formatLinesDone u).modes.startStatus = s.modes.startStatus
      ∧ (formatLinesDone u).journal = { s.journal with writer := .idle } := by
  have halts : formatLinesDone u = enterHalted u .complete := if_pos hd
  rw [halts]
  refine ⟨enterHalted_direct hf hc hq .complete, ?_, ?_⟩
  · rw [enterHalted_eq]
    exact hm
  · rw [enterHalted_eq, hj]

end FormatLine

/-- Settles O35: the lines of a running format, then those of an ended one. -/
theorem formatLinesRunTheTwoStages : Obligations.FormatLinesRunTheTwoStages := by
  refine ⟨fun s t f hcarry hf hd => ?running, fun s t hcarry hf hm hdrain => ?ended⟩
  case running =>
    intro others media left sb
    have ok := exec_formatLineOk hcarry
    have fail := (exec_formatLineFail hcarry).trans (congrArg Host.Outcome.next (formatLineFailed_running hf))
    have last (h : ¬others) : formatLineAcked (dropTag s t) = formatLinesDone (dropTag s t) := formatLineAcked_last h
    have done := formatLinesDone_outside (u := dropTag s t) hd hf
    refine ⟨fun h => ?_, fun h => ?_, fun h hff hstage => ?_, fun h hff hstage => ?_, fun hff h => ?_, fun h => ?_⟩
    · exact ok.trans (congrArg Host.Outcome.next (formatLineAcked_more h))
    · exact fail.trans (congrArg Host.Outcome.next (formatLineAcked_more ((formatWithdrawn_lines s t f).2 h)))
    · rw [Answers, ok, last h, done, if_neg (by simp [hff]), if_pos hstage]
      rfl
    · rw [last h, done, if_neg (by simp [hff]), if_neg (by rw [hstage]; decide)] at ok
      exact ⟨_, ok, formatComplete_ready (dropTag s t)⟩
    · rw [Answers, ok, last h, done, if_pos hff]
      rfl
    · have none : ¬∃ r ∈ (formatWithdrawn s t f).media.requests, r.requester = .formatLine := by
        rw [formatWithdrawn_lines]
        rintro ⟨r, hr, hline, hout⟩
        rw [h r hr hline] at hout
        cases hout
      rw [Answers, fail, formatLineAcked_last none,
        formatLinesDone_outside (u := formatWithdrawn s t f) (f := { stage := f.stage, failed := true }) hd rfl, if_pos rfl]
      rfl
  case ended =>
    intro left
    have ok := exec_formatLineOk hcarry
    have fail : exec (.formatLineFail t) s = .next (formatLineAcked (dropTag s t)) := by
      rw [exec_formatLineFail hcarry, formatLineFailed, show (dropTag s t).format = none from hf]
    have drain : inDrain (dropTag s t) = true := by
      have inDrainNow : inDrain s = true := by simp [inDrain, hm, hdrain]
      exact inDrainNow
    refine ⟨fun h => ?_, fun h => ?_⟩
    · simp only [isFormat_iff] at h
      rw [formatLineAcked_more (u := dropTag s t) h] at ok fail
      exact ⟨ok, fail⟩
    · have none : ¬∃ r ∈ (dropTag s t).media.requests, r.requester = .formatLine := by
        rintro ⟨r, hr, hline⟩
        have isLine := h r hr
        rw [hline] at isLine
        cases isLine
      rw [formatLineAcked_last none] at ok fail
      have halts := formatEnded_halts (s := s) drain rfl rfl rfl rfl rfl
      exact ⟨⟨_, ok, halts⟩, ⟨_, fail, halts⟩⟩

end Sys2Proof.Machine

/-! PROOF. The lines of a relocation target (R136, R140). -/

namespace Sys2Proof.Machine

/-! ## The lines of a relocation's target (R136, R140) -/

theorem isRelocLine_iff (q : Requester) : q.isRelocLine = true ↔ q = .relocLine := by
  cases q <;> simp [Requester.isRelocLine]

section RelocLine

variable {s : State} {t : MediaTag} {stage : ClearStage} {failed : Bool}

theorem exec_relocLineOk (h : Carries s t .relocLine) :
    exec (.relocLineOk t) s = .next (relocLineAcked (dropTag s t)) :=
  congrArg Host.Outcome.next (onOutcome_carries h rfl)

theorem exec_relocLineFail (h : Carries s t .relocLine) :
    exec (.relocLineFail t) s = .next (relocLineFailed (dropTag s t)) :=
  congrArg Host.Outcome.next (onOutcome_carries h rfl)

/-- Outside a drain, with other lines left. -/
theorem relocLineAcked_more {u : State} (hm : u.modes.mode ≠ .draining)
    (h : ∃ r ∈ u.media.requests, r.requester = .relocLine) : relocLineAcked u = u := by
  have more : anyRequest u Requester.isRelocLine = true := (anyRequest_iff u _).2 (by simpa only [isRelocLine_iff] using h)
  rw [relocLineAcked, if_pos more, drainTest_outside hm]

/-- With no line left, the stage is done. -/
theorem relocLineAcked_last {u : State} (h : ¬∃ r ∈ u.media.requests, r.requester = .relocLine) :
    relocLineAcked u = drainTest (relocLinesDone u) := by
  refine congrArg drainTest (if_neg fun hany => h ?_)
  simpa only [isRelocLine_iff] using (anyRequest_iff u _).1 hany

/-- A failure withdraws the lines not yet issued and is remembered. -/
def relocWithdrawn (s : State) (t : MediaTag) (stage : ClearStage) : State :=
  { s with
    media :=
      { s.media with requests := (requestsWithout s t).filter fun r => r.outstanding || !r.requester.isRelocLine }
    reloc := { s.reloc with state := .formattingNew stage true } }

theorem relocLineFailed_running (hr : s.reloc.state = .formattingNew stage failed) :
    relocLineFailed (dropTag s t) = relocLineAcked (relocWithdrawn s t stage) := by
  have state : (dropTag s t).reloc.state = .formattingNew stage failed := hr
  rw [relocLineFailed, state]
  rfl

/-- The lines left after a failure are those issued. -/
theorem relocWithdrawn_lines (s : State) (t : MediaTag) (stage : ClearStage) :
    (∃ r ∈ (relocWithdrawn s t stage).media.requests, r.requester = .relocLine) ↔
      ∃ r ∈ requestsWithout s t, r.requester = .relocLine ∧ r.outstanding = true := by
  constructor
  · rintro ⟨r, hr, hline⟩
    obtain ⟨hmem, hkept⟩ := List.mem_filter.1 hr
    rw [hline] at hkept
    exact ⟨r, hmem, hline, by simpa [Requester.isRelocLine] using hkept⟩
  · rintro ⟨r, hr, hline, hout⟩
    exact ⟨r, List.mem_filter.2 ⟨hr, by rw [hout, Bool.true_or]⟩, hline⟩

end RelocLine

/-- Settles O36: the two stages outside a drain, then the lines of a cancelled relocation. -/
theorem relocationLinesPrepareTheTarget : Obligations.RelocationLinesPrepareTheTarget := by
  refine ⟨fun s t stage failed hcarry hr hm => ?running, fun s t hcarry hr hm => ?cancelled⟩
  case running =>
    intro others media left target sb retiring ended
    have ok := exec_relocLineOk hcarry
    have fail := (exec_relocLineFail hcarry).trans (congrArg Host.Outcome.next (relocLineFailed_running hr))
    have state : (dropTag s t).reloc.state = .formattingNew stage failed := hr
    have last (h : ¬others) : relocLineAcked (dropTag s t) = drainTest (relocLinesDone (dropTag s t)) :=
      relocLineAcked_last h
    refine ⟨fun h => ?_, fun h => ?_, fun h hf hs => ?_, fun h hf hs hhold => ?_, fun h hf hs hhold => ?_, fun h hf => ?_,
      fun h => ?_⟩
    · rw [relocLineAcked_more (u := dropTag s t) hm h] at ok
      exact ok
    · rw [relocLineAcked_more (u := relocWithdrawn s t stage) hm ((relocWithdrawn_lines s t stage).2 h)] at fail
      exact fail
    · subst hf hs
      have done : relocLinesDone (dropTag s t) = handTargetSuperblocks (dropTag s t) := by rw [relocLinesDone, state]
      rw [last h, done, drainTest_outside (by exact hm)] at ok
      exact ok
    · subst hf hs
      have done : relocLinesDone (dropTag s t) = setFlag (setReloc (dropTag s t) .held) .relocReady := by
        rw [relocLinesDone, state]
        exact if_pos hhold
      rw [last h, done, drainTest_outside (by exact hm)] at ok
      exact ok
    · subst hf hs
      have done : relocLinesDone (dropTag s t) = enterRetiring (dropTag s t) := by
        rw [relocLinesDone, state]
        exact if_neg (by
          change ¬s.reloc.hold = true
          rw [hhold]
          decide)
      rw [last h, done, drainTest_outside (by exact hm)] at ok
      exact ok
    · subst hf
      have done : relocLinesDone (dropTag s t) = endReloc (dropTag s t) .failed := by rw [relocLinesDone, state]
      rw [last h, done, drainTest_outside (by exact hm)] at ok
      exact ok
    · have none : ¬∃ r ∈ (relocWithdrawn s t stage).media.requests, r.requester = .relocLine := by
        rw [relocWithdrawn_lines]
        rintro ⟨r, hr, hline, hout⟩
        rw [h r hr hline] at hout
        cases hout
      have done : relocLinesDone (relocWithdrawn s t stage) = endReloc (relocWithdrawn s t stage) .failed := rfl
      rw [relocLineAcked_last none, done, drainTest_outside (by exact hm)] at fail
      exact fail
  case cancelled =>
    intro left
    have state : (dropTag s t).reloc.state = .none := hr
    have done : relocLinesDone (dropTag s t) = dropTag s t := by rw [relocLinesDone, state]
    have acked : relocLineAcked (dropTag s t) = drainTest (dropTag s t) := by
      rw [relocLineAcked, done, ite_self]
    have ok : exec (.relocLineOk t) s = .next (drainTest (dropTag s t)) := by rw [exec_relocLineOk hcarry, acked]
    have fail : exec (.relocLineFail t) s = .next (drainTest (dropTag s t)) := by
      rw [exec_relocLineFail hcarry, relocLineFailed, state]
      exact congrArg Host.Outcome.next acked
    exact ⟨drainsTo_of_drainTest ok hm rfl, drainsTo_of_drainTest fail hm rfl⟩

end Sys2Proof.Machine

/-! PROOF. Retiring and restoring superblocks (R138, R139, R140). -/

namespace Sys2Proof.Machine

/-! ## Retiring and restoring superblocks (R138, R139, R140) -/

/-- Entry to FAULTED with no relocation under way leaves the relocation unit and the target's guard as they are. -/
theorem enterFaulted_relocation {u : State} (h : u.reloc.state = .none) :
    (enterFaulted u).reloc = u.reloc ∧ (enterFaulted u).decoder.guardTarget = u.decoder.guardTarget := by
  have cancelled : cancelReloc u = u := if_pos h
  obtain ⟨front, answered, -⟩ := faultAnswers_answered u
  have guard := answered.decoder
  rw [if_pos h] at guard
  have reloc : (faultAnswers u).reloc = u.reloc := by
    obtain ⟨own, aborted, -⟩ := massAbort_closes (cause := .fault) (by decide) u
    rw [faultAnswers, cancelled]
    generalize massAbort u .fault = m at aborted ⊢
    have ended := endReads_ends .portDown m.reads m
    generalize endReads m m.reads .portDown = r at ended ⊢
    obtain ⟨v, dropped, -, -, hdrop⟩ := dropPosted_eq (markFaultLoss r)
    rw [hdrop]
    rw [markFaultLoss_eq] at dropped
    exact dropped.reloc.trans (ended.reloc.trans aborted.reloc)
  obtain ⟨w, m, r, hf, -⟩ := faulted_eq u
  generalize faultAnswers u = a at hf reloc guard
  have relocF : (faulted u).reloc = u.reloc := by rw [hf]; exact reloc
  have guardF : (faulted u).decoder.guardTarget = u.decoder.guardTarget := by rw [hf]; exact guard
  rw [enterFaulted_eq]
  generalize faulted u = f at relocF guardF
  cases inDrain u with
  | false => exact ⟨relocF, guardF⟩
  | true =>
    rw [if_pos rfl, enterHalted_eq]
    exact ⟨relocF, guardF⟩

section Superblocks

variable {s : State} {t : MediaTag} {slot : SbSlot}

theorem exec_retiringSbOk (h : Carries s t (.retiringSb slot)) :
    exec (.retiringSbOk t) s = .next (retiringAcked (dropTag s t)) :=
  congrArg Host.Outcome.next (onOutcome_carries h rfl)

theorem exec_retiringSbFail (h : Carries s t (.retiringSb slot)) :
    exec (.retiringSbFail t) s = .next (retiringFailed slot (dropTag s t)) :=
  congrArg Host.Outcome.next (onOutcome_carries h rfl)

theorem exec_restoringSbOk (h : Carries s t (.restoringSb slot)) :
    exec (.restoringSbOk t) s = .next (restoringAcked slot (dropTag s t)) :=
  congrArg Host.Outcome.next (onOutcome_carries h rfl)

theorem exec_restoringSbFail (h : Carries s t (.restoringSb slot)) :
    exec (.restoringSbFail t) s = .next (restoringFailed (dropTag s t)) :=
  congrArg Host.Outcome.next (onOutcome_carries h rfl)

variable {y : RetireStep}

/-- The superblocks of RETIRING_OLD outside a drain. -/
theorem retiringOld_outcomes (hr : s.reloc.state = .retiringOld y) (hm : s.modes.mode ≠ .draining) :
    (y = .first → retiringAcked (dropTag s t) = handSecondRetiring (dropTag s t))
      ∧ (y = .second → retiringAcked (dropTag s t) = relocDone (dropTag s t))
      ∧ retiringFailed slot (dropTag s t) =
        handOver (setReloc (dropTag s t) (.retiringOld .restoring))
          [superblockRequest (.restoringSb slot) s.journal.region slot (oldSuperblock (dropTag s t) 3 false)]
      ∧ restoringAcked slot (dropTag s t) =
        endReloc
          { dropTag s t with
            ckpt := { s.ckpt with counter := s.ckpt.counter + 3, nextSlot := slot.other, errors := 0 } }
          .failed
      ∧ restoringFailed (dropTag s t) = enterFaulted (endReloc (dropTag s t) .failed) := by
  have state : (dropTag s t).reloc.state = .retiringOld y := hr
  refine ⟨fun hy => ?_, fun hy => ?_, ?_, ?_, ?_⟩
  · rw [retiringAcked, state, hy]
    exact drainTest_outside hm
  · rw [retiringAcked, state, hy]
    exact drainTest_outside hm
  · rw [retiringFailed, state]
    exact drainTest_outside hm
  · rw [restoringAcked, state]
    exact drainTest_outside hm
  · rw [restoringFailed, state]

/-- The outcomes after a drain has cancelled the relocation. -/
theorem cancelled_outcomes (hr : s.reloc.state = .none) :
    retiringAcked (dropTag s t) = drainTest (dropTag s t) ∧ retiringFailed slot (dropTag s t) = drainTest (dropTag s t)
      ∧ restoringAcked slot (dropTag s t) = drainTest (dropTag s t)
      ∧ restoringFailed (dropTag s t) = drainTest (dropTag s t) := by
  have state : (dropTag s t).reloc.state = .none := hr
  exact ⟨by rw [retiringAcked, state], by rw [retiringFailed, state], by rw [restoringAcked, state],
    by rw [restoringFailed, state]⟩

end Superblocks

/-- Settles O37: the outcomes outside a drain, then those after a drain's cancel. -/
theorem retiringAndRestoringSuperblocks : Obligations.RetiringAndRestoringSuperblocks := by
  refine ⟨fun s t slot y hcarry hr hm => ?retiring, fun s t slot y hcarry hr hm => ?restoring,
    fun s t slot hr hm => ?cancelled⟩
  case retiring =>
    intro target old
    obtain ⟨first, second, fails, -⟩ := retiringOld_outcomes (t := t) (slot := slot) hr hm
    refine ⟨fun hy => ?_, fun hy => ?_, ?_⟩
    · rw [Answers, exec_retiringSbOk hcarry, first hy]
      rfl
    · rw [Answers, exec_retiringSbOk hcarry, second hy]
      rfl
    · rw [Answers, exec_retiringSbFail hcarry, fails]
      rfl
  case restoring =>
    obtain ⟨-, -, -, ok, fails⟩ := retiringOld_outcomes (t := t) (slot := slot) hr hm
    refine ⟨?_, ⟨_, (exec_restoringSbFail hcarry).trans (congrArg Host.Outcome.next fails), ?_⟩⟩
    · rw [Answers, exec_restoringSbOk hcarry, ok]
      rfl
    · obtain ⟨reloc, guard⟩ := enterFaulted_relocation (u := endReloc (dropTag s t) .failed) rfl
      have flag : flagSet (endReloc (dropTag s t) .failed) .relocDone = true := flagged_set s.regs .relocDone
      exact ⟨reloc, guard, flagSet_kept (enterFaulted_path _).keepsFlags flag⟩
  case cancelled =>
    intro left
    obtain ⟨retired, retireFails, restored, restoreFails⟩ := cancelled_outcomes (t := t) (slot := slot) hr
    refine ⟨fun hcarry => ⟨?_, ?_⟩, fun hcarry => ⟨?_, ?_⟩⟩
    · exact drainsTo_of_drainTest (a := dropTag s t) (by rw [exec_retiringSbOk hcarry, retired]) hm rfl
    · exact drainsTo_of_drainTest (a := dropTag s t) (by rw [exec_retiringSbFail hcarry, retireFails]) hm rfl
    · exact drainsTo_of_drainTest (a := dropTag s t) (by rw [exec_restoringSbOk hcarry, restored]) hm rfl
    · exact drainsTo_of_drainTest (a := dropTag s t) (by rw [exec_restoringSbFail hcarry, restoreFails]) hm rfl

end Sys2Proof.Machine

/-! PROOF. The superblock copies of a recovery (R126). -/

namespace Sys2Proof.Machine

/-! ## The superblock copies of a recovery (R126) -/

section Copies

variable {s : State} {t : MediaTag} {slot : SbSlot} {data : Line} {r : Recovery}

theorem exec_superblockReadOk (h : Carries s t (.superblockRead slot)) :
    exec (.superblockReadOk t data) s = .next (superblockRead slot data (dropTag s t)) :=
  congrArg Host.Outcome.next (onOutcome_carries h rfl)

/-- A read of the sequencer that fails in DRAINING only ends. -/
theorem recoveryReadFailed_draining {u : State} (hm : u.modes.mode = .draining) : recoveryReadFailed u = drainTest u :=
  if_neg (by rw [hm]; decide)

/-- The two copies in the words of the statements. -/
theorem addCopy_eq (slot : SbSlot) (data : Line) (a b : Option Line) :
    addCopy slot data a b = if slot = .a then (some data, b) else (a, some data) := by
  cases slot <;> rfl

/-- The copy that recovery selects: the valid one with the higher counter, slot A when equal. -/
def pickedCopy (x y : Line) : Line × SbSlot :=
  if superblockValid x = true ∧
      (superblockValid y = false ∨ (readSuperblock y).counter.toNat ≤ (readSuperblock x).counter.toNat) then (x, .a)
  else (y, .b)

theorem selectCopy_none {x y : Line} (h : ¬(superblockValid x = true ∨ superblockValid y = true)) :
    selectCopy x y = none := by
  rw [not_or, Bool.not_eq_true, Bool.not_eq_true] at h
  rw [selectCopy, h.1, h.2]

theorem selectCopy_some {x y : Line} (h : superblockValid x = true ∨ superblockValid y = true) :
    selectCopy x y = some ((pickedCopy x y).2, readSuperblock (pickedCopy x y).1) := by
  unfold selectCopy pickedCopy
  cases hx : superblockValid x with
  | false =>
    rw [hx] at h
    rw [h.resolve_left (by decide)]
    rfl
  | true =>
    cases hy : superblockValid y with
    | false => rfl
    | true =>
      by_cases hc : (readSuperblock x).counter.toNat < (readSuperblock y).counter.toNat
      · simp [hc, Nat.not_le.2 hc]
      · simp [hc, Nat.not_lt.1 hc]

/-- One copy is still to come. -/
theorem superblockRead_waits {u : State} {a b : Option Line} (hr : u.recovery = some r) (hp : r.phase = .superblocks a b)
    (h : (addCopy slot data a b).1 = none ∨ (addCopy slot data a b).2 = none) :
    superblockRead slot data u =
      setRecovery u
        { r with phase := .superblocks (addCopy slot data a b).1 (addCopy slot data a b).2 } := by
  rw [superblockRead, hr]
  simp only [hp]
  generalize addCopy slot data a b = copies at h
  obtain ⟨x, y⟩ := copies
  cases x with
  | none => rfl
  | some x =>
    cases y with
    | none => rfl
    | some y => simp at h

/-- Both copies have come. -/
theorem superblockRead_judges {u : State} {a b : Option Line} {x y : Line} (hr : u.recovery = some r)
    (hp : r.phase = .superblocks a b) (h : addCopy slot data a b = (some x, some y)) :
    superblockRead slot data u = judgeCopies u r x y := by
  rw [superblockRead, hr]
  simp only [hp, h]

end Copies

/-- Settles O40: the first copy is kept, both together are judged. -/
theorem superblockCopiesDecideTheRecovery : Obligations.SuperblockCopiesDecideTheRecovery := by
  refine ⟨fun s t slot data r a b hcarry hr hp => ?recovering, fun s t slot data hcarry hr hm => ?draining⟩
  case recovering =>
    intro copies media
    have runs := exec_superblockReadOk (data := data) hcarry
    have recovery : (dropTag s t).recovery = some r := hr
    have same : addCopy slot data a b = copies := addCopy_eq slot data a b
    refine ⟨fun h => ?_, fun x y hxy => ?_⟩
    · rw [superblockRead_waits recovery hp (by rw [same]; exact h), same] at runs
      exact runs
    · intro pick sb valid idle
      rw [superblockRead_judges recovery hp (same.trans hxy), judgeCopies] at runs
      have picked (h : valid) : selectCopy x y = some (pick.2, sb) := selectCopy_some h
      refine ⟨fun h => ?_, fun h hret => ?_, fun h hret hother => ?_, fun h hret hbase hk hring => ?_⟩
      · rw [selectCopy_none h] at runs
        exact runs
      · simp only [picked h, hret, if_true] at runs
        exact runs
      · have other : sb.base ≠ (dropTag s t).journal.region.base
            ∨ sb.k ≠ (dropTag s t).journal.region.k.setWidth 8 := hother
        simp only [picked h, hret, Bool.false_eq_true, if_false, other, if_true] at runs
        exact runs
      · have same : ¬(sb.base ≠ (dropTag s t).journal.region.base
            ∨ sb.k ≠ (dropTag s t).journal.region.k.setWidth 8) := by
          rintro (hne | hne)
          · exact hne hbase
          · exact hne hk
        have room : ¬(s.journal.region.ringLength < 0 + 4) := by omega
        simp only [picked h, hret, Bool.false_eq_true, if_false, same] at runs
        rw [beginScan, enterHeader, if_neg (by exact room)] at runs
        exact runs
  case draining =>
    intro left
    have ok : exec (.superblockReadOk t data) s = .next (drainTest (dropTag s t)) := by
      rw [exec_superblockReadOk hcarry, superblockRead, show (dropTag s t).recovery = none from hr]
    have fail : exec (.recoveryMediaFail t) s = .next (drainTest (dropTag s t)) :=
      congrArg Host.Outcome.next ((onOutcome_carries hcarry rfl).trans (recoveryReadFailed_draining (by exact hm)))
    exact ⟨drainsTo_of_drainTest ok hm rfl, drainsTo_of_drainTest fail hm rfl⟩

end Sys2Proof.Machine

/-! PROOF. Headers and records of the scan (R127, R128). -/

namespace Sys2Proof.Machine

/-! ## Headers and records of the scan (R127, R128) -/

/-- Phase FINAL begins, with the pointers at the scan offset and the final checkpoint (R130). -/
theorem enterFinal_eq (u : State) (r : Recovery) :
    ∃ ckpt media, enterFinal u r =
        { u with
          journal :=
            { u.journal with
              head := r.scanOffset, retiredTail := r.scanOffset, releasedTail := r.scanOffset, used := 0
              retiredSpan := 0, durableThrough := u.journal.appliedThrough, nextSeq := u.journal.appliedThrough + 1 }
          recovery := some { r with phase := .final }
          ckpt := ckpt
          media := media }
      ∧ ckpt.inFlight.isSome = true :=
  ⟨_, _, raiseTrigger_eq _, raiseTrigger_inFlight _⟩

section Header

variable {s : State} {t : MediaTag} {data : Line} {r : Recovery}

theorem exec_headerReadOk (h : Carries s t .headerRead) :
    exec (.headerReadOk t data) s = .next (headerRead data (dropTag s t)) :=
  congrArg Host.Outcome.next (onOutcome_carries h rfl)

/-- The five tests of R127 on a header. -/
def HeaderPasses (s : State) (r : Recovery) (data : Line) : Prop :=
  field data 0 4 = 0x47520001 ∧ field data 8 8 = r.expected.toNat ∧ (1 ≤ field data 6 2 ∧ field data 6 2 ≤ 256)
    ∧ field data 16 2 = field data 6 2 + (field data 6 2 + 3) / 4 + 2
    ∧ r.scanned + (field data 6 2 + (field data 6 2 + 3) / 4 + 2) ≤ s.journal.region.ringLength

theorem headerRead_passes {u : State} (hr : u.recovery = some r) (hp : r.phase = .header) (h : HeaderPasses u r data) :
    headerRead data u = beginRecord u r (field data 6 2) data := by
  obtain ⟨type, sequence, ⟨low, high⟩, length, room⟩ := h
  have accepted : acceptedHeader? data r.expected = some (field data 6 2) :=
    if_pos ⟨type, sequence, low, high, length⟩
  rw [headerRead, hr]
  simp only [hp, accepted]
  exact if_pos room

theorem headerRead_ends {u : State} (hr : u.recovery = some r) (hp : r.phase = .header) (h : ¬HeaderPasses u r data) :
    headerRead data u = enterFinal u r := by
  rw [headerRead, hr]
  simp only [hp]
  cases ha : acceptedHeader? data r.expected with
  | none => rfl
  | some n =>
    rw [acceptedHeader?] at ha
    split at ha
    next tests =>
      obtain ⟨type, sequence, low, high, length⟩ := tests
      obtain rfl := Option.some.inj ha
      exact if_neg fun room => h ⟨type, sequence, ⟨low, high⟩, length, room⟩
    · cases ha

end Header

/-- Settles O41: the header's tests decide, and after a drain the outcome only ends. -/
theorem headerReadContinuesOrEndsTheScan : Obligations.HeaderReadContinuesOrEndsTheScan := by
  refine ⟨fun s t data r hcarry hr hp => ?recovering, fun s t data hcarry hr hm => ?draining⟩
  case recovering =>
    intro n length ok
    have runs := exec_headerReadOk (data := data) hcarry
    refine ⟨fun h => ?_, fun h => ?_⟩
    · rw [headerRead_passes (u := dropTag s t) hr hp h] at runs
      exact runs
    · rw [headerRead_ends (u := dropTag s t) hr hp h] at runs
      obtain ⟨ckpt, media, final, inFlight⟩ := enterFinal_eq (dropTag s t) r
      rw [final] at runs
      exact ⟨_, runs, rfl, rfl, inFlight, rfl, rfl⟩
  case draining =>
    intro left
    have ok : exec (.headerReadOk t data) s = .next (drainTest (dropTag s t)) := by
      rw [exec_headerReadOk hcarry, headerRead, show (dropTag s t).recovery = none from hr]
    have fail : exec (.recoveryMediaFail t) s = .next (drainTest (dropTag s t)) :=
      congrArg Host.Outcome.next ((onOutcome_carries hcarry rfl).trans (recoveryReadFailed_draining (by exact hm)))
    exact ⟨drainsTo_of_drainTest ok hm rfl, drainsTo_of_drainTest fail hm rfl⟩

section Record

variable {s : State} {t : MediaTag} {i : Nat} {data : Line} {r : Recovery} {ls : List (Nat × Line)}

theorem exec_recordReadOk (h : Carries s t (.recordRead i)) :
    exec (.recordReadOk t data) s = .next (recordRead i data (dropTag s t)) :=
  congrArg Host.Outcome.next (onOutcome_carries h rfl)

/-- Line `j` of the record, of the lines read so far. -/
def lineRead (ls : List (Nat × Line)) (j : Nat) : Line := ((ls.find? fun p => p.1 == j).map Prod.snd).getD zeroLine

/-- The line of the record is kept. -/
theorem recordRead_keeps {u : State} (hr : u.recovery = some r) (hp : r.phase = .record) (hs : u.staging.scratch = some ls) :
    recordRead i data u =
      if anyRequest u Requester.isRecordRead then setScratch u (ls ++ [(i, data)])
      else judgeRecord (setScratch u (ls ++ [(i, data)])) r := by
  rw [recordRead, hr]
  simp only [hp, scratchLines, hs, Option.getD_some]
  rfl

theorem recordLine_eq {u : State} (hs : u.staging.scratch = some ls) (j : Nat) : recordLine u j = lineRead ls j := by
  rw [recordLine, scratchLines, hs]
  rfl

/-- The test on the commit line, in the words of the statements. -/
theorem commitWhole_iff (l : Line) (expected : Seq) (n : Nat) (body : List Line) :
    commitWhole l expected n body = true ↔
      field l 0 4 = 0x47520002 ∧ field l 8 8 = expected.toNat ∧ field l 6 2 = n ∧ field l 16 4 = (crcLines body).toNat := by
  simp only [commitWhole, commitType, Bool.and_eq_true, beq_iff_eq, and_assoc]

theorem judgeRecord_eq {u : State} (hs : u.staging.scratch = some ls) :
    judgeRecord u r =
      if commitWhole (lineRead ls (r.length - 1)) r.expected r.lines ((List.range (r.length - 1)).map (lineRead ls)) then
        beginReplay u r
      else enterFinal (setFlag u .tornGroup) r := by
  have slice : recordSlice u 0 (r.length - 1) = (List.range (r.length - 1)).map (lineRead ls) :=
    List.map_congr_left fun j _ => by rw [recordLine_eq hs, Nat.zero_add]
  rw [judgeRecord, slice, recordLine_eq hs]

/-- A replay write, in the words of the statements (R129). -/
theorem replayRequest_eq {u : State} (hs : u.staging.scratch = some ls) {j : Nat} (hj : j < r.lines) :
    replayRequest u r j =
      { requester := .replayWrite j
        line := BitVec.ofNat 40 (field (lineRead ls (1 + j / 4)) (16 * (j % 4)) 8)
        write := some (BitVec.ofNat 64 (field (lineRead ls (1 + j / 4)) (16 * (j % 4) + 8) 8),
          lineRead ls (1 + (r.lines + 3) / 4 + j))
        state := .ready } := by
  have place : j / 4 < (r.lines + 3) / 4 := by omega
  have descriptor : (recordSlice u 1 ((r.lines + 3) / 4)).getD (j / 4) zeroLine = lineRead ls (1 + j / 4) := by
    rw [recordSlice, List.getD_eq_getElem?_getD, List.getElem?_map, List.getElem?_range place]
    exact recordLine_eq hs _
  simp only [replayRequest, readDescriptor, descriptorCount, descriptor, recordLine_eq hs]
  rfl

end Record

/-- Settles O42: each line is kept; the last one decides between a replay and a torn group. -/
theorem recordReadReplaysOrFindsTorn : Obligations.RecordReadReplaysOrFindsTorn := by
  refine ⟨fun s t i data r ls hcarry hr hp hs => ?recovering, fun s t i data hcarry hr hm => ?draining⟩
  case recovering =>
    intro kept line others body last whole
    have runs := exec_recordReadOk (data := data) hcarry
    rw [recordRead_keeps (u := dropTag s t) hr hp hs] at runs
    have more : anyRequest (dropTag s t) Requester.isRecordRead = true ↔ others := anyRequest_iff _ _
    have judge := judgeRecord_eq (u := setScratch (dropTag s t) kept) (r := r) rfl
    have test : commitWhole (lineRead kept (r.length - 1)) r.expected r.lines
        ((List.range (r.length - 1)).map (lineRead kept)) = true ↔ whole := commitWhole_iff ..
    refine ⟨fun h => ?_, fun h hw => ?_, fun h hw => ?_⟩
    · rw [if_pos (more.2 h)] at runs
      exact runs
    · rw [if_neg (more.not.2 h), judge, if_pos (test.2 hw)] at runs
      refine ⟨_, runs, rfl, rfl, rfl, rfl, _, rfl, by simp, fun j q hj => ?_⟩
      intro d
      rw [List.getElem?_map, Option.map_eq_some_iff] at hj
      obtain ⟨k, hk, rfl⟩ := hj
      obtain ⟨hlt, rfl⟩ := List.getElem?_eq_some_iff.1 hk
      rw [List.length_range] at hlt
      rw [List.getElem_range, replayRequest_eq (ls := kept) rfl hlt]
      exact ⟨rfl, rfl, rfl, rfl⟩
    · rw [if_neg (more.not.2 h), judge, if_neg (test.not.2 hw)] at runs
      obtain ⟨ckpt, media, final, inFlight⟩ := enterFinal_eq (setFlag (setScratch (dropTag s t) kept) .tornGroup) r
      rw [final] at runs
      exact ⟨_, runs, rfl, flagged_set s.regs .tornGroup, rfl, rfl, rfl, inFlight⟩
  case draining =>
    intro left
    have ok : exec (.recordReadOk t data) s = .next (drainTest (dropTag s t)) := by
      rw [exec_recordReadOk hcarry, recordRead, show (dropTag s t).recovery = none from hr]
    have fail : exec (.recoveryMediaFail t) s = .next (drainTest (dropTag s t)) :=
      congrArg Host.Outcome.next ((onOutcome_carries hcarry rfl).trans (recoveryReadFailed_draining (by exact hm)))
    exact ⟨drainsTo_of_drainTest ok hm rfl, drainsTo_of_drainTest fail hm rfl⟩

end Sys2Proof.Machine

/-! PROOF. Replay writes (R129) and the acknowledgement of a link reset (R125, R157). -/

namespace Sys2Proof.Machine

/-! ## Replay writes (R129) and the acknowledgement of a link reset (R125, R157) -/

section Replay

variable {s : State} {t : MediaTag} {i : Nat} {r : Recovery}

theorem exec_replayWriteOk (h : Carries s t (.replayWrite i)) :
    exec (.replayWriteOk t) s = .next (replayAcked (dropTag s t)) :=
  congrArg Host.Outcome.next (onOutcome_carries h rfl)

theorem replayAcked_eq {u : State} (hr : u.recovery = some r) (hp : r.phase = .replay) :
    replayAcked u = if anyRequest u Requester.isReplay then u else recordReplayed u r := by
  rw [replayAcked, hr]
  simp only [hp]

/-- The five steps of R129 on the journal. -/
def replayAdvanced (u : State) (r : Recovery) : State :=
  { u with journal :=
    { u.journal with
      appliedThrough := r.expected
      durableThrough := r.expected
      nextSeq := r.expected + 1
      head := (r.scanOffset + r.length) % u.journal.region.ringLength } }

/-- The sequencer's items at the next header. -/
def scannedOn (u : State) (r : Recovery) : Recovery :=
  { r with
    scanOffset := (r.scanOffset + r.length) % u.journal.region.ringLength
    scanned := r.scanned + r.length
    expected := r.expected + 1 }

theorem recordReplayed_eq (u : State) (r : Recovery) :
    recordReplayed u r = enterHeader (replayAdvanced u r) (scannedOn u r) := rfl

end Replay

/-- Settles O43: the last replay write of a record goes on to the next header or to phase FINAL. -/
theorem replayWriteOkAdvancesTheScan : Obligations.ReplayWriteOkAdvancesTheScan := by
  refine ⟨fun s t i r hcarry hr hp => ?recovering, fun s t i hcarry hr hm => ?draining⟩
  case recovering =>
    intro others next
    have runs := exec_replayWriteOk hcarry
    rw [replayAcked_eq (u := dropTag s t) hr hp] at runs
    have more : anyRequest (dropTag s t) Requester.isReplay = true ↔ others := anyRequest_iff _ _
    refine ⟨fun h => ?_, fun h => ?_⟩
    · rw [if_pos (more.2 h)] at runs
      exact runs
    · rw [if_neg (more.not.2 h), recordReplayed_eq, enterHeader] at runs
      by_cases hring : s.journal.region.ringLength < r.scanned + r.length + 4
      · rw [if_pos (by exact hring)] at runs
        obtain ⟨ckpt, media, final, inFlight⟩ :=
          enterFinal_eq (replayAdvanced (dropTag s t) r) (scannedOn (dropTag s t) r)
        rw [final] at runs
        exact ⟨_, runs, rfl, rfl, rfl, rfl, fun hroom => absurd hring (by omega), fun _ => ⟨inFlight, _, rfl, rfl⟩⟩
      · rw [if_neg (by exact hring)] at runs
        exact ⟨_, runs, rfl, rfl, rfl, rfl, fun _ => ⟨rfl, rfl⟩, fun hfull => absurd hfull hring⟩
  case draining =>
    intro left
    have ok : exec (.replayWriteOk t) s = .next (drainTest (dropTag s t)) := by
      rw [exec_replayWriteOk hcarry, replayAcked, show (dropTag s t).recovery = none from hr]
    exact drainsTo_of_drainTest ok hm rfl

section Link

variable {s : State}

theorem exec_linkResetAck_owed (h : s.media.linkOwed = true) :
    exec .linkResetAck s = .next (linkReady { s with media := Media.reset }) :=
  congrArg Host.Outcome.next (if_pos h)

theorem linkReady_none {u : State} (hr : u.recovery = none) : linkReady u = drainTest u := by
  rw [linkReady, hr]

theorem linkReady_recovering {u : State} {r : Recovery} (hr : u.recovery = some r) (hp : r.phase = .linkReset) :
    linkReady u = handOver (setRecovery u { r with phase := .superblocks none none }) (superblockReads u) := by
  rw [linkReady, hr]
  simp only [hp]

end Link

/-- Settles O44: by what owes the reset. -/
theorem linkResetAckClearsThePort : Obligations.LinkResetAckClearsThePort := by
  intro s r
  refine ⟨fun h => ?_, fun h hr hm => ?_, fun h hr hp => ?_, fun h hr hm => ?_⟩
  · exact congrArg Host.Outcome.next (if_neg (by simp [h]))
  · have runs := exec_linkResetAck_owed h
    rw [linkReady_none (by exact hr), drainTest_outside (by exact hm)] at runs
    exact runs
  · have runs := exec_linkResetAck_owed h
    rw [linkReady_recovering (r := r) (by exact hr) hp] at runs
    exact runs
  · have runs := exec_linkResetAck_owed h
    rw [linkReady_none (by exact hr)] at runs
    exact drainsTo_of_drainTest runs hm rfl

end Sys2Proof.Machine

/-! PROOF. RELOC_REQUEST (R134, R135). -/

namespace Sys2Proof.Machine

/-! ## RELOC_REQUEST (R134, R135) -/

section Regions

variable (g q : Region)

theorem Region.valid_iff : g.valid = true ↔ (12 ≤ g.k.toNat ∧ g.k.toNat ≤ 20) ∧ g.base.toNat % (2 ^ g.k.toNat * 64) = 0 := by
  simp [Region.valid, Region.bytes]

theorem Region.overlaps_eq_false_iff :
    g.overlaps q = false ↔
      g.base.toNat + 2 ^ g.k.toNat * 64 ≤ q.base.toNat ∨ q.base.toNat + 2 ^ q.k.toNat * 64 ≤ g.base.toNat := by
  rw [Region.overlaps, Bool.and_eq_false_iff, decide_eq_false_iff_not, decide_eq_false_iff_not, Nat.not_lt, Nat.not_lt]
  exact or_comm

theorem Region.contains_eq_false_iff (l : Addr) :
    g.contains l = false ↔ ¬(g.base.toNat ≤ l.toNat ∧ l.toNat < g.base.toNat + 2 ^ g.k.toNat * 64) := by
  rw [← Bool.not_eq_true, Region.contains, Bool.and_eq_true, decide_eq_true_iff, decide_eq_true_iff]
  exact Iff.rfl

/-- No line of a region is present or waits to be written. -/
theorem regionInUse_eq_false_iff (s : State) :
    regionInUse s g = false ↔
      ∀ l ∈ s.staging.index.map IndexEntry.line ++ s.claims.waitList.map (fun r => r.write.line)
        ++ s.staging.slotWait.map HeldWrite.line, g.contains l = false := by
  simp only [regionInUse, heldWrites, Bool.or_eq_false_iff, List.any_append, List.any_eq_false,
    List.forall_mem_append, List.forall_mem_map, Bool.not_eq_true, and_assoc]

end Regions

section Request

variable {s : State} {k : BitVec 5} {hold : Bool}

/-- The six conditions, in the words of the statement. -/
theorem relocAcceptable_iff (s : State) :
    relocAcceptable s = true ↔
      s.modes.mode = .ready ∧ s.reloc.state = .none ∧ (relocTarget s).valid = true
        ∧ (relocTarget s).overlaps s.journal.region = false ∧ regionInUse s (relocTarget s) = false := by
  simp only [relocAcceptable, Bool.and_eq_true, beq_iff_eq, Bool.not_eq_true', and_assoc]

/-- The part with the target captured and guarded. -/
def relocTaken (s : State) (k : BitVec 5) (hold : Bool) : State :=
  { s with
    regs := { s.regs with relocK := k, relocHold := hold }
    modes := { s.modes with lastCommand := .accepted }
    reloc := { state := .pending, result := .none, target := { base := s.regs.relocBase ++ 0#12, k }, hold }
    decoder := { s.decoder with guardTarget := some { base := s.regs.relocBase ++ 0#12, k } } }

theorem exec_relocRequest_refused (h : relocAcceptable (writeRelocCtrl s k hold) = false) :
    exec (.relocRequest k hold) s = .next (reject (writeRelocCtrl s k hold)) :=
  congrArg Host.Outcome.next (if_neg (by simp [h]))

theorem exec_relocRequest_taken (h : relocAcceptable (writeRelocCtrl s k hold) = true) :
    exec (.relocRequest k hold) s =
      .next (if s.groups.queue.isEmpty then raiseTrigger (relocTaken s k hold) else relocTaken s k hold) :=
  congrArg Host.Outcome.next (if_pos h)

end Request

/-- Settles O39: a refused request, and an accepted one by what its trigger meets. -/
theorem relocationRequestIsJudged : Obligations.RelocationRequestIsJudged := by
  intro s k hold regs target lines size ok taken
  have judged : relocAcceptable (writeRelocCtrl s k hold) = true ↔ ok := by
    rw [relocAcceptable_iff, Region.valid_iff, Region.overlaps_eq_false_iff, regionInUse_eq_false_iff, and_assoc]
    simp only [Region.contains_eq_false_iff]
    exact Iff.rfl
  have emptied (h : s.groups.queue = []) : s.groups.queue.isEmpty = true := List.isEmpty_iff.2 h
  refine ⟨fun h => ?_, fun h hq => ?_, fun h hq hc => ?_, fun h hq hc => ?_⟩
  · have refused := exec_relocRequest_refused (Bool.eq_false_iff.2 (judged.not.2 h))
    exact refused
  · have runs := exec_relocRequest_taken (judged.2 h)
    rw [if_neg (by simpa using hq)] at runs
    exact runs
  · have runs := exec_relocRequest_taken (judged.2 h)
    rw [if_pos (emptied hq), raiseTrigger_busy (by exact hc)] at runs
    exact runs
  · have runs := exec_relocRequest_taken (judged.2 h)
    have inFlight := raiseTrigger_inFlight (relocTaken s k hold)
    rw [if_pos (emptied hq), raiseTrigger_eq] at runs
    exact ⟨_, runs, rfl, rfl, rfl, inFlight⟩

end Sys2Proof.Machine

/-! PROOF. The commands that begin a procedure (R118 to R125). -/

namespace Sys2Proof.Machine

/-! ## The commands that begin a procedure (R118 to R125) -/

section Procedures

variable {s : State}

/-- A procedure with a journal configuration that is not valid: BAD_CONFIG. -/
theorem startProcedure_badConfig (run : State → State) (h : ¬(configRegion s).valid = true) :
    startProcedure s run = { s with modes := { s.modes with lastCommand := .accepted, startStatus := .badConfig } } :=
  if_neg h

theorem startProcedure_runs (run : State → State) (h : (configRegion s).valid = true) :
    startProcedure s run = run (accept s) := if_pos h

theorem exec_start_idle (h : s.modes.mode = .idle) : exec .start s = .next (startProcedure s (enterRecovering · .start)) :=
  congrArg Host.Outcome.next (if_pos h)

theorem exec_start_other (h : s.modes.mode ≠ .idle) : exec .start s = .next (reject s) :=
  congrArg Host.Outcome.next (if_neg h)

theorem exec_format_idle (h : s.modes.mode = .idle) : exec .format s = .next (startProcedure s enterFormatting) :=
  congrArg Host.Outcome.next (if_pos h)

theorem exec_format_other (h : s.modes.mode ≠ .idle) : exec .format s = .next (reject s) :=
  congrArg Host.Outcome.next (if_neg h)

end Procedures

/-- Settles O45: refused outside IDLE; in IDLE the configuration decides. -/
theorem startAndFormatBeginTheirProcedures : Obligations.StartAndFormatBeginTheirProcedures := by
  intro s region valid rejected badConfig begun decoder
  have configured : (configRegion s).valid = true ↔ valid := Region.valid_iff (configRegion s)
  refine ⟨fun hm => ⟨exec_start_other hm, exec_format_other hm⟩, fun hm h => ⟨?_, ?_⟩, fun hm h => ?_, fun hm h => ?_⟩
  · rw [Answers, exec_start_idle hm, startProcedure_badConfig _ (configured.not.2 h)]
  · rw [Answers, exec_format_idle hm, startProcedure_badConfig _ (configured.not.2 h)]
  · rw [Answers, exec_start_idle hm, startProcedure_runs _ (configured.2 h)]
    rfl
  · rw [Answers, exec_format_idle hm, startProcedure_runs _ (configured.2 h)]
    rfl

end Sys2Proof.Machine

/-! PROOF. RESTART: what its answers leave, and entry to RECOVERING (R122, R124). -/

namespace Sys2Proof.Machine

/-! ## RESTART and RESUME (R122, R123) -/

/-- The part when RESTART has answered everything, before the workers and the port are cleared (R122 steps 1 to 6). -/
def restartAnswered (a : State) : State :=
  let m := massAbort (cancelReloc a) .restart
  answerQueues (dropPosted (endReads m m.reads .notReady)) .notReady

/-- What those answers leave. -/
structure RestartAnswered (a q : State) : Prop where
  queue : q.groups.queue = []
  records : ∀ st, recordOf q st = .absent
  waitList : q.claims.waitList = []
  reads : q.reads = []
  posted : q.posted.records = []
  lost : a.posted.records ≠ [] → flagSet q .postedLost = true
  now : q.now = a.now
  journal : q.journal = a.journal
  modes : q.modes = a.modes
  reloc : q.reloc.state = .none
  regs : RegsCounted a.regs q.regs
  answers : ∃ front, QueuesAnswered a q front .notReady
    ∧ (SerialsDistinct a → front = closingAnswers a a.media.requests a.groups.queue .restart .notReady)

theorem restartAnswered_spec (a : State) : RestartAnswered a (restartAnswered a) := by
  obtain ⟨state, -, regs, cancelled⟩ := cancelReloc_fields a
  obtain ⟨front, aborted, queue, records, held, reads, answers⟩ :=
    massAbort_closes (cause := .restart) (by decide) (cancelReloc a)
  have same : (cancelReloc a).fabric = a.fabric ∧ (cancelReloc a).groups = a.groups ∧ (cancelReloc a).media = a.media
      ∧ (cancelReloc a).reads = a.reads ∧ (cancelReloc a).posted = a.posted ∧ (cancelReloc a).now = a.now
      ∧ (cancelReloc a).journal = a.journal ∧ (cancelReloc a).modes = a.modes
      ∧ heldAnswers (cancelReloc a) .restart = heldAnswers a .restart := by
    rw [cancelled]
    exact ⟨rfl, rfl, rfl, rfl, rfl, rfl, rfl, rfl, rfl⟩
  obtain ⟨sFabric, sGroups, sMedia, sReads, sPosted, sNow, sJournal, sModes, sHeld⟩ := same
  rw [restartAnswered]
  generalize cancelReloc a = c at *
  generalize massAbort c .restart = m at *
  have ended := endReads_ends .notReady m.reads m
  have endedRest := endReads_rest .notReady m.reads m
  have endedReads := endReads_all .notReady m
  generalize endReads m m.reads .notReady = r at *
  obtain ⟨u, dropped, droppedRest, droppedReads, hdrop⟩ := dropPosted_eq r
  have lost := dropPosted_flag (s := r)
  rw [hdrop] at lost
  simp only [hdrop]
  have whole := (aborted.trans ended).trans dropped
  simp only [readRest, Prod.mk.injEq] at endedRest droppedRest
  obtain ⟨groups, claims, -⟩ := endedRest
  obtain ⟨groups', claims', -⟩ := droppedRest
  have groupsU : u.groups = m.groups := groups'.trans groups
  have fabric : u.fabric = fabricAfter a (front ++ m.reads.map fun e => plainAnswer e.stream e.tag .notReady) := by
    rw [whole.fabric, List.append_nil, fabricAfter, sFabric]
    rfl
  generalize hd : ({ u with posted := { u.posted with records := [] } } : State) = d at lost ⊢
  have queues : QueuesAnswered d (answerQueues d .notReady) [] .notReady := answerQueues_answered d .notReady
  have rest := answerQueues_rest d .notReady
  generalize answerQueues d .notReady = q at queues rest
  have fabricD : d.fabric = fabricAfter a (front ++ m.reads.map fun e => plainAnswer e.stream e.tag .notReady) := by
    rw [← hd]
    exact fabric
  refine
    { queue := by rw [rest, ← hd]; exact (congrArg Groups.queue groupsU).trans queue
      records := fun st => by
        rw [rest, ← hd]
        exact (congrArg (fun g : Groups => g.table.read st) groupsU).trans (records st)
      waitList := by rw [rest, ← hd]; exact (congrArg Claims.waitList (claims'.trans claims)).trans held.1
      reads := by rw [rest, ← hd]; exact droppedReads.trans endedReads
      posted := by rw [rest, ← hd]
      lost := fun h => ?_
      now := by rw [rest, ← hd]; exact whole.now.trans sNow
      journal := by rw [rest, ← hd]; exact whole.journal.trans sJournal
      modes := by rw [rest, ← hd]; exact whole.modes.trans sModes
      reloc := by rw [rest, ← hd]; exact (congrArg Reloc.state whole.reloc).trans state
      regs := by rw [rest, ← hd]; exact regs.trans whole.regs
      answers := ⟨_, (queues.after fabricD), fun hs => ?_⟩ }
  · rw [flagSet, rest]
    refine lost ?_
    rw [(aborted.trans ended).records, sPosted]
    exact h
  · rw [List.append_nil, answers (by rw [SerialsDistinct, sGroups]; exact hs), reads, sReads, sGroups, sMedia,
      show AbortCause.restart.reason = .restart from rfl, sHeld]
    rfl

/-- Entry to RECOVERING behind a link reset with a deadline (R124, R125, R157). -/
theorem enterRecovering_linkReset (a : State) {cause : Cause} (hc : cause ≠ .start) :
    ∃ w, enterRecovering a cause =
      { a with
        modes := { a.modes with mode := .recovering, startStatus := .none }
        decoder := { a.decoder with guardActive := some (configRegion a), guardTarget := none }
        journal := { a.journal with region := configRegion a }
        staging := { a.staging with scratch := some [] }
        ckpt := { a.ckpt with inFlight := none, trigger := false, errors := 0 }
        recovery := some (Recovery.entry .linkReset cause)
        media := { a.media with linkOwed := true, linkDeadline := some (a.now + a.regs.mediaTimeout) }
        wires := w } := by
  have entered : enterRecovering a cause = startLinkDeadline (askLinkReset (beginRecovering a .linkReset cause)) := by
    cases cause with
    | start => exact absurd rfl hc
    | restart => rfl
    | resume => rfl
  obtain ⟨w, asked⟩ := askLinkReset_eq (beginRecovering a .linkReset cause)
  refine ⟨w, ?_⟩
  rw [entered, asked]
  rfl

end Sys2Proof.Machine

/-! PROOF. RESTART and RESUME: the two commands (R122, R123). -/

namespace Sys2Proof.Machine

/-! ## RESTART and RESUME: the two commands -/

section Commands

variable {s : State}

theorem exec_restart_refused (hr : s.modes.mode ≠ .ready) (hf : s.modes.mode ≠ .faulted) :
    exec .restart s = .next (reject s) :=
  congrArg Host.Outcome.next (if_neg fun h => h.elim hr hf)

theorem exec_restart_accepted (h : s.modes.mode = .ready ∨ s.modes.mode = .faulted) :
    exec .restart s = .next (startProcedure s restartPart) :=
  congrArg Host.Outcome.next (if_pos h)

/-- What the command's own status changes of the queues' answers: nothing. -/
theorem QueuesAnswered.of_accept {t : State} {front : List Response} {status : Status}
    (h : QueuesAnswered (accept s) t front status) : QueuesAnswered s t front status := by
  obtain ⟨entered, answered, credits, taken, settled⟩ := h
  exact ⟨entered, answered, credits, taken, settled⟩

/-- The workers idle, the port and the buffer cleared (R122 steps 7 to 9). -/
theorem restartCleared_eq (q : State) :
    reinitStaging (abandonAll (idleWorkers q)) =
      { q with
        staging := Staging.reset
        journal := { q.journal with writer := .idle }
        apply := Apply.reset
        ckpt := { q.ckpt with inFlight := none, trigger := false }
        media := { q.media with requests := [] } } := rfl

/-- Entry to RECOVERING of RESTART, from what its answers left. -/
theorem restartEntered_eq (q : State) :
    ∃ w, enterRecovering (reinitStaging (abandonAll (idleWorkers q))) .restart =
      { q with
        modes := { q.modes with mode := .recovering, startStatus := .none }
        decoder := { q.decoder with guardActive := some (configRegion q), guardTarget := none }
        journal := { q.journal with writer := .idle, region := configRegion q }
        staging := { Staging.reset with scratch := some [] }
        apply := Apply.reset
        ckpt := { q.ckpt with inFlight := none, trigger := false, errors := 0 }
        recovery := some (Recovery.entry .linkReset .restart)
        media :=
          { q.media with requests := [], linkOwed := true, linkDeadline := some (q.now + q.regs.mediaTimeout) }
        wires := w } := by
  rw [restartCleared_eq]
  obtain ⟨w, entered⟩ := enterRecovering_linkReset
    { q with
      staging := Staging.reset
      journal := { q.journal with writer := .idle }
      apply := Apply.reset
      ckpt := { q.ckpt with inFlight := none, trigger := false }
      media := { q.media with requests := [] } } (cause := .restart) (by decide)
  exact ⟨w, entered⟩

/-- An accepted RESTART with a valid configuration. -/
theorem restartPart_spec (s : State) (u : State) (hu : restartPart (accept s) = u) :
    u.modes = { mode := .recovering, startStatus := .none, lastCommand := .accepted }
      ∧ u.groups.queue = [] ∧ (∀ st, recordOf u st = .absent) ∧ NoneHeld u ∧ u.reads = []
      ∧ u.posted.records = [] ∧ (s.posted.records ≠ [] → flagSet u .postedLost = true)
      ∧ u.staging = { Staging.reset with scratch := some [] }
      ∧ u.journal = { s.journal with writer := .idle, region := configRegion s } ∧ u.apply = Apply.reset
      ∧ u.ckpt.inFlight = none ∧ u.ckpt.trigger = false ∧ u.ckpt.errors = 0 ∧ u.reloc.state = .none
      ∧ u.media.requests = [] ∧ u.media.linkOwed = true
      ∧ u.media.linkDeadline = some (s.now + s.regs.mediaTimeout)
      ∧ (∃ r, u.recovery = some r ∧ r.phase = .linkReset ∧ r.cause = .restart)
      ∧ u.regs.config = s.regs.config
      ∧ ∃ front, QueuesAnswered s u front .notReady
        ∧ (SerialsDistinct s → front = closingAnswers s s.media.requests s.groups.queue .restart .notReady) := by
  obtain ⟨queue, records, waitList, reads, posted, lost, now, journal, modes, reloc, regs, front, answered, whole⟩ :=
    restartAnswered_spec (accept s)
  have part : restartPart (accept s) =
      enterRecovering (reinitStaging (abandonAll (idleWorkers (restartAnswered (accept s))))) .restart := rfl
  generalize restartAnswered (accept s) = q at *
  obtain ⟨w, entered⟩ := restartEntered_eq q
  rw [part, entered] at hu
  have config : q.regs.config = s.regs.config := regs.config
  have timeout : q.regs.mediaTimeout = s.regs.mediaTimeout := by rw [regs]; rfl
  have region : configRegion q = configRegion s := by
    rw [configRegion, configRegion, regs]
    rfl
  have queues : QueuesAnswered s u front .notReady := by
    rw [← hu]
    exact answered.of_accept.of_fabric rfl
  have modesU : u.modes = { q.modes with mode := .recovering, startStatus := .none } := by rw [← hu]
  have journalU : u.journal = { q.journal with writer := .idle, region := configRegion q } := by rw [← hu]
  have groupsU : u.groups = q.groups := by rw [← hu]
  have claimsU : u.claims = q.claims := by rw [← hu]
  have readsU : u.reads = q.reads := by rw [← hu]
  have postedU : u.posted = q.posted := by rw [← hu]
  have regsU : u.regs = q.regs := by rw [← hu]
  have relocU : u.reloc = q.reloc := by rw [← hu]
  have stagingU : u.staging = { Staging.reset with scratch := some [] } := by rw [← hu]
  have applyU : u.apply = Apply.reset := by rw [← hu]
  have ckptU : u.ckpt = { q.ckpt with inFlight := none, trigger := false, errors := 0 } := by rw [← hu]
  have mediaU : u.media =
      { q.media with requests := [], linkOwed := true, linkDeadline := some (q.now + q.regs.mediaTimeout) } := by
    rw [← hu]
  have recoveryU : u.recovery = some (Recovery.entry .linkReset .restart) := by rw [← hu]
  clear hu entered part
  rw [modes] at modesU
  rw [journal, region] at journalU
  rw [now, timeout] at mediaU
  refine ⟨modesU, by rw [groupsU, queue], fun st => ?_, ⟨by rw [claimsU, waitList], by rw [stagingU]; rfl⟩,
    readsU.trans reads, by rw [postedU, posted], fun h => ?_, stagingU, journalU, applyU, by rw [ckptU], by rw [ckptU],
    by rw [ckptU], by rw [relocU, reloc], by rw [mediaU], by rw [mediaU], by rw [mediaU]; rfl,
    ⟨_, recoveryU, rfl, rfl⟩, by rw [regsU, config], front, queues, whole⟩
  · rw [recordOf, groupsU]
    exact records st
  · rw [flagSet, regsU]
    exact lost h

theorem exec_resume_refused {b : Bool} (h : s.modes.mode ≠ .halted ∨ b = true) :
    exec (.resume b) s = .next (reject (samplePfw s b)) := by
  refine congrArg Host.Outcome.next (if_neg ?_)
  rintro ⟨hm, rfl⟩
  exact h.elim (fun h => h hm) Bool.false_ne_true

theorem exec_resume_accepted (h : s.modes.mode = .halted) :
    exec (.resume false) s = .next (startProcedure (samplePfw s false) resumePart) :=
  congrArg Host.Outcome.next (if_pos ⟨h, rfl⟩)

end Commands

/-- Settles O46: each command refused, with a configuration that is not valid, and begun. -/
theorem restartAndResumeGoThroughRecovery : Obligations.RestartAndResumeGoThroughRecovery := by
  refine ⟨fun s => ⟨fun hr hf => exec_restart_refused hr hf, fun hm h => ?_, fun hm h => ?_⟩,
    fun s b => ⟨fun h => exec_resume_refused h, fun hm hb h => ?_, fun hm hb h => ?_⟩⟩
  · rw [Answers, exec_restart_accepted hm, startProcedure_badConfig _ h]
  · exact ⟨_, (exec_restart_accepted hm).trans (congrArg Host.Outcome.next (startProcedure_runs _ h)),
      restartPart_spec s _ rfl⟩
  · subst hb
    rw [Answers, exec_resume_accepted hm, startProcedure_badConfig _ (by exact h)]
    rfl
  · subst hb
    have runs := exec_resume_accepted hm
    rw [startProcedure_runs _ (by exact h), resumePart] at runs
    obtain ⟨w, entered⟩ := enterRecovering_linkReset
      { accept (samplePfw s false) with drain := { (accept (samplePfw s false)).drain with doneOut := false } }
      (cause := .resume) (by decide)
    rw [entered] at runs
    exact ⟨_, runs, rfl, rfl, rfl, rfl, ⟨_, rfl, rfl, rfl⟩, rfl, rfl, rfl, rfl, rfl⟩

end Sys2Proof.Machine

/-! PROOF. The laws that hold together, in three parts, and what each is about (O60). -/

namespace Sys2Proof.Machine

/-! ## The laws that hold together, in three parts -/

/-- The counts of the answers that are owed, with `n` taken requests besides the reads and the entries of the queue. -/
structure CountLaw (n : Nat) (s : State) : Prop where
  serials : SerialsDistinct s
  reads : (s.reads.map TrackerEntry.serial).Nodup
  unanswered : ∀ e ∈ s.groups.queue, e.state = .sealed ∨ e.state = .journaling → e.answered = false
  taken : s.fabric.takenUnanswered = n + s.reads.length + owedEntries s
  room : s.fabric.egress.length + s.fabric.takenUnanswered ≤ Config.egressDepth

theorem responseLaw_iff (s : State) : ResponseLaw s ↔ CountLaw (heldWrites s).length s :=
  ⟨fun ⟨h1, h2, h3, h4, h5⟩ => ⟨h1, h2, h3, h4, h5⟩, fun ⟨h1, h2, h3, h4, h5⟩ => ⟨h1, h2, h3, h4, h5⟩⟩

/-- The laws that the turns of held writes bear on: the slots with what names them, and the counts. -/
structure BufferLaws (n : Nat) (s : State) : Prop where
  staging : StagingLaw s
  owner : OwnerLaw s
  index : IndexLaw s
  claim : ClaimLaw s
  pin : PinLaw s
  home : HomeLaw s
  count : CountLaw n s

/-- The laws of the journal. -/
structure JournalLaws (s : State) : Prop where
  writer : WriterLaw s
  space : SpaceLaw s
  sequence : SequenceLaw s

/-- The laws of the modes and of the relocation. -/
structure ControlLaws (s : State) : Prop where
  mode : ModeLaw s
  contents : ContentsLaw s
  target : TargetLaw s

/-- The laws that hold together, but for those of the held writes and of slot freeing, which every part of an event keeps. -/
structure Laws (n : Nat) (s : State) : Prop where
  buffer : BufferLaws n s
  journal : JournalLaws s
  control : ControlLaws s

theorem sharedLaws_iff (s : State) : SharedLaws s ↔ Laws (heldWrites s).length s ∧ HeldLaw s ∧ FreeingLaw s := by
  constructor
  · rintro ⟨staging, held, freeing, mode, contents, response, owner, index, claim, home, writer, space, pin, sequence, target⟩
    exact ⟨⟨⟨staging, owner, index, claim, pin, home, (responseLaw_iff s).1 response⟩, ⟨writer, space, sequence⟩,
      ⟨mode, contents, target⟩⟩, held, freeing⟩
  · rintro ⟨⟨⟨staging, owner, index, claim, pin, home, count⟩, ⟨writer, space, sequence⟩, ⟨mode, contents, target⟩⟩,
      held, freeing⟩
    exact ⟨staging, held, freeing, mode, contents, (responseLaw_iff s).2 count, owner, index, claim, home, writer, space, pin,
      sequence, target⟩

/-! ### What each law is about -/

section Congr

variable {s t : State}

theorem CountLaw.congr {n : Nat} (h : CountLaw n s) (hq : t.groups.queue = s.groups.queue := by rfl)
    (hr : t.reads = s.reads := by rfl) (ht : t.fabric.takenUnanswered = s.fabric.takenUnanswered := by rfl)
    (he : t.fabric.egress = s.fabric.egress := by rfl) : CountLaw n t := by
  obtain ⟨serials, reads, unanswered, taken, room⟩ := h
  constructor
  · rwa [SerialsDistinct, hq]
  · rwa [hr]
  · rwa [hq]
  · rw [ht, hr, owedEntries, hq]
    exact taken
  · rwa [ht, he]

theorem StagingLaw.congr (h : StagingLaw s) (hs : t.staging.slots = s.staging.slots := by rfl) : StagingLaw t := by
  unfold StagingLaw openSlots at h ⊢
  rwa [hs]

theorem OwnerLaw.congr (h : OwnerLaw s) (hg : t.groups = s.groups := by rfl)
    (hs : t.staging.slots = s.staging.slots := by rfl) : OwnerLaw t := by
  unfold OwnerLaw RecordOwns recordOf at h ⊢
  rwa [hg, hs]

theorem IndexLaw.congr (h : IndexLaw s) (hi : t.staging.index = s.staging.index := by rfl)
    (hs : t.staging.slots = s.staging.slots := by rfl) : IndexLaw t := by
  unfold IndexLaw at h ⊢
  rwa [hi, hs]

theorem ClaimLaw.congr (h : ClaimLaw s) (hs : t.staging.slots = s.staging.slots := by rfl) : ClaimLaw t := by
  unfold ClaimLaw at h ⊢
  rwa [hs]

theorem PinLaw.congr (h : PinLaw s) (hr : t.reads = s.reads := by rfl) (hs : t.staging.slots = s.staging.slots := by rfl) :
    PinLaw t := by
  unfold PinLaw at h ⊢
  rwa [hr, hs]

theorem HomeLaw.congr (h : HomeLaw s) (hq : t.groups.queue = s.groups.queue := by rfl)
    (hs : t.staging.slots = s.staging.slots := by rfl) (hr : t.media.requests = s.media.requests := by rfl)
    (ha : t.apply = s.apply := by rfl) (hm : t.modes.mode = s.modes.mode := by rfl) : HomeLaw t := by
  unfold HomeLaw homeSlots at h ⊢
  rwa [hq, hs, hr, ha, hm]

theorem WriterLaw.congr (h : WriterLaw s) (hq : t.groups.queue = s.groups.queue := by rfl)
    (hr : t.media.requests = s.media.requests := by rfl) (hw : t.journal.writer = s.journal.writer := by rfl) :
    WriterLaw t := by
  unfold WriterLaw anyRequest at h ⊢
  rwa [hq, hr, hw]

theorem JournalInUse.congr (h : JournalInUse t) (hm : t.modes.mode = s.modes.mode := by rfl)
    (ho : t.drain.origin = s.drain.origin := by rfl) (hr : t.recovery = s.recovery := by rfl) : JournalInUse s := by
  unfold JournalInUse inFinal at h ⊢
  rwa [← hm, ← ho, ← hr]

/-- The length of an entry's extent does not depend on the head. -/
theorem extentOf_length (s t : State) (e : Entry) : (extentOf s e).length = (extentOf t e).length := by
  unfold extentOf
  cases e.extent <;> rfl

theorem SpaceLaw.congr (h : SpaceLaw s) (hq : t.groups.queue = s.groups.queue := by rfl)
    (hw : t.journal.writer = s.journal.writer := by rfl) (hr : t.journal.region = s.journal.region := by rfl)
    (hu : t.journal.used = s.journal.used := by rfl) (huse : JournalInUse t → JournalInUse s := by exact fun h => h.congr) :
    SpaceLaw t := by
  intro h'
  obtain ⟨used, writing⟩ := h (huse h')
  rw [hr, hu, hw, hq]
  exact ⟨used, fun failed hf e he hj => extentOf_length s t e ▸ writing failed hf e he hj⟩

theorem SequenceLaw.congr (h : SequenceLaw s) (hq : t.groups.queue = s.groups.queue := by rfl)
    (hn : t.journal.nextSeq = s.journal.nextSeq := by rfl)
    (hd : t.journal.durableThrough = s.journal.durableThrough := by rfl)
    (ha : t.journal.appliedThrough = s.journal.appliedThrough := by rfl)
    (huse : JournalInUse t → JournalInUse s := by exact fun h => h.congr) : SequenceLaw t := by
  obtain ⟨h1, h2, h3, h4, h5, h6, h7⟩ := h
  unfold SequenceLaw unappliedEntries at *
  rw [hn, hd, ha, hq]
  exact ⟨h1, h2, h3, h4, h5, h6, fun h' => h7 (huse h')⟩

theorem ModeLaw.congr (h : ModeLaw s) (hq : t.groups.queue = s.groups.queue := by rfl)
    (hr : t.media.requests = s.media.requests := by rfl) (hm : t.modes.mode = s.modes.mode := by rfl)
    (hv : t.recovery = s.recovery := by rfl) (hf : t.format = s.format := by rfl)
    (hw : t.apply.withdrawn = s.apply.withdrawn := by rfl) (hl : t.reloc.state = s.reloc.state := by rfl) : ModeLaw t := by
  unfold ModeLaw anyRequest at h ⊢
  rwa [hq, hr, hm, hv, hf, hw, hl]

theorem ContentsLaw.congr (h : ContentsLaw s) (hg : t.groups = s.groups := by rfl) (hs : t.staging = s.staging := by rfl)
    (hc : t.claims.waitList = s.claims.waitList := by rfl) (hd : t.reads = s.reads := by rfl)
    (hr : t.media.requests = s.media.requests := by rfl) (hm : t.modes.mode = s.modes.mode := by rfl)
    (ho : t.drain.origin = s.drain.origin := by rfl) (hf : t.drain.finalRaised = s.drain.finalRaised := by rfl)
    (hw : t.journal.writer = s.journal.writer := by rfl) : ContentsLaw t := by
  unfold ContentsLaw NoneHeld recordOf at h ⊢
  rwa [hg, hs, hc, hd, hr, hm, ho, hf, hw]

theorem TargetLaw.congr (h : TargetLaw s) (hl : t.reloc.state = s.reloc.state := by rfl)
    (hx : t.reloc.target = s.reloc.target := by rfl) (hg : t.decoder.guardTarget = s.decoder.guardTarget := by rfl)
    (hr : t.media.requests = s.media.requests := by rfl) (hm : t.modes.mode = s.modes.mode := by rfl)
    (hp : t.posted.records = s.posted.records := by rfl) : TargetLaw t := by
  unfold TargetLaw anyRequest at h ⊢
  rwa [hl, hx, hg, hr, hm, hp]

end Congr

end Sys2Proof.Machine

/-! PROOF. What leaves the laws that hold together, and requests that leave the port or become ready (R152). -/

namespace Sys2Proof.Machine

/-! ### Parts of an event that leave what the laws are about -/

section Frame

variable {n : Nat} {s t : State}

theorem BufferLaws.congr (h : BufferLaws n s) (hg : t.groups = s.groups := by rfl)
    (hs : t.staging.slots = s.staging.slots := by rfl) (hi : t.staging.index = s.staging.index := by rfl)
    (hd : t.reads = s.reads := by rfl) (hr : t.media.requests = s.media.requests := by rfl)
    (ha : t.apply = s.apply := by rfl) (hm : t.modes.mode = s.modes.mode := by rfl)
    (ht : t.fabric.takenUnanswered = s.fabric.takenUnanswered := by rfl)
    (he : t.fabric.egress = s.fabric.egress := by rfl) : BufferLaws n t :=
  have hq : t.groups.queue = s.groups.queue := by rw [hg]
  ⟨h.staging.congr hs, h.owner.congr hg hs, h.index.congr hi hs, h.claim.congr hs, h.pin.congr hd hs,
    h.home.congr hq hs hr ha hm, h.count.congr hq hd ht he⟩

theorem JournalLaws.congr (h : JournalLaws s) (hq : t.groups.queue = s.groups.queue := by rfl)
    (hr : t.media.requests = s.media.requests := by rfl) (hj : t.journal = s.journal := by rfl)
    (hm : t.modes.mode = s.modes.mode := by rfl) (ho : t.drain.origin = s.drain.origin := by rfl)
    (hv : t.recovery = s.recovery := by rfl) : JournalLaws t :=
  have use (hu : JournalInUse t) : JournalInUse s := hu.congr hm ho hv
  ⟨h.writer.congr hq hr (by rw [hj]), h.space.congr hq (by rw [hj]) (by rw [hj]) (by rw [hj]) use,
    h.sequence.congr hq (by rw [hj]) (by rw [hj]) (by rw [hj]) use⟩

theorem ControlLaws.congr (h : ControlLaws s) (hg : t.groups = s.groups := by rfl) (hs : t.staging = s.staging := by rfl)
    (hc : t.claims.waitList = s.claims.waitList := by rfl) (hd : t.reads = s.reads := by rfl)
    (hr : t.media.requests = s.media.requests := by rfl) (hm : t.modes.mode = s.modes.mode := by rfl)
    (ho : t.drain.origin = s.drain.origin := by rfl) (hf : t.drain.finalRaised = s.drain.finalRaised := by rfl)
    (hw : t.journal.writer = s.journal.writer := by rfl) (hv : t.recovery = s.recovery := by rfl)
    (hx : t.format = s.format := by rfl) (ha : t.apply.withdrawn = s.apply.withdrawn := by rfl)
    (hl : t.reloc.state = s.reloc.state := by rfl) (hz : t.reloc.target = s.reloc.target := by rfl)
    (hgt : t.decoder.guardTarget = s.decoder.guardTarget := by rfl)
    (hp : t.posted.records = s.posted.records := by rfl) : ControlLaws t :=
  ⟨h.mode.congr (by rw [hg]) hr hm hv hx ha hl, h.contents.congr hg hs hc hd hr hm ho hf hw,
    h.target.congr hl hz hgt hr hm hp⟩

theorem Laws.congr (h : Laws n s) (hg : t.groups = s.groups := by rfl) (hs : t.staging = s.staging := by rfl)
    (hc : t.claims.waitList = s.claims.waitList := by rfl) (hd : t.reads = s.reads := by rfl)
    (hr : t.media.requests = s.media.requests := by rfl) (ha : t.apply = s.apply := by rfl)
    (hm : t.modes.mode = s.modes.mode := by rfl)
    (ho : t.drain.origin = s.drain.origin := by rfl) (hf : t.drain.finalRaised = s.drain.finalRaised := by rfl)
    (hj : t.journal = s.journal := by rfl) (hv : t.recovery = s.recovery := by rfl)
    (hx : t.format = s.format := by rfl)
    (hl : t.reloc = s.reloc := by rfl)
    (hgt : t.decoder.guardTarget = s.decoder.guardTarget := by rfl)
    (hp : t.posted.records = s.posted.records := by rfl)
    (ht : t.fabric.takenUnanswered = s.fabric.takenUnanswered := by rfl)
    (he : t.fabric.egress = s.fabric.egress := by rfl) : Laws n t :=
  ⟨h.buffer.congr hg (by rw [hs]) (by rw [hs]) hd hr ha hm ht he, h.journal.congr (by rw [hg]) hr hj hm ho hv,
    h.control.congr hg hs hc hd hr hm ho hf (by rw [hj]) hv hx (by rw [ha]) (by rw [hl]) (by rw [hl]) hgt hp⟩

end Frame

/-! ### Requests at the media port -/

/-- A requester that a law speaks of. -/
def Requester.isNamed : Requester → Bool
  | .journalLine _ | .commitLine | .homeWrite _ | .formatLine | .relocLine => true
  | _ => false

/-- The requesters that the laws speak of, in order of readiness. -/
def namedRequesters (rs : List MediaReq) : List Requester := (rs.map MediaReq.requester).filter Requester.isNamed

/-- The slot of a home write. -/
def Requester.homeSlot? : Requester → Option Nat
  | .homeWrite n => some n
  | _ => none

theorem homeSlots_eq (s : State) : homeSlots s = (namedRequesters s.media.requests).filterMap Requester.homeSlot? := by
  unfold homeSlots namedRequesters
  rw [List.filterMap_filter, List.filterMap_map]
  refine List.filterMap_congr fun r _ => ?_
  simp only [Function.comp]
  cases r.requester <;> rfl

theorem anyRequest_eq (s : State) {p : Requester → Bool} (hp : ∀ q, p q = true → q.isNamed = true) :
    anyRequest s p = (namedRequesters s.media.requests).any p := by
  unfold anyRequest namedRequesters
  rw [List.any_filter, List.any_map]
  congr 1
  funext r
  specialize hp r.requester
  simp only [Function.comp]
  cases h : p r.requester <;> simp_all

theorem commitLines_eq (s : State) : (s.media.requests.countP fun r => r.requester == .commitLine)
    = (namedRequesters s.media.requests).countP (· == .commitLine) := by
  unfold namedRequesters
  rw [List.countP_filter, List.countP_map]
  refine List.countP_congr fun r _ => ?_
  simp only [Function.comp]
  cases r.requester <;> simp [Requester.isNamed]

theorem isNamed_of_isJournalLine {q : Requester} (h : q.isJournalLine = true) : q.isNamed = true := by
  unfold Requester.isJournalLine at h
  split at h
  · rfl
  · cases h

theorem isNamed_of_isFormat {q : Requester} (h : q.isFormat = true) : q.isNamed = true := by
  unfold Requester.isFormat at h
  split at h
  · rfl
  · cases h

theorem isNamed_of_isRelocLine {q : Requester} (h : q.isRelocLine = true) : q.isNamed = true := by
  unfold Requester.isRelocLine at h
  split at h
  · rfl
  · cases h

theorem isNamed_of_commitLine {q : Requester} (h : (q == .commitLine) = true) : q.isNamed = true := by
  rw [beq_iff_eq] at h
  rw [h]
  rfl

section Fewer

variable {s t : State}

/-- A request that the laws speak of was at the port before. -/
theorem anyRequest_mono (h : (namedRequesters t.media.requests).Sublist (namedRequesters s.media.requests))
    {p : Requester → Bool} (hp : ∀ q, p q = true → q.isNamed = true) (ha : anyRequest t p = true) : anyRequest s p = true := by
  rw [anyRequest_eq _ hp] at ha ⊢
  obtain ⟨q, hq, hpq⟩ := List.any_eq_true.1 ha
  exact List.any_eq_true.2 ⟨q, h.subset hq, hpq⟩

theorem anyRequest_anti (h : (namedRequesters t.media.requests).Sublist (namedRequesters s.media.requests))
    {p : Requester → Bool} (hp : ∀ q, p q = true → q.isNamed = true) (ha : anyRequest s p = false) : anyRequest t p = false := by
  cases hb : anyRequest t p
  · rfl
  · rw [anyRequest_mono h hp hb] at ha
    cases ha

variable {n : Nat} {m : Media}

theorem HomeLaw.requests (h : HomeLaw s) (hm : (namedRequesters m.requests).Sublist (namedRequesters s.media.requests)) :
    HomeLaw { s with media := m } := by
  obtain ⟨h1, h2, h3⟩ := h
  have sub : (homeSlots { s with media := m }).Sublist (homeSlots s) := by
    rw [homeSlots_eq, homeSlots_eq]
    exact hm.filterMap _
  exact ⟨h1.sublist sub, fun n hn => h2 n (sub.subset hn), h3⟩

theorem WriterLaw.requests (h : WriterLaw s)
    (hm : (namedRequesters m.requests).Sublist (namedRequesters s.media.requests)) : WriterLaw { s with media := m } := by
  obtain ⟨h1, h2, h3, h4⟩ := h
  refine ⟨h1, fun ha => ?_, fun ha => h3 (anyRequest_mono hm (fun _ => isNamed_of_commitLine) ha), ?_⟩
  · obtain ⟨writing, none⟩ := h2 (anyRequest_mono hm (fun _ => isNamed_of_isJournalLine) ha)
    exact ⟨writing, anyRequest_anti hm (fun _ => isNamed_of_commitLine) none⟩
  · rw [commitLines_eq] at h4 ⊢
    exact (hm.countP_le).trans h4

theorem ModeLaw.requests (h : ModeLaw s) (hm : (namedRequesters m.requests).Sublist (namedRequesters s.media.requests)) :
    ModeLaw { s with media := m } := by
  obtain ⟨h1, h2, h3, h4⟩ := h
  exact ⟨h1, h2, fun ha => h3 (anyRequest_mono hm (fun _ => isNamed_of_isFormat) ha), h4⟩

theorem ContentsLaw.requests (h : ContentsLaw s) (hf : s.modes.mode = .draining → s.drain.finalRaised = true →
    ∀ r ∈ m.requests, r.requester = .checkpoint) : ContentsLaw { s with media := m } := by
  obtain ⟨h1, h2, h3, h4, h5⟩ := h
  refine ⟨h1, h2, h3, fun hd hr => ?_, h5⟩
  obtain ⟨writer, reads, -⟩ := h4 hd hr
  exact ⟨writer, reads, hf hd hr⟩

theorem TargetLaw.requests (h : TargetLaw s) (hm : (namedRequesters m.requests).Sublist (namedRequesters s.media.requests)) :
    TargetLaw { s with media := m } := by
  obtain ⟨h1, h2, h3⟩ := h
  exact ⟨h1, fun ha => h2 (anyRequest_mono hm (fun _ => isNamed_of_isRelocLine) ha),
    fun hr ha => h3 hr (anyRequest_mono hm (fun _ => isNamed_of_isRelocLine) ha)⟩

theorem BufferLaws.requests (h : BufferLaws n s)
    (hm : (namedRequesters m.requests).Sublist (namedRequesters s.media.requests)) : BufferLaws n { s with media := m } :=
  ⟨h.staging.congr, h.owner.congr, h.index.congr, h.claim.congr, h.pin.congr, h.home.requests hm, h.count.congr⟩

theorem JournalLaws.requests (h : JournalLaws s)
    (hm : (namedRequesters m.requests).Sublist (namedRequesters s.media.requests)) : JournalLaws { s with media := m } :=
  ⟨h.writer.requests hm, h.space.congr, h.sequence.congr⟩

/-- The laws allow any change of the requests that brings none of a requester that they name, and none after the final trigger
of a drain. -/
theorem Laws.requests (h : Laws n s) (hm : (namedRequesters m.requests).Sublist (namedRequesters s.media.requests))
    (hf : s.modes.mode = .draining → s.drain.finalRaised = true → ∀ r ∈ m.requests, r.requester = .checkpoint) :
    Laws n { s with media := m } :=
  ⟨h.buffer.requests hm, h.journal.requests hm,
    ⟨h.control.mode.requests hm, h.control.contents.requests hf, h.control.target.requests hm⟩⟩

/-- After the final trigger of a drain every request is a checkpoint's. -/
theorem Laws.final (h : Laws n s) (hd : s.modes.mode = .draining) (hr : s.drain.finalRaised = true) :
    s.journal.writer = .idle ∧ s.reads = [] ∧ ∀ r ∈ s.media.requests, r.requester = .checkpoint :=
  h.control.contents.2.2.2.1 hd hr

/-- Requests leave the port, or change but for their requesters. -/
theorem Laws.fewer (h : Laws n s)
    (hm : (m.requests.map MediaReq.requester).Sublist (s.media.requests.map MediaReq.requester)) :
    Laws n { s with media := m } := by
  refine h.requests (hm.filter _) fun hd hr r hmem => ?_
  obtain ⟨q, hq, he⟩ := List.mem_map.1 (hm.subset (List.mem_map_of_mem hmem))
  exact he ▸ (h.final hd hr).2.2 q hq

theorem Laws.dropTag (h : Laws n s) (t : MediaTag) : Laws n (dropTag s t) := h.fewer (List.filter_sublist.map _)

theorem Laws.withdraw (h : Laws n s) (p : Requester → Bool) : Laws n (withdraw s p) := h.fewer (List.filter_sublist.map _)

theorem namedRequesters_append (a b : List MediaReq) :
    namedRequesters (a ++ b) = namedRequesters a ++ namedRequesters b := by
  simp [namedRequesters]

theorem namedRequesters_eq_nil {b : List MediaReq} (hb : ∀ r ∈ b, r.requester.isNamed = false) : namedRequesters b = [] := by
  simpa [namedRequesters] using hb

/-- Requests of requesters that the laws do not name become ready. -/
theorem Laws.handOver {rs : List MediaReq} (h : Laws n s) (hn : ∀ r ∈ rs, r.requester.isNamed = false)
    (hf : s.modes.mode = .draining → s.drain.finalRaised = true → ∀ r ∈ rs, r.requester = .checkpoint) :
    Laws n (handOver s rs) := by
  refine h.requests ?_ fun hd hr r hmem => ?_
  · rw [namedRequesters_append, namedRequesters_eq_nil hn, List.append_nil]
  · rcases List.mem_append.1 hmem with hold | hnew
    · exact (h.final hd hr).2.2 r hold
    · exact hf hd hr r hnew

theorem Laws.beginCheckpoint (h : Laws n s) : Laws n (beginCheckpoint s) := by
  have k : Laws n { s with ckpt :=
    { s.ckpt with inFlight := some { sb := currentSuperblock s, span := s.journal.retiredSpan } } } := h.congr
  exact k.handOver (fun r hr => by rw [List.mem_singleton.1 hr]; rfl) fun _ _ r hr => by rw [List.mem_singleton.1 hr]; rfl

theorem Laws.raiseTrigger (h : Laws n s) : Laws n (raiseTrigger s) := by
  unfold Machine.raiseTrigger
  split
  · exact h.congr
  · exact h.beginCheckpoint

theorem Laws.relocTrigger (h : Laws n s) (b : State) : Laws n (relocTrigger b s) := by
  unfold Machine.relocTrigger
  split
  · exact h.raiseTrigger
  · exact h

theorem Laws.endCheckpoint (h : Laws n s) : Laws n (endCheckpoint s) := by
  have k : Laws n { s with ckpt := { s.ckpt with inFlight := none, trigger := false } } := h.congr
  unfold Machine.endCheckpoint
  split
  · exact k.beginCheckpoint
  · exact k

end Fewer

end Sys2Proof.Machine

/-! PROOF. The counts of the answers that are owed (R65, R160, R163). -/

namespace Sys2Proof.Machine

/-! ### Answers, takes and held answers -/

section Counts

variable {n m : Nat} {s : State}

theorem CountLaw.recount (h : CountLaw n s) {f : Fabric}
    (ht : f.takenUnanswered + n = s.fabric.takenUnanswered + m)
    (he : f.egress.length + f.takenUnanswered ≤ Config.egressDepth) : CountLaw m { s with fabric := f } := by
  obtain ⟨serials, reads, unanswered, taken, room⟩ := h
  refine ⟨serials, reads, unanswered, ?_, he⟩
  change f.takenUnanswered = m + s.reads.length + owedEntries s
  omega

theorem BufferLaws.recount (h : BufferLaws n s) {f : Fabric}
    (ht : f.takenUnanswered + n = s.fabric.takenUnanswered + m)
    (he : f.egress.length + f.takenUnanswered ≤ Config.egressDepth) : BufferLaws m { s with fabric := f } :=
  ⟨h.staging.congr, h.owner.congr, h.index.congr, h.claim.congr, h.pin.congr, h.home.congr, h.count.recount ht he⟩

theorem Laws.recount (h : Laws n s) {f : Fabric}
    (ht : f.takenUnanswered + n = s.fabric.takenUnanswered + m)
    (he : f.egress.length + f.takenUnanswered ≤ Config.egressDepth) : Laws m { s with fabric := f } :=
  ⟨h.buffer.recount ht he, h.journal.congr, h.control.congr⟩

/-- One of the taken requests is answered. -/
theorem BufferLaws.answerTaken (h : BufferLaws (n + 1) s) (r : Response) : BufferLaws n (answerTaken s r) := by
  obtain ⟨-, -, -, taken, room⟩ := h.count
  refine h.recount ?_ ?_
  · simp only
    omega
  · simp only [List.length_append, List.length_singleton]
    omega

theorem Laws.answerTaken (h : Laws (n + 1) s) (r : Response) : Laws n (answerTaken s r) :=
  ⟨h.buffer.answerTaken r, h.journal.congr, h.control.congr⟩

theorem room_of_hasRoom (h : hasRoom s = true) : s.fabric.egress.length + s.fabric.takenUnanswered + 1 ≤ Config.egressDepth := by
  have free := of_decide_eq_true h
  unfold Config.egressDepth at free ⊢
  omega

/-- A request is taken when there is room for its answer. -/
theorem Laws.takeHead (h : Laws n s) (hr : hasRoom s = true) (st : Stream) : Laws (n + 1) (takeHead s st) := by
  have room := room_of_hasRoom hr
  have k : Laws (n + 1) { s with fabric := (Machine.takeHead s st).fabric } := by
    refine h.recount ?_ ?_
    · simp only [Machine.takeHead, freeHead]
      omega
    · simp only [Machine.takeHead, freeHead]
      omega
  exact k.congr

/-- What held answers that enter the egress queue change. -/
theorem enterHeldAnswers_fabric (k : Nat) (s : State) :
    ∃ f w, enterHeldAnswers k s = { s with fabric := f, wires := w } ∧ f.takenUnanswered = s.fabric.takenUnanswered
      ∧ (s.fabric.egress.length + s.fabric.takenUnanswered ≤ Config.egressDepth →
        f.egress.length + f.takenUnanswered ≤ Config.egressDepth) := by
  induction k generalizing s with
  | zero => exact ⟨s.fabric, s.wires, rfl, rfl, id⟩
  | succ k ih =>
    rw [enterHeldAnswers]
    split
    · exact ⟨s.fabric, s.wires, rfl, rfl, id⟩
    · rename_i h _
      split
      · rename_i hr
        have room := room_of_hasRoom hr
        obtain ⟨f, w, eq, taken, kept⟩ := ih (freeHead (enterEgress s (plainAnswer h.stream h.entry.req.tag h.status)) h.stream)
        refine ⟨f, w, eq, taken, fun _ => kept ?_⟩
        simp only [freeHead, enterEgress, List.length_append, List.length_singleton]
        omega
      · exact ⟨s.fabric, s.wires, rfl, rfl, id⟩

theorem Laws.settleHeldAnswers (h : Laws n s) : Laws n (settleHeldAnswers s) := by
  obtain ⟨f, w, eq, taken, room⟩ := enterHeldAnswers_fabric (ingressCount s) s
  have k : Laws n { s with fabric := f } := h.recount (by rw [taken]) (room h.buffer.count.room)
  rw [Machine.settleHeldAnswers, eq]
  exact k.congr

/-- What the answering of the queues changes, and that there is room for it. -/
theorem answerQueues_fabric (s : State) (x : Status) :
    ∃ f w, answerQueues s x = { s with fabric := f, wires := w } ∧ f.takenUnanswered = s.fabric.takenUnanswered
      ∧ (s.fabric.egress.length + s.fabric.takenUnanswered ≤ Config.egressDepth →
        f.egress.length + f.takenUnanswered ≤ Config.egressDepth) := by
  obtain ⟨f, w, eq, taken, room⟩ := enterHeldAnswers_fabric (ingressCount (queuesMarked s x)) (queuesMarked s x)
  exact ⟨f, w, eq, taken, room⟩

end Counts

end Sys2Proof.Machine

/-! PROOF. Versions that end, and the laws of the buffer (R23, R26, R35). -/

namespace Sys2Proof.Machine

/-! ### Versions that end -/

/-- A version that has ended and is kept for the reads that pin it. -/
def Slot.ended (x : SlotState) (v : Slot) : Slot := { v with state := x, owner := none }

theorem mem_endSlot_iff {ns : List Nat} {x : SlotState} {l : List Slot} {u : Slot} :
    u ∈ l.filterMap (endSlot ns x) ↔
      (u ∈ l ∧ u.num ∉ ns) ∨ ∃ v ∈ l, v.num ∈ ns ∧ v.pins ≠ 0 ∧ u = v.ended x := by
  rw [List.mem_filterMap]
  constructor
  · rintro ⟨v, hv, h⟩
    unfold endSlot at h
    split at h
    · rename_i hn
      split at h
      · cases h
      · rename_i hp
        exact .inr ⟨v, hv, hn, hp, (Option.some.inj h).symm⟩
    · rename_i hn
      obtain rfl := Option.some.inj h
      exact .inl ⟨hv, hn⟩
  · rintro (⟨hu, hn⟩ | ⟨v, hv, hn, hp, rfl⟩)
    · exact ⟨u, hu, if_neg hn⟩
    · exact ⟨v, hv, by rw [endSlot, if_pos hn, if_neg hp]; rfl⟩

theorem RecordOwns.congr {s t : State} {st : Stream} {v : Slot} (h : RecordOwns s st v)
    (hr : (recordOf t st).slots = (recordOf s st).slots) : RecordOwns t st v :=
  ⟨h.1, h.2.1, hr ▸ h.2.2⟩

section Owners

variable {s : State} (hs : StagingLaw s) (ho : OwnerLaw s)

include hs ho

/-- The owner of a slot that a record lists. -/
theorem OwnerLaw.recordOwns {st : Stream} {v : Slot} (hv : v ∈ s.staging.slots) (hn : v.num ∈ (recordOf s st).slots) :
    RecordOwns s st v := by
  obtain ⟨u, hu, hnum, howns⟩ := (ho.1 st).2 v.num hn
  exact hs.eq_of_num hv hu hnum ▸ howns

/-- The owner of a slot that an entry lists before its group is APPLYING. -/
theorem OwnerLaw.entryOwns {e : Entry} {v : Slot} (he : e ∈ s.groups.queue) (ha : e.state ≠ .applying)
    (hv : v ∈ s.staging.slots) (hn : v.num ∈ e.slots) : e.owns v := by
  obtain ⟨u, hu, hnum, howns⟩ := (ho.2.1 e he).2 ha v.num hn
  exact hs.eq_of_num hv hu hnum ▸ howns

/-- No two records list one slot. -/
theorem OwnerLaw.record_inj {st st' : Stream} {n : Nat} (hn : n ∈ (recordOf s st).slots)
    (hn' : n ∈ (recordOf s st').slots) : st = st' := by
  obtain ⟨u, hu, rfl, howns, -⟩ := (ho.1 st).2 n hn
  obtain ⟨howns', -⟩ := ho.recordOwns hs hu hn'
  rw [howns] at howns'
  simpa using howns'

/-- No record lists a slot of an entry that is not APPLYING. -/
theorem OwnerLaw.record_entry {st : Stream} {e : Entry} {n : Nat} (hn : n ∈ (recordOf s st).slots)
    (he : e ∈ s.groups.queue) (ha : e.state ≠ .applying) : n ∉ e.slots := by
  intro hn'
  obtain ⟨u, hu, rfl, howns, -⟩ := (ho.1 st).2 n hn
  obtain ⟨howns', -⟩ := ho.entryOwns hs he ha hu hn'
  rw [howns] at howns'
  cases howns'

end Owners

/-- A change of the groups that goes with the end of the versions in the slots `ns`. -/
structure GroupsEnd (s t : State) (ns : List Nat) : Prop where
  record : ∀ st, (recordOf t st).slots = (recordOf s st).slots ∧ (∀ n ∈ (recordOf s st).slots, n ∉ ns)
    ∨ (recordOf t st).slots = [] ∧ ∀ n ∈ (recordOf s st).slots, n ∈ ns
  entry : ∀ e ∈ t.groups.queue, e ∈ s.groups.queue ∧ (e.state ≠ .applying → ∀ n ∈ e.slots, n ∉ ns)
  kept : ∀ e ∈ s.groups.queue, e ∈ t.groups.queue ∨ ∀ n ∈ e.slots, n ∈ ns

section Ended

variable {s t : State} {ns : List Nat} {x : SlotState}

theorem OwnerLaw.versionsEnd (h : OwnerLaw s) (hx : x = .spent ∨ x = .aborted)
    (hslots : t.staging.slots = s.staging.slots.filterMap (endSlot ns x)) (hg : GroupsEnd s t ns) : OwnerLaw t := by
  obtain ⟨records, entries, owners⟩ := h
  refine ⟨fun st => ?_, fun e he => ?_, fun u hu => ?_⟩
  · rcases hg.record st with ⟨hr, hn⟩ | ⟨hr, -⟩
    · rw [hr]
      refine ⟨(records st).1, fun n hmem => ?_⟩
      obtain ⟨v, hv, hnum, howns⟩ := (records st).2 n hmem
      exact ⟨v, hslots ▸ mem_endSlot_iff.2 (.inl ⟨hv, hnum ▸ hn n hmem⟩), hnum, howns.congr hr⟩
    · rw [hr]
      exact ⟨.nil, fun n hmem => by cases hmem⟩
  · obtain ⟨hold, hout⟩ := hg.entry e he
    refine ⟨(entries e hold).1, fun ha n hmem => ?_⟩
    obtain ⟨v, hv, hnum, howns⟩ := (entries e hold).2 ha n hmem
    exact ⟨v, hslots ▸ mem_endSlot_iff.2 (.inl ⟨hv, hnum ▸ hout ha n hmem⟩), hnum, howns⟩
  · rw [hslots, mem_endSlot_iff] at hu
    rcases hu with ⟨hu, hn⟩ | ⟨v, -, -, -, rfl⟩
    · have owner := owners u hu
      split
      · rename_i hstate
        rwa [if_pos hstate] at owner
      · rename_i hstate
        rw [if_neg hstate] at owner
        rcases owner with ⟨st, howns⟩ | ⟨e, he, hd, howns⟩
        · rcases hg.record st with ⟨hr, -⟩ | ⟨-, hall⟩
          · exact .inl ⟨st, howns.congr hr⟩
          · exact absurd (hall _ howns.2.2) hn
        · rcases hg.kept e he with hkept | hall
          · exact .inr ⟨e, hkept, hd, howns⟩
          · exact absurd (hall _ howns.2.2) hn
    · exact (if_pos (by exact hx)).symm ▸ rfl

theorem IndexLaw.versionsEnd (h : IndexLaw s) (hx : x = .spent ∨ x = .aborted)
    (hslots : t.staging.slots = s.staging.slots.filterMap (endSlot ns x))
    (hi : t.staging.index = s.staging.index.filter fun e => e.slot ∉ ns) : IndexLaw t := by
  obtain ⟨nodup, places, listed⟩ := h
  refine ⟨?_, fun e he => ?_, fun u hu h1 h2 => ?_⟩
  · rw [hi]
    exact nodup.sublist (List.filter_sublist.map _)
  · rw [hi, List.mem_filter, decide_eq_true_eq] at he
    obtain ⟨v, hv, hnum, hrest⟩ := places e he.1
    exact ⟨v, hslots ▸ mem_endSlot_iff.2 (.inl ⟨hv, hnum ▸ he.2⟩), hnum, hrest⟩
  · rw [hslots, mem_endSlot_iff] at hu
    rcases hu with ⟨hu, hn⟩ | ⟨v, -, -, -, rfl⟩
    · rw [hi, List.mem_filter, decide_eq_true_eq]
      exact ⟨listed u hu h1 h2, hn⟩
    · rcases hx with rfl | rfl
      · exact absurd rfl h1
      · exact absurd rfl h2

theorem ClaimLaw.versionsEnd (h : ClaimLaw s) (hx : x = .spent ∨ x = .aborted)
    (hslots : t.staging.slots = s.staging.slots.filterMap (endSlot ns x)) : ClaimLaw t := by
  have stays {u : Slot} (hu : u ∈ t.staging.slots) (hc : u.state.claims = true) : u ∈ s.staging.slots := by
    rw [hslots, mem_endSlot_iff] at hu
    rcases hu with ⟨hu, -⟩ | ⟨v, -, -, -, rfl⟩
    · exact hu
    · rcases hx with rfl | rfl <;> cases hc
  exact fun v hv w hw hcv hcw => h v (stays hv hcv) w (stays hw hcw) hcv hcw

/-- A slot that a read lists is pinned. -/
theorem PinLaw.pinned (h : PinLaw s) {e : TrackerEntry} (he : e ∈ s.reads) {v : Slot} (hv : v ∈ s.staging.slots)
    (hn : v.num ∈ e.pinned) : v.pins ≠ 0 := by
  rw [h.2 v hv]
  exact (List.countP_pos_iff.2 ⟨e, he, by simpa using hn⟩).ne'

theorem PinLaw.versionsEnd (h : PinLaw s) (hr : t.reads = s.reads)
    (hslots : t.staging.slots = s.staging.slots.filterMap (endSlot ns x)) : PinLaw t := by
  refine ⟨fun e he => ?_, fun u hu => ?_⟩
  · rw [hr] at he
    refine ⟨(h.1 e he).1, fun n hn => ?_⟩
    obtain ⟨v, hv, rfl⟩ := (h.1 e he).2 n hn
    by_cases hmem : v.num ∈ ns
    · exact ⟨v.ended x, hslots ▸ mem_endSlot_iff.2 (.inr ⟨v, hv, hmem, h.pinned he hv hn, rfl⟩), rfl⟩
    · exact ⟨v, hslots ▸ mem_endSlot_iff.2 (.inl ⟨hv, hmem⟩), rfl⟩
  · rw [hslots, mem_endSlot_iff] at hu
    rw [hr]
    rcases hu with ⟨hu, -⟩ | ⟨v, hv, -, -, rfl⟩
    · exact h.2 u hu
    · exact h.2 v hv

end Ended

end Sys2Proof.Machine

/-! PROOF. Entries that are answered, entries that leave, and the sequences of the unapplied entries (R16, R91). -/

namespace Sys2Proof.Machine

/-! ### Entries that are answered, and entries that leave -/

/-- An entry but for what it is owed: its barrier and whether it is answered. -/
def Entry.frame (e : Entry) : Entry := { e with barrier := 0, answered := true }

theorem Entry.eq_of_frame {e f : Entry} (h : e.frame = f.frame) : ∃ b a, e = { f with barrier := b, answered := a } := by
  refine ⟨e.barrier, e.answered, ?_⟩
  cases e
  cases f
  simp only [Entry.frame, Entry.mk.injEq] at h ⊢
  tauto

/-- An entry that nothing but its answer keeps in the queue. -/
def Entry.idle (e : Entry) : Bool := e.kept && e.leaves

/-- A change of the queue in which entries are answered or owe less, and entries leave that only their answer kept. -/
def QueueThinned (q q' : List Entry) : Prop :=
  ∃ p : Entry → Bool, (∀ e ∈ q, p e = false → e.idle = true) ∧ q'.map Entry.frame = (q.filter p).map Entry.frame

theorem QueueThinned.of_map {q : List Entry} {g : Entry → Entry} (hg : ∀ e ∈ q, (g e).frame = e.frame) :
    QueueThinned q (q.map g) := by
  refine ⟨fun _ => true, fun _ _ h => absurd h (by simp), ?_⟩
  rw [List.filter_true, List.map_map]
  exact List.map_congr_left hg

theorem QueueThinned.of_filter {q : List Entry} {p : Entry → Bool} (hp : ∀ e ∈ q, p e = false → e.idle = true) :
    QueueThinned q (q.filter p) := ⟨p, hp, rfl⟩

section Thinned

variable {q q' : List Entry} (h : QueueThinned q q')

include h

theorem QueueThinned.back {e : Entry} (he : e ∈ q') : ∃ f ∈ q, ∃ b a, e = { f with barrier := b, answered := a } := by
  obtain ⟨p, -, heq⟩ := h
  obtain ⟨f, hf, hframe⟩ := List.mem_map.1 (heq ▸ List.mem_map_of_mem (f := Entry.frame) he)
  exact ⟨f, List.mem_of_mem_filter hf, Entry.eq_of_frame hframe.symm⟩

theorem QueueThinned.stays {e : Entry} (he : e ∈ q) (hi : e.idle = false) :
    ∃ b a, { e with barrier := b, answered := a } ∈ q' := by
  obtain ⟨p, hp, heq⟩ := h
  have hkeep : e ∈ q.filter p := by
    refine List.mem_filter.2 ⟨he, ?_⟩
    cases hpe : p e
    · rw [hp e he hpe] at hi
      cases hi
    · rfl
  obtain ⟨f, hf, hframe⟩ := List.mem_map.1 (heq ▸ List.mem_map_of_mem (f := Entry.frame) hkeep)
  obtain ⟨b, a, rfl⟩ := Entry.eq_of_frame hframe
  exact ⟨b, a, hf⟩

/-- Entries of a kind that does not depend on what they are owed. -/
theorem QueueThinned.filter_sublist {P : Entry → Bool} (hP : ∀ e, P e.frame = P e) :
    ((q'.filter P).map Entry.frame).Sublist ((q.filter P).map Entry.frame) := by
  obtain ⟨p, -, heq⟩ := h
  have frames (l : List Entry) : (l.filter P).map Entry.frame = (l.map Entry.frame).filter P := by
    rw [List.filter_map]
    congr 1
    exact List.filter_congr fun e _ => (hP e).symm
  rw [frames, frames, heq]
  exact (List.filter_sublist.map Entry.frame).filter P

/-- Entries of a kind that has none of those that leave. -/
theorem QueueThinned.filter_eq {P : Entry → Bool} (hP : ∀ e, P e.frame = P e) (hi : ∀ e, P e = true → e.idle = false) :
    (q'.filter P).map Entry.frame = (q.filter P).map Entry.frame := by
  obtain ⟨p, hp, heq⟩ := h
  have frames (l : List Entry) : (l.filter P).map Entry.frame = (l.map Entry.frame).filter P := by
    rw [List.filter_map]
    congr 1
    exact List.filter_congr fun e _ => (hP e).symm
  rw [frames, heq, ← frames, List.filter_filter]
  congr 1
  refine List.filter_congr fun e he => ?_
  cases hPe : P e
  · rfl
  · cases hpe : p e
    · have := hi e hPe
      rw [hp e he hpe] at this
      cases this
    · rfl

theorem QueueThinned.countP_eq {P : Entry → Bool} (hP : ∀ e, P e.frame = P e) (hi : ∀ e, P e = true → e.idle = false) :
    q'.countP P = q.countP P := by
  have := congrArg List.length (h.filter_eq hP hi)
  rwa [List.length_map, List.length_map, ← List.countP_eq_length_filter, ← List.countP_eq_length_filter] at this

theorem QueueThinned.nil (hq : q = []) : q' = [] := by
  rw [List.eq_nil_iff_forall_not_mem]
  intro e he
  obtain ⟨f, hf, -⟩ := h.back he
  rw [hq] at hf
  cases hf

end Thinned

theorem Entry.idle_eq_false_of_slots {e : Entry} (hs : e.slots ≠ []) (hd : e.homeDone = false) : e.idle = false := by
  have : e.leaves = false := by simp [Entry.leaves, hs, hd]
  rw [Entry.idle, this, Bool.and_false]

theorem Entry.idle_eq_false_of_state {e : Entry} (hs : e.state = .sealed ∨ e.state = .journaling) : e.idle = false := by
  rcases hs with h | h <;> simp [Entry.idle, Entry.kept, h]

/-! ### The sequences of the unapplied entries -/

/-- The durable groups of a queue that are not yet home. -/
def unappliedOf (q : List Entry) : List Entry :=
  q.filter fun e => (e.state == .durable || e.state == .applying) && !e.slots.isEmpty && !e.homeDone

theorem unappliedEntries_eq (s : State) : unappliedEntries s = unappliedOf s.groups.queue := rfl

/-- Places in a list give a function of their number. -/
theorem zipIdx_forall_iff {α β : Type} {l : List α} {f : α → β} {g : Nat → β} :
    (∀ x ∈ l.zipIdx, f x.1 = g x.2) ↔ l.map f = (List.range l.length).map g := by
  constructor
  · intro h
    refine List.ext_getElem (by simp) fun i h1 h2 => ?_
    rw [List.getElem_map, List.getElem_map, List.getElem_range]
    rw [List.length_map] at h1
    exact h (l[i], i) (by simp [List.mem_zipIdx_iff_getElem?, List.getElem?_eq_getElem h1])
  · rintro h ⟨a, i⟩ hx
    have hi := List.mem_zipIdx' hx
    obtain ⟨hlt, heq⟩ := hi
    have := congrArg (fun l => l[i]?) h
    rw [heq]
    simpa [hlt] using this

/-- Consecutive sequences from `a + 1`. -/
def seqRun (a : Seq) (k : Nat) : List (Option Seq) := (List.range k).map fun i => some (a + 1 + BitVec.ofNat 48 i)

theorem seqRun_iff {a : Seq} {l : List Entry} :
    (∀ x ∈ l.zipIdx, x.1.seq = some (a + 1 + BitVec.ofNat 48 x.2)) ↔ l.map Entry.seq = seqRun a l.length :=
  zipIdx_forall_iff (f := Entry.seq) (g := fun i => some (a + 1 + BitVec.ofNat 48 i))

/-- Entries with slots go through the queue in order. -/
def queueInOrder (q : List Entry) : Prop :=
  (q.filter fun e => !e.slots.isEmpty).Pairwise fun e f => f.state.rank ≤ e.state.rank

section Laws

variable {s : State} {q' : List Entry} (hq : QueueThinned s.groups.queue q')

/-- The part with another commit queue. -/
def withQueue (s : State) (q : List Entry) : State := { s with groups := { s.groups with queue := q } }

include hq

theorem OwnerLaw.thinned (h : OwnerLaw s) : OwnerLaw (withQueue s q') := by
  obtain ⟨records, entries, owners⟩ := h
  refine ⟨records, fun e he => ?_, fun u hu => ?_⟩
  · obtain ⟨f, hf, b, a, rfl⟩ := hq.back he
    exact entries f hf
  · have owner := owners u hu
    split
    · rename_i hstate
      rwa [if_pos hstate] at owner
    · rename_i hstate
      rw [if_neg hstate] at owner
      rcases owner with ⟨st, howns⟩ | ⟨e, he, hd, howns⟩
      · exact .inl ⟨st, howns⟩
      · obtain ⟨b, a, hmem⟩ := hq.stays he (Entry.idle_eq_false_of_slots (List.ne_nil_of_mem howns.2.2) hd)
        exact .inr ⟨_, hmem, hd, howns⟩

theorem HomeLaw.thinned (h : HomeLaw s) : HomeLaw (withQueue s q') := by
  obtain ⟨h1, h2, h3, h4, h5, h6⟩ := h
  refine ⟨h1, h2, ?_, ?_, fun hm hc e he ha => ?_, fun hw e he hc v hv hstate howns => ?_⟩
  · refine h3.imp id fun ⟨e, he, hcur, ha, hs, hd⟩ => ?_
    obtain ⟨b, a, hmem⟩ := hq.stays he (Entry.idle_eq_false_of_slots hs hd)
    exact ⟨_, hmem, hcur, ha, hs, hd⟩
  · have sub := (hq.filter_sublist (P := fun e => e.state == .applying && !e.homeDone) fun _ => rfl).length_le
    rw [List.length_map, List.length_map, ← List.countP_eq_length_filter, ← List.countP_eq_length_filter] at sub
    exact sub.trans h4
  · obtain ⟨f, hf, b, a, rfl⟩ := hq.back he
    exact h5 hm hc f hf ha
  · obtain ⟨f, hf, b, a, rfl⟩ := hq.back he
    exact h6 hw f hf hc v hv hstate howns

theorem WriterLaw.thinned (h : WriterLaw s) : WriterLaw (withQueue s q') := by
  obtain ⟨h1, h2⟩ := h
  refine ⟨?_, h2⟩
  have count := hq.countP_eq (P := fun e => e.state == .journaling) (fun _ => rfl) fun e he =>
    Entry.idle_eq_false_of_state (.inr (by simpa using he))
  exact count.trans h1

theorem SpaceLaw.thinned (h : SpaceLaw s) : SpaceLaw (withQueue s q') := by
  intro hu
  obtain ⟨used, writing⟩ := h hu
  refine ⟨used, fun failed hf e he hj => ?_⟩
  obtain ⟨f, hf', b, a, rfl⟩ := hq.back he
  exact writing failed hf f hf' hj

theorem QueueThinned.unappliedOf_map :
    (unappliedOf q').map Entry.frame = (unappliedOf s.groups.queue).map Entry.frame := by
  refine hq.filter_eq (fun _ => rfl) fun e he => ?_
  simp only [Bool.and_eq_true, Bool.not_eq_true', List.isEmpty_eq_false_iff] at he
  exact Entry.idle_eq_false_of_slots he.1.2 he.2

theorem QueueThinned.inOrder (h : queueInOrder s.groups.queue) : queueInOrder q' := by
  have sub := hq.filter_sublist (P := fun e => !e.slots.isEmpty) fun _ => rfl
  have pairs : ((s.groups.queue.filter fun e => !e.slots.isEmpty).map Entry.frame).Pairwise
      fun e f => f.state.rank ≤ e.state.rank := List.pairwise_map.2 h
  exact List.pairwise_map.1 (pairs.sublist sub)

theorem SequenceLaw.thinned (h : SequenceLaw s) : SequenceLaw (withQueue s q') := by
  obtain ⟨h1, h2, h3, h4, h5, h6, h7⟩ := h
  have frames : (unappliedOf q').map Entry.frame = (unappliedOf s.groups.queue).map Entry.frame := hq.unappliedOf_map
  have length : (unappliedOf q').length = (unappliedOf s.groups.queue).length := by simpa using congrArg List.length frames
  have seqs : (unappliedOf q').map Entry.seq = (unappliedOf s.groups.queue).map Entry.seq := by
    simpa [Function.comp_def, Entry.frame] using congrArg (List.map Entry.seq) frames
  refine ⟨h1, h2, hq.inOrder h3, fun e he hj => ?_, fun e he hd => ?_, ?_, fun hu => ?_⟩
  · obtain ⟨f, hf, b, a, rfl⟩ := hq.back he
    exact h4 f hf hj
  · obtain ⟨f, hf, b, a, rfl⟩ := hq.back he
    exact h5 f hf hd
  · refine seqRun_iff.2 ?_
    rw [unappliedEntries_eq, withQueue, seqs, length]
    exact seqRun_iff.1 h6
  · rw [unappliedEntries_eq, withQueue, length]
    exact h7 hu

theorem ModeLaw.thinned (h : ModeLaw s) : ModeLaw (withQueue s q') := by
  obtain ⟨h1, h2, h3, h4, h5, h6⟩ := h
  exact ⟨h1, h2, h3, h4, h5, fun hr hp => hq.nil (h6 hr hp)⟩

theorem ContentsLaw.thinned (h : ContentsLaw s) : ContentsLaw (withQueue s q') := by
  obtain ⟨h1, h2, h3, h4, h5⟩ := h
  refine ⟨h1, fun hm ho => ?_, fun hm e he => ?_, h4, h5⟩
  · obtain ⟨slots, queue, reads⟩ := h2 hm ho
    exact ⟨slots, hq.nil queue, reads⟩
  · obtain ⟨f, hf, b, a, rfl⟩ := hq.back he
    exact h3 hm f hf

variable {n m : Nat}

/-- Entries may be answered and may leave when the counts agree. -/
theorem BufferLaws.thinned (h : BufferLaws n s) (hc : CountLaw m (withQueue s q')) : BufferLaws m (withQueue s q') :=
  ⟨h.staging.congr, h.owner.thinned hq, h.index.congr, h.claim.congr, h.pin.congr, h.home.thinned hq, hc⟩

theorem JournalLaws.thinned (h : JournalLaws s) : JournalLaws (withQueue s q') :=
  ⟨h.writer.thinned hq, h.space.thinned hq, h.sequence.thinned hq⟩

theorem ControlLaws.thinned (h : ControlLaws s) : ControlLaws (withQueue s q') :=
  ⟨h.mode.thinned hq, h.contents.thinned hq, h.target.congr⟩

theorem Laws.thinned (h : Laws n s) (hc : CountLaw m (withQueue s q')) : Laws m (withQueue s q') :=
  ⟨h.buffer.thinned hq hc, h.journal.thinned hq, h.control.thinned hq⟩

end Laws

end Sys2Proof.Machine

/-! PROOF. COMMITTED that are sent, and the laws that hold together (R16, R18). -/

namespace Sys2Proof.Machine

/-! ### COMMITTED that are sent -/

section Answer

variable {n : Nat} {s : State}

theorem SerialsDistinct.eq_of_serial (hd : SerialsDistinct s) {e f : Entry} (he : e ∈ s.groups.queue)
    (hf : f ∈ s.groups.queue) (h : f.serial = e.serial) : f = e := List.inj_on_of_nodup_map hd hf he h

theorem entryAt_spec {k : Serial} {e : Entry} (h : entryAt s k = some e) : e ∈ s.groups.queue ∧ e.serial = k :=
  ⟨List.mem_of_find?_eq_some h, by simpa using List.find?_some h⟩

theorem kept_of_answerable {e : Entry} (h : e.answerable = true) : e.kept = true ∧ e.answered = false := by
  simp only [Entry.answerable, Bool.and_eq_true, Bool.not_eq_true'] at h
  exact ⟨h.1.1, h.2⟩

theorem state_of_kept {e : Entry} (h : e.kept = true) : e.state = .durable ∨ e.state = .applying := by
  simpa [Entry.kept] using h

/-- An owed entry that leaves. -/
theorem CountLaw.removeOwed (h : CountLaw n s) {e : Entry} (he : e ∈ s.groups.queue) (ha : e.answered = false) :
    CountLaw (n + 1) (withQueue s (s.groups.queue.filter fun x => x.serial != e.serial)) := by
  obtain ⟨serials, reads, unanswered, taken, room⟩ := h
  obtain ⟨front, back, hq, hf, hb⟩ := queue_split serials he
  have removed : (s.groups.queue.filter fun x => x.serial != e.serial) = front ++ back := by
    rw [hq, List.filter_append, List.filter_cons_of_neg (by simp), filter_serial_ne hf, filter_serial_ne hb]
  refine ⟨?_, reads, fun f hmem => unanswered f (List.mem_of_mem_filter hmem), ?_, room⟩
  · exact serials.sublist (List.filter_sublist.map _)
  · change s.fabric.takenUnanswered = n + 1 + s.reads.length
      + (s.groups.queue.filter fun x => x.serial != e.serial).countP fun e => !e.answered
    rw [removed, taken, owedEntries, hq, List.countP_append, List.countP_append, List.countP_cons_of_pos (by simp [ha])]
    omega

/-- An answered entry that leaves. -/
theorem CountLaw.removeAnswered (h : CountLaw n s) {e : Entry} (he : e ∈ s.groups.queue) (ha : e.answered = true) :
    CountLaw n (withQueue s (s.groups.queue.filter fun x => x.serial != e.serial)) := by
  obtain ⟨serials, reads, unanswered, taken, room⟩ := h
  obtain ⟨front, back, hq, hf, hb⟩ := queue_split serials he
  have removed : (s.groups.queue.filter fun x => x.serial != e.serial) = front ++ back := by
    rw [hq, List.filter_append, List.filter_cons_of_neg (by simp), filter_serial_ne hf, filter_serial_ne hb]
  refine ⟨?_, reads, fun f hmem => unanswered f (List.mem_of_mem_filter hmem), ?_, room⟩
  · exact serials.sublist (List.filter_sublist.map _)
  · change s.fabric.takenUnanswered = n + s.reads.length
      + (s.groups.queue.filter fun x => x.serial != e.serial).countP fun e => !e.answered
    rw [removed, taken, owedEntries, hq, List.countP_append, List.countP_append, List.countP_cons_of_neg (by simp [ha])]

/-- An owed entry that has Answered set. -/
theorem CountLaw.markAnswered (h : CountLaw n s) {e : Entry} (he : e ∈ s.groups.queue) (ha : e.answered = false)
    (hk : e.kept = true) :
    CountLaw (n + 1) (withQueue s
      (s.groups.queue.map fun x => if x.serial = e.serial then { x with answered := true } else x)) := by
  obtain ⟨serials, reads, unanswered, taken, room⟩ := h
  obtain ⟨front, back, hq, hf, hb⟩ := queue_split serials he
  have marked : (s.groups.queue.map fun x => if x.serial = e.serial then { x with answered := true } else x)
      = front ++ { e with answered := true } :: back := by
    rw [hq, List.map_append, List.map_cons, if_pos rfl, map_serial_ne hf fun x => { x with answered := true },
      map_serial_ne hb fun x => { x with answered := true }]
  refine ⟨?_, reads, fun f hmem hstate => ?_, ?_, room⟩
  · rw [SerialsDistinct, hq] at serials
    rw [SerialsDistinct, withQueue, marked]
    simpa using serials
  · rw [withQueue, marked, List.mem_append, List.mem_cons] at hmem
    rcases hmem with hfront | rfl | hback
    · exact unanswered f (by rw [hq]; exact List.mem_append_left _ hfront) hstate
    · rcases state_of_kept hk with hst | hst <;> simp [hst] at hstate
    · exact unanswered f (by rw [hq]; simp [hback]) hstate
  · change s.fabric.takenUnanswered = n + 1 + s.reads.length + (s.groups.queue.map fun x =>
      if x.serial = e.serial then { x with answered := true } else x).countP fun e => !e.answered
    rw [marked, taken, owedEntries, hq, List.countP_append, List.countP_append, List.countP_cons_of_pos (by simp [ha]),
      List.countP_cons_of_neg (by simp)]
    omega

theorem idle_of_serial (hd : SerialsDistinct s) {e : Entry} (he : e ∈ s.groups.queue) (hi : e.idle = true) :
    ∀ f ∈ s.groups.queue, (f.serial != e.serial) = false → f.idle = true := by
  intro f hf hs
  rw [hd.eq_of_serial he hf (by simpa using hs)]
  exact hi

/-- An entry that is owed COMMITTED is answered, and then leaves or has Answered set. -/
theorem Laws.tryAnswer (h : Laws n s) (k : Serial) : Laws n (tryAnswer s k) := by
  unfold Machine.tryAnswer
  split
  · exact h
  · rename_i e he
    obtain ⟨hmem, rfl⟩ := entryAt_spec he
    split
    · rename_i ha
      obtain ⟨hk, hnot⟩ := kept_of_answerable ha
      split
      · rename_i hl
        have thin := QueueThinned.of_filter (idle_of_serial h.buffer.count.serials hmem (by rw [Entry.idle, hk, hl]; rfl))
        exact ((h.thinned thin (h.buffer.count.removeOwed hmem hnot)).answerTaken _).congr
      · have thin : QueueThinned s.groups.queue
            (s.groups.queue.map fun x => if x.serial = e.serial then { x with answered := true } else x) :=
          .of_map fun x _ => by split <;> rfl
        exact ((h.thinned thin (h.buffer.count.markAnswered hmem hnot hk)).answerTaken _).congr
    · exact h

theorem Laws.foldl {α : Type} {f : State → α → State} (hf : ∀ s a, Laws n s → Laws n (f s a)) (l : List α) (h : Laws n s) :
    Laws n (l.foldl f s) := by
  induction l generalizing s with
  | nil => exact h
  | cons a l ih => exact ih (hf s a h)

theorem Laws.answerOwed (h : Laws n s) : Laws n (answerOwed s) := .foldl (fun _ k h => h.tryAnswer k) _ h

/-- An acknowledged posted write lowers barriers, and what is then owed is answered. -/
theorem Laws.reportPosted (h : Laws n s) (p : PostedRecord) : Laws n (reportPosted s p) := by
  have frame (e : Entry) : (lowerBarrier p.stream p.serial e).frame = e.frame := by
    unfold lowerBarrier
    split <;> rfl
  have fields (e : Entry) : (lowerBarrier p.stream p.serial e).serial = e.serial
      ∧ (lowerBarrier p.stream p.serial e).answered = e.answered ∧ (lowerBarrier p.stream p.serial e).state = e.state := by
    unfold lowerBarrier
    split <;> exact ⟨rfl, rfl, rfl⟩
  refine (h.thinned (.of_map (g := lowerBarrier p.stream p.serial) fun e _ => frame e) ?_).answerOwed
  obtain ⟨serials, reads, unanswered, taken, room⟩ := h.buffer.count
  refine ⟨?_, reads, fun e he => ?_, ?_, room⟩
  · rw [SerialsDistinct, withQueue, List.map_map]
    exact (List.map_congr_left fun e _ => (fields e).1).symm ▸ serials
  · obtain ⟨f, hf, rfl⟩ := List.mem_map.1 he
    rw [(fields f).2.1, (fields f).2.2]
    exact unanswered f hf
  · rw [owedEntries, withQueue, List.countP_map]
    refine taken.trans ?_
    rw [owedEntries]
    congr 1
    exact List.countP_congr fun e _ => by simp [(fields e).2.1]

end Answer

end Sys2Proof.Machine

/-! PROOF. Entries that pass with their slots into another state, and the laws of the buffer (R14, R16, R23). -/

namespace Sys2Proof.Machine

/-! ### Entries that pass with their slots into another state -/

/-- An entry of the same group, in another state. -/
structure Entry.Later (e f : Entry) : Prop where
  stream : f.stream = e.stream
  serial : f.serial = e.serial
  slots : f.slots = e.slots
  answered : f.answered = e.answered
  homeDone : f.homeDone = e.homeDone

/-- The slots of an entry in a state. -/
def relabelled (s : State) (e : Entry) (x : QueueState) : List Slot :=
  s.staging.slots.map fun v => if v.num ∈ e.slots then { v with state := x.slotState } else v

/-- The queue with an entry in another state. -/
def requeued (s : State) (e f : Entry) : List Entry := s.groups.queue.map fun y => if y.serial = e.serial then f else y

/-- An entry passes with its slots into another state. -/
def advanced (s : State) (e f : Entry) : State :=
  { s with
    groups := { s.groups with queue := requeued s e f }
    staging := { s.staging with slots := relabelled s e f.state } }

theorem advanced_eq {s : State} (hd : SerialsDistinct s) {e : Entry} (he : e ∈ s.groups.queue) (g : Entry → Entry) :
    mapSlots (mapEntry s e.serial g) e.slots (fun v => { v with state := (g e).state.slotState }) = advanced s e (g e) := by
  have queue : (s.groups.queue.map fun y => if y.serial = e.serial then g y else y) = requeued s e (g e) := by
    refine List.map_congr_left fun y hy => ?_
    split
    · rename_i hs
      rw [hd.eq_of_serial he hy hs]
    · rfl
  rw [mapEntry, queue]
  rfl

theorem mem_requeued {s : State} {e f y : Entry} (hy : y ∈ requeued s e f) :
    y = f ∨ y ∈ s.groups.queue ∧ y.serial ≠ e.serial := by
  obtain ⟨z, hz, rfl⟩ := List.mem_map.1 hy
  split
  · exact .inl rfl
  · exact .inr ⟨hz, ‹_›⟩

theorem mem_requeued_self {s : State} {e f : Entry} (he : e ∈ s.groups.queue) : f ∈ requeued s e f :=
  List.mem_map.2 ⟨e, he, if_pos rfl⟩

theorem mem_requeued_other {s : State} {e f y : Entry} (hy : y ∈ s.groups.queue) (hs : y.serial ≠ e.serial) :
    y ∈ requeued s e f := List.mem_map.2 ⟨y, hy, if_neg hs⟩

theorem requeued_split {s : State} {e f : Entry} {front back : List Entry} (hq : s.groups.queue = front ++ e :: back)
    (hf : ∀ x ∈ front, x.serial ≠ e.serial) (hb : ∀ x ∈ back, x.serial ≠ e.serial) :
    requeued s e f = front ++ f :: back := by
  rw [requeued, hq, List.map_append, List.map_cons, if_pos rfl, map_serial_ne hf fun _ => f, map_serial_ne hb fun _ => f]

theorem slotState_ne_ended (x : QueueState) : x.slotState ≠ .spent ∧ x.slotState ≠ .aborted := by
  cases x <;> exact ⟨by decide, by decide⟩

theorem slotState_eq_applying {x : QueueState} : x.slotState = .applying ↔ x = .applying := by
  cases x <;> simp [QueueState.slotState]

section Advance

variable {s : State} {e f : Entry} (hl : e.Later f) (hs : StagingLaw s) (ho : OwnerLaw s) (he : e ∈ s.groups.queue)
  (ha : e.state ≠ .applying)

include hl hs ho he ha

theorem OwnerLaw.advanced (hd : SerialsDistinct s) : OwnerLaw (advanced s e f) := by
  have stays {v : Slot} (hv : v ∈ s.staging.slots) (hn : v.num ∉ e.slots) : v ∈ relabelled s e f.state :=
    List.mem_map.2 ⟨v, hv, if_neg hn⟩
  obtain ⟨records, entries, owners⟩ := id ho
  refine ⟨fun st => ⟨(records st).1, fun n hn => ?_⟩, fun y hy => ?_, fun u hu => ?_⟩
  · obtain ⟨v, hv, rfl, howns⟩ := (records st).2 n hn
    exact ⟨v, stays hv (ho.record_entry hs hn he ha), rfl, howns⟩
  · rcases mem_requeued hy with rfl | ⟨hy, hne⟩
    · refine ⟨hl.slots ▸ (entries e he).1, fun _ n hn => ?_⟩
      rw [hl.slots] at hn
      obtain ⟨v, hv, rfl, hown, -, hnum⟩ := (entries e he).2 ha n hn
      refine ⟨{ v with state := y.state.slotState }, List.mem_map.2 ⟨v, hv, if_pos hnum⟩, rfl, ?_, rfl, ?_⟩
      · rw [hl.stream, hl.serial]
        exact hown
      · rw [hl.slots]
        exact hnum
    · refine ⟨(entries y hy).1, fun hya n hn => ?_⟩
      obtain ⟨v, hv, rfl, howns⟩ := (entries y hy).2 hya n hn
      exact ⟨v, stays hv (ho.slots_disjoint hs hy he hya ha hne v.num hn), rfl, howns⟩
  · obtain ⟨v, hv, rfl⟩ := List.mem_map.1 hu
    split
    · rename_i hn
      obtain ⟨hown, -, hnum⟩ := ho.entryOwns hs he ha hv hn
      obtain ⟨h1, h2⟩ := slotState_ne_ended f.state
      rw [if_neg (by simp [h1, h2])]
      have owner := owners v hv
      obtain ⟨n1, n2⟩ := slotState_ne_ended e.state
      rw [if_neg (by rw [(ho.entryOwns hs he ha hv hn).2.1]; simp [n1, n2])] at owner
      refine .inr ⟨f, mem_requeued_self he, ?_, ?_, rfl, ?_⟩
      · rw [hl.homeDone]
        rcases owner with ⟨st, howns⟩ | ⟨y, hy, hyd, howns⟩
        · rw [howns.1] at hown
          cases hown
        · rw [howns.1] at hown
          have serial : y.serial = e.serial := by
            simp only [Option.some.injEq, Owner.entry.injEq] at hown
            exact hown.2
          exact hd.eq_of_serial he hy serial ▸ hyd
      · rw [hl.stream, hl.serial]
        exact hown
      · rw [hl.slots]
        exact hnum
    · rename_i hn
      have owner := owners v hv
      split
      · rename_i hstate
        rwa [if_pos hstate] at owner
      · rename_i hstate
        rw [if_neg hstate] at owner
        refine owner.imp id fun ⟨y, hy, hyd, howns⟩ => ⟨y, mem_requeued_other hy fun hserial => ?_, hyd, howns⟩
        rw [hd.eq_of_serial he hy hserial] at howns
        exact hn howns.2.2

omit hl in
theorem IndexLaw.advanced (h : IndexLaw s) : IndexLaw (advanced s e f) := by
  obtain ⟨nodup, places, listed⟩ := h
  refine ⟨nodup, fun x hx => ?_, fun u hu h1 h2 => ?_⟩
  · obtain ⟨v, hv, hnum, hline, hstate⟩ := places x hx
    by_cases hn : v.num ∈ e.slots
    · exact ⟨{ v with state := f.state.slotState }, List.mem_map.2 ⟨v, hv, if_pos hn⟩, hnum, hline,
        slotState_ne_ended f.state⟩
    · exact ⟨v, List.mem_map.2 ⟨v, hv, if_neg hn⟩, hnum, hline, hstate⟩
  · obtain ⟨v, hv, rfl⟩ := List.mem_map.1 hu
    split
    · rename_i hn
      obtain ⟨-, hstate, -⟩ := ho.entryOwns hs he ha hv hn
      obtain ⟨n1, n2⟩ := slotState_ne_ended e.state
      exact listed v hv (hstate ▸ n1) (hstate ▸ n2)
    · rename_i hn
      rw [if_neg hn] at h1 h2
      exact listed v hv h1 h2

omit hl in
theorem ClaimLaw.advanced (h : ClaimLaw s)
    (hc : f.state.slotState.claims = true → e.state.slotState.claims = true) : ClaimLaw (advanced s e f) := by
  have before {u : Slot} (hu : u ∈ relabelled s e f.state) (hclaims : u.state.claims = true) :
      ∃ v ∈ s.staging.slots, v.state.claims = true ∧ v.line = u.line ∧ v.claimant? = u.claimant? := by
    obtain ⟨v, hv, rfl⟩ := List.mem_map.1 hu
    by_cases hn : v.num ∈ e.slots
    · obtain ⟨-, hstate, -⟩ := ho.entryOwns hs he ha hv hn
      rw [if_pos hn] at hclaims ⊢
      have claims : v.state.claims = true := hstate ▸ hc hclaims
      exact ⟨v, hv, claims, rfl, by rw [Slot.claimant?, Slot.claimant?, if_pos claims, if_pos hclaims]⟩
    · rw [if_neg hn] at hclaims ⊢
      exact ⟨v, hv, hclaims, rfl, rfl⟩
  intro a ha' b hb' hca hcb hline
  obtain ⟨v, hv, hcv, hlv, hclv⟩ := before ha' hca
  obtain ⟨w, hw, hcw, hlw, hclw⟩ := before hb' hcb
  rw [← hclv, ← hclw]
  exact h v hv w hw hcv hcw (by rw [hlv, hlw, hline])

omit hl hs ho he ha in
theorem PinLaw.advanced (h : PinLaw s) : PinLaw (advanced s e f) := by
  refine ⟨fun r hr => ⟨(h.1 r hr).1, fun n hn => ?_⟩, fun u hu => ?_⟩
  · obtain ⟨v, hv, hnum⟩ := (h.1 r hr).2 n hn
    refine ⟨_, List.mem_map_of_mem hv, ?_⟩
    split <;> exact hnum
  · obtain ⟨v, hv, rfl⟩ := List.mem_map.1 hu
    split <;> exact h.2 v hv

omit hs ho ha in
theorem CountLaw.advanced {n : Nat} (h : CountLaw n s)
    (hu : f.state = .sealed ∨ f.state = .journaling → e.answered = false) : CountLaw n (advanced s e f) := by
  obtain ⟨serials, reads, unanswered, taken, room⟩ := h
  obtain ⟨front, back, hq, hf, hb⟩ := queue_split serials he
  refine ⟨?_, reads, fun y hy hy' => ?_, ?_, room⟩
  · rw [SerialsDistinct, hq] at serials
    rw [SerialsDistinct, Machine.advanced, requeued_split hq hf hb]
    simpa [hl.serial] using serials
  · rcases mem_requeued hy with rfl | ⟨hy, -⟩
    · rw [hl.answered]
      exact hu hy'
    · exact unanswered y hy hy'
  · rw [owedEntries, Machine.advanced, requeued_split hq hf hb]
    refine taken.trans ?_
    rw [owedEntries, hq]
    simp only [List.countP_append, List.countP_cons, hl.answered]

omit hl in
/-- The APPLYING slots of a group that was not APPLYING are those of other groups. -/
theorem mem_relabelled_applying (hx : f.state ≠ .applying) {u : Slot} :
    (u ∈ relabelled s e f.state ∧ u.state = .applying) ↔ u ∈ s.staging.slots ∧ u.state = .applying := by
  constructor
  · rintro ⟨hu, hstate⟩
    obtain ⟨v, hv, rfl⟩ := List.mem_map.1 hu
    by_cases hn : v.num ∈ e.slots
    · rw [if_pos hn] at hstate
      exact absurd (slotState_eq_applying.1 hstate) hx
    · rw [if_neg hn] at hstate ⊢
      exact ⟨hv, hstate⟩
  · rintro ⟨hu, hstate⟩
    refine ⟨List.mem_map.2 ⟨u, hu, if_neg fun hn => ?_⟩, hstate⟩
    obtain ⟨-, hown, -⟩ := ho.entryOwns hs he ha hu hn
    rw [hstate] at hown
    exact ha (slotState_eq_applying.1 hown.symm)

theorem HomeLaw.advanced (h : HomeLaw s) (hd : SerialsDistinct s) (hx : f.state ≠ .applying) : HomeLaw (advanced s e f) := by
  obtain ⟨h1, h2, h3, h4, h5, h6⟩ := h
  have applying {u : Slot} := mem_relabelled_applying (f := f) hs ho he ha hx (u := u)
  obtain ⟨front, back, hq, hf, hb⟩ := queue_split hd he
  refine ⟨h1, fun n hn => ?_, ?_, ?_, fun hm hc y hy hya => ?_, fun hw y hy hc v hv hstate howns => ?_⟩
  · obtain ⟨v, hv, hnum, hstate⟩ := h2 n hn
    exact ⟨v, (applying.2 ⟨hv, hstate⟩).1, hnum, hstate⟩
  · refine h3.imp id fun ⟨y, hy, hcur, hya, hrest⟩ => ⟨y, mem_requeued_other hy fun hs => ?_, hcur, hya, hrest⟩
    rw [hd.eq_of_serial he hy hs] at hya
    exact ha hya
  · refine le_trans (le_of_eq ?_) h4
    rw [Machine.advanced, requeued_split hq hf hb, hq]
    simp [hx, ha, List.countP_append]
  · rcases mem_requeued hy with rfl | ⟨hy, -⟩
    · exact absurd hya hx
    · exact h5 hm hc y hy hya
  · obtain ⟨hv, -⟩ := applying.1 ⟨hv, hstate⟩
    rcases mem_requeued hy with rfl | ⟨hy, -⟩
    · exact absurd (slotState_eq_applying.1 (howns.2.1.symm.trans hstate)) hx
    · exact h6 hw y hy hc v hv hstate howns

omit hl ho he ha in
theorem StagingLaw.advanced : StagingLaw (advanced s e f) := by
  have path : Path s (mapSlots s e.slots fun v => { v with state := f.state.slotState }) :=
    relabel_path s e.slots _ (by cases f.state <;> decide)
  exact (path.keepsStaging hs).congr

/-- A group passes on in the queue, but not to APPLYING. -/
theorem BufferLaws.advanced {n : Nat} (h : BufferLaws n s) (hx : f.state ≠ .applying)
    (hc : f.state.slotState.claims = true → e.state.slotState.claims = true)
    (hu : f.state = .sealed ∨ f.state = .journaling → e.answered = false) : BufferLaws n (advanced s e f) :=
  ⟨hs.advanced, ho.advanced hl hs he ha h.count.serials, h.index.advanced hs ho he ha,
    h.claim.advanced hs ho he ha hc, h.pin.advanced, h.home.advanced hl hs ho he ha h.count.serials hx,
    h.count.advanced hl he hu⟩

end Advance

end Sys2Proof.Machine

/-! PROOF. Requests that the laws name (R97, R104, R120, R136). -/

namespace Sys2Proof.Machine

/-! ### Requests that the laws name -/

section Hand

variable {s : State} {rs : List MediaReq}

theorem anyRequest_handOver (s : State) (rs : List MediaReq) (p : Requester → Bool) :
    anyRequest (handOver s rs) p = (anyRequest s p || rs.any fun r => p r.requester) := List.any_append

/-- None of the requests is of certain requesters. -/
def NoneOf (rs : List MediaReq) (p : Requester → Bool) : Prop := ∀ r ∈ rs, p r.requester = false

theorem anyRequest_handOver_of_none {p : Requester → Bool} (h : NoneOf rs p) :
    anyRequest (handOver s rs) p = anyRequest s p := by
  rw [anyRequest_handOver, List.any_eq_false.2 (by simpa [NoneOf] using h), Bool.or_false]

theorem homeSlots_handOver (s : State) (rs : List MediaReq) :
    homeSlots (handOver s rs) = homeSlots s ++ rs.filterMap fun r => r.requester.homeSlot? := by
  refine List.filterMap_append.trans ?_
  congr 1

theorem homeSlots_handOver_of_none (h : NoneOf rs Requester.isHomeWrite) : homeSlots (handOver s rs) = homeSlots s := by
  rw [homeSlots_handOver, List.filterMap_eq_nil_iff.2, List.append_nil]
  intro r hr
  have absent := h r hr
  unfold Requester.homeSlot?
  split
  · rename_i heq
    rw [heq] at absent
    cases absent
  · rfl

theorem HomeLaw.handOver (h : HomeLaw s) (hn : NoneOf rs Requester.isHomeWrite) : HomeLaw (handOver s rs) := by
  obtain ⟨h1, h2, h3⟩ := h
  refine ⟨?_, ?_, h3⟩
  · rw [homeSlots_handOver_of_none hn]
    exact h1
  · rw [homeSlots_handOver_of_none hn]
    exact h2

theorem ModeLaw.handOver (h : ModeLaw s) (hn : NoneOf rs Requester.isFormat) : ModeLaw (handOver s rs) := by
  obtain ⟨h1, h2, h3, h4⟩ := h
  refine ⟨h1, h2, fun ha => h3 ?_, h4⟩
  rwa [anyRequest_handOver_of_none hn] at ha

theorem TargetLaw.handOver (h : TargetLaw s) (hn : NoneOf rs Requester.isRelocLine) : TargetLaw (handOver s rs) := by
  obtain ⟨h1, h2, h3⟩ := h
  refine ⟨h1, fun ha => h2 ?_, fun hr ha => h3 hr ?_⟩ <;> rwa [anyRequest_handOver_of_none hn] at ha

theorem ContentsLaw.handOver (h : ContentsLaw s) (hf : ¬(s.modes.mode = .draining ∧ s.drain.finalRaised = true)) :
    ContentsLaw (handOver s rs) := h.requests fun hm hr => absurd ⟨hm, hr⟩ hf

theorem BufferLaws.handOver {n : Nat} (h : BufferLaws n s) (hn : NoneOf rs Requester.isHomeWrite) :
    BufferLaws n (handOver s rs) :=
  ⟨h.staging.congr, h.owner.congr, h.index.congr, h.claim.congr, h.pin.congr, h.home.handOver hn, h.count.congr⟩

/-- Without lines of a record at the port, the lines become ready while the writer is in WRITING. -/
theorem WriterLaw.handLines (h : WriterLaw s) {failed : Bool} (hw : s.journal.writer = .writing failed)
    (hn : anyRequest s (· == .commitLine) = false) (hc : NoneOf rs (· == .commitLine)) : WriterLaw (handOver s rs) := by
  obtain ⟨h1, -⟩ := h
  have none : anyRequest (Machine.handOver s rs) (· == .commitLine) = false := by rw [anyRequest_handOver_of_none hc, hn]
  refine ⟨h1, fun _ => ⟨⟨failed, hw⟩, none⟩, fun ha => ?_, ?_⟩
  · rw [none] at ha
    cases ha
  · refine le_of_eq_of_le (List.countP_eq_zero.2 fun r hr hq => ?_) (Nat.zero_le 1)
    exact absurd (List.any_eq_true.2 ⟨r, hr, hq⟩) (by rw [show (Machine.handOver s rs).media.requests.any _ = false from none]; decide)

/-- With no line of the record left, its commit line becomes ready. -/
theorem WriterLaw.handCommit (h : WriterLaw s) (hw : s.journal.writer = .writing false)
    (hn : anyRequest s (· == .commitLine) = false) (hj : anyRequest s Requester.isJournalLine = false) {r : MediaReq}
    (hr : r.requester = .commitLine) : WriterLaw (handOver s [r]) := by
  obtain ⟨h1, -⟩ := h
  refine ⟨h1, fun ha => ?_, fun _ => hw, ?_⟩
  · rw [anyRequest_handOver, hj] at ha
    simp [hr, Requester.isJournalLine] at ha
  · have none : (s.media.requests.countP fun r => r.requester == .commitLine) = 0 := by
      rw [List.countP_eq_zero]
      intro r hr
      simpa using List.any_eq_false.1 hn r hr
    rw [Machine.handOver, List.countP_append, none]
    simp [hr]

/-- With the writer IDLE no line of a record is at the port. -/
theorem WriterLaw.idle (h : WriterLaw s) (hw : ∀ failed, s.journal.writer ≠ .writing failed) :
    anyRequest s Requester.isJournalLine = false ∧ anyRequest s (· == .commitLine) = false := by
  obtain ⟨-, h2, h3, -⟩ := h
  constructor
  · cases ha : anyRequest s Requester.isJournalLine
    · rfl
    · obtain ⟨⟨failed, hf⟩, -⟩ := h2 ha
      exact absurd hf (hw failed)
  · cases ha : anyRequest s (· == .commitLine)
    · rfl
    · exact absurd (h3 ha) (hw false)

theorem lineRequests_requester {region : Region} {start i : Nat} {ls : List Line} {r : MediaReq}
    (hr : r ∈ lineRequests region start i ls) : ∃ j, r.requester = .journalLine j := by
  induction ls generalizing i with
  | nil => cases hr
  | cons l ls ih =>
    rcases List.mem_cons.1 hr with rfl | hr
    · exact ⟨i, rfl⟩
    · exact ih hr

theorem lineRequests_noneOf {region : Region} {start i : Nat} {ls : List Line} {p : Requester → Bool}
    (hp : ∀ j, p (.journalLine j) = false) : NoneOf (lineRequests region start i ls) p := by
  intro r hr
  obtain ⟨j, hj⟩ := lineRequests_requester hr
  rw [hj]
  exact hp j

/-- The writer enters WRITING: the record's lines become ready. -/
theorem Laws.enterWriting {n : Nat} {e : Entry} (h : Laws n s) (hw : s.journal.writer = .waitingSpace)
    (hfit : ∀ f ∈ s.groups.queue, f.state = .journaling →
      s.journal.used + (extentOf s f).length ≤ s.journal.region.ringLength) : Laws n (enterWriting s e) := by
  obtain ⟨lines, commit⟩ := h.journal.writer.idle (by simp [hw])
  obtain ⟨count, -⟩ := h.journal.writer
  have writer : WriterLaw (setWriter s (.writing false)) := by
    refine ⟨?_, fun ha => ?_, fun _ => rfl, ?_⟩
    · rw [hw] at count
      exact count
    · rw [show anyRequest (setWriter s (.writing false)) Requester.isJournalLine = false from lines] at ha
      cases ha
    · exact h.journal.writer.2.2.2
  have space : SpaceLaw (setWriter s (.writing false)) := fun hu => ⟨(h.journal.space hu).1, fun _ _ => hfit⟩
  refine ⟨?_, ⟨?_, ?_, ?_⟩, ⟨?_, ?_, ?_⟩⟩
  · exact BufferLaws.handOver h.buffer.congr (lineRequests_noneOf fun _ => rfl)
  · exact writer.handLines rfl commit (lineRequests_noneOf fun _ => rfl)
  · exact space.congr
  · exact h.journal.sequence.congr
  · exact ModeLaw.handOver h.control.mode.congr (lineRequests_noneOf fun _ => rfl)
  · have final : ¬(s.modes.mode = .draining ∧ s.drain.finalRaised = true) := fun ⟨hm, hf⟩ => by
      rw [(h.final hm hf).1] at hw
      cases hw
    have contents : ContentsLaw (setWriter s (.writing false)) := by
      obtain ⟨c1, c2, c3, -, c5⟩ := h.control.contents
      exact ⟨c1, c2, c3, fun hm hf => absurd ⟨hm, hf⟩ final, c5⟩
    exact contents.handOver final
  · exact TargetLaw.handOver h.control.target.congr (lineRequests_noneOf fun _ => rfl)

end Hand

end Sys2Proof.Machine

/-! PROOF. The writer's look at the SEALED entries, and the laws that hold together (R95, R96). -/

namespace Sys2Proof.Machine

/-! ### The writer's look at the SEALED entries -/

section Advance

variable {n : Nat} {s : State} {e f : Entry}

/-- An entry of the queue rules out what the laws say of an empty one. -/
theorem ControlLaws.advanced (h : ControlLaws s) (he : e ∈ s.groups.queue) (hx : f.state ≠ .sealed) :
    ControlLaws (advanced s e f) := by
  obtain ⟨⟨m1, m2, m3, m4, m5, m6⟩, ⟨c1, c2, c3, c4, c5⟩, target⟩ := h
  refine ⟨⟨m1, m2, m3, m4, m5, fun hr hp => ?_⟩, ⟨c1, fun hm ho => ?_, fun hm y hy => ?_, c4, fun hs => ?_⟩, target.congr⟩
  · rw [m6 hr hp] at he
    cases he
  · rw [(c2 hm ho).2.1] at he
    cases he
  · rcases mem_requeued hy with rfl | ⟨hy, -⟩
    · exact hx
    · exact c3 hm y hy
  · obtain ⟨slots, mode⟩ := c5 hs
    refine ⟨?_, mode⟩
    rw [Machine.advanced, relabelled, slots]
    rfl

/-- A journal is in use when there is an entry. -/
theorem ContentsLaw.inUse (h : ContentsLaw s) (he : e ∈ s.groups.queue) :
    s.modes.mode = .ready ∨ s.modes.mode = .draining ∧ s.drain.origin = some .ready := by
  by_cases hm : s.modes.mode = .ready
  · exact .inl hm
  · by_cases hd : s.modes.mode = .draining → s.drain.origin ≠ some .ready
    · rw [(h.2.1 hm hd).2.1] at he
      cases he
    · push Not at hd
      exact .inr hd

theorem oldestSealed_spec {s : State} {e : Entry} (h : oldestSealed s = some e) :
    e ∈ s.groups.queue ∧ e.state = .sealed :=
  ⟨List.mem_of_find?_eq_some h, by simpa using List.find?_some h⟩

theorem queueInOrder_append {front back : List Entry} {e : Entry} :
    queueInOrder (front ++ e :: back) ↔
      (queueInOrder front ∧ queueInOrder back
        ∧ (∀ x ∈ front, x.slots ≠ [] → ∀ y ∈ back, y.slots ≠ [] → y.state.rank ≤ x.state.rank))
      ∧ (e.slots ≠ [] → (∀ x ∈ front, x.slots ≠ [] → e.state.rank ≤ x.state.rank)
        ∧ ∀ y ∈ back, y.slots ≠ [] → y.state.rank ≤ e.state.rank) := by
  unfold queueInOrder
  by_cases hs : e.slots = []
  · have drop : ((e :: back).filter fun e => !e.slots.isEmpty) = back.filter fun e => !e.slots.isEmpty :=
      List.filter_cons_of_neg (by simp [hs])
    rw [List.filter_append, drop, List.pairwise_append]
    simp only [List.mem_filter, Bool.not_eq_true', List.isEmpty_eq_false_iff, hs, ne_eq, not_true, IsEmpty.forall_iff,
      and_true, and_imp]
  · have keep : ((e :: back).filter fun e => !e.slots.isEmpty) = e :: back.filter fun e => !e.slots.isEmpty :=
      List.filter_cons_of_pos (by simp [hs])
    rw [List.filter_append, keep, List.pairwise_append, List.pairwise_cons]
    simp only [List.mem_filter, Bool.not_eq_true', List.isEmpty_eq_false_iff, hs, ne_eq, not_false_eq_true, forall_const,
      List.mem_cons, forall_eq_or_imp, and_imp]
    exact ⟨fun ⟨a, ⟨b, c⟩, d⟩ => ⟨⟨a, c, fun x hx hne => (d x hx hne).2⟩, fun x hx hne => (d x hx hne).1, b⟩,
      fun ⟨⟨a, c, d⟩, b, g⟩ => ⟨a, ⟨g, c⟩, fun x hx hne => ⟨b x hx hne, d x hx hne⟩⟩⟩

theorem distinct_split (hd : SerialsDistinct s) {front back : List Entry} (hq : s.groups.queue = front ++ e :: back) :
    (∀ x ∈ front, x.serial ≠ e.serial) ∧ ∀ x ∈ back, x.serial ≠ e.serial := by
  rw [SerialsDistinct, hq, List.map_append, List.map_cons, List.nodup_append, List.nodup_cons] at hd
  obtain ⟨-, ⟨hself, -⟩, hcross⟩ := hd
  exact ⟨fun x hx => hcross _ (List.mem_map_of_mem hx) _ (List.mem_cons_self ..),
    fun x hx hs => hself (hs ▸ List.mem_map_of_mem hx)⟩

/-- An empty commit passes the journal stage at once. -/
theorem Laws.passEmpty (h : Laws n s) (he : e ∈ s.groups.queue) (hx : e.state = .sealed) (hs : e.slots = []) :
    Laws n (advanced s e { e with state := .durable }) := by
  have later : e.Later { e with state := .durable } := ⟨rfl, rfl, rfl, rfl, rfl⟩
  obtain ⟨front, back, hq, hf, hb⟩ := queue_split h.buffer.count.serials he
  have queue : (Machine.advanced s e { e with state := .durable }).groups.queue = front ++ { e with state := .durable } :: back :=
    requeued_split hq hf hb
  refine ⟨h.buffer.advanced later h.buffer.staging h.buffer.owner he (by simp [hx]) (by simp)
    (by simp [QueueState.slotState, SlotState.claims]) (by simp), ?_, h.control.advanced he (by simp)⟩
  obtain ⟨writer, space, s1, s2, s3, s4, s5, s6, s7⟩ := h.journal
  have unapplied : unappliedEntries (Machine.advanced s e { e with state := .durable }) = unappliedEntries s := by
    rw [unappliedEntries, unappliedEntries, queue, hq]
    simp [hs, hx]
  refine ⟨⟨?_, writer.2⟩, fun hu => ⟨(space hu).1, fun failed hfail y hy hj => ?_⟩, s1, s2, ?_, fun y hy hj => ?_,
    fun y hy hd => ?_, ?_, fun hu => ?_⟩
  · refine Eq.trans ?_ writer.1
    rw [queue, hq]
    simp [List.countP_append, hx]
  · rcases mem_requeued hy with rfl | ⟨hy, -⟩
    · cases hj
    · exact (space hu).2 failed hfail y hy hj
  · have order := (queueInOrder_append (front := front)).1 (hq ▸ s3)
    rw [queue]
    exact queueInOrder_append.2 ⟨order.1, fun hne => absurd hs hne⟩
  · rcases mem_requeued hy with rfl | ⟨hy, -⟩
    · cases hj
    · exact s4 y hy hj
  · rcases mem_requeued hy with rfl | ⟨hy, -⟩
    · have := s5 e he hd
      rw [hx] at this
      cases this
    · exact s5 y hy hd
  · rw [unapplied]
    exact s6
  · rw [unapplied]
    exact s7 hu

/-- The writer begins a group: its entry is the oldest SEALED one, and no other is JOURNALING. -/
theorem Laws.beginWaiting (h : Laws n s) (hw : s.journal.writer = .idle) (he : oldestSealed s = some e) (hs : e.slots ≠ []) :
    Laws n (setWriter (advanced s e (begunEntry s e)) .waitingSpace) := by
  obtain ⟨hmem, hx⟩ := oldestSealed_spec he
  have later : e.Later (begunEntry s e) := ⟨rfl, rfl, rfl, rfl, rfl⟩
  obtain ⟨front, back, hq, hold, -⟩ := oldestSealed_split he
  obtain ⟨hf, hb⟩ := distinct_split h.buffer.count.serials hq
  have queue : (advanced s e (begunEntry s e)).groups.queue = front ++ begunEntry s e :: back := requeued_split hq hf hb
  have buffer : BufferLaws n (advanced s e (begunEntry s e)) :=
    h.buffer.advanced later h.buffer.staging h.buffer.owner hmem (by simp [hx]) (by simp [begunEntry])
      (fun _ => by rw [hx]; rfl) fun _ => h.buffer.count.unanswered e hmem (.inl hx)
  have control : ControlLaws (advanced s e (begunEntry s e)) := h.control.advanced hmem (by simp [begunEntry])
  have final : ¬(s.modes.mode = .draining ∧ s.drain.finalRaised = true) := fun ⟨hm, _⟩ =>
    h.control.contents.2.2.1 hm e hmem hx
  obtain ⟨writer, space, s1, s2, s3, s4, s5, s6, s7⟩ := h.journal
  obtain ⟨lines, commit⟩ := writer.idle (by simp [hw])
  have unapplied : unappliedEntries (advanced s e (begunEntry s e)) = unappliedEntries s := by
    rw [unappliedEntries, unappliedEntries, queue, hq]
    simp [begunEntry, hx]
  refine ⟨buffer.congr, ⟨⟨?_, fun ha => ?_, fun ha => ?_, writer.2.2.2⟩, fun hu => ⟨(space hu).1, fun _ hfail => ?_⟩,
    s1, s2, ?_, fun y hy hj => ?_, fun y hy hd => ?_, ?_, fun hu => ?_⟩, control.mode.congr, ?_, control.target.congr⟩
  · have count := writer.1
    rw [if_pos hw, hq, List.countP_append, List.countP_cons_of_neg (by simp [hx])] at count
    rw [if_neg (by exact fun h => by cases h)]
    change (advanced s e (begunEntry s e)).groups.queue.countP _ = 1
    rw [queue, List.countP_append, List.countP_cons_of_pos (by simp [begunEntry])]
    omega
  · have : anyRequest s Requester.isJournalLine = true := ha
    rw [lines] at this
    cases this
  · have : anyRequest s (· == .commitLine) = true := ha
    rw [commit] at this
    cases this
  · cases hfail
  · have order := (queueInOrder_append (front := front)).1 (hq ▸ s3)
    change queueInOrder (advanced s e (begunEntry s e)).groups.queue
    rw [queue]
    refine queueInOrder_append.2 ⟨order.1, fun _ => ⟨fun x hx' hne => ?_, fun y hy hne => ?_⟩⟩
    · have := hold x hx'
      cases hstate : x.state <;> simp_all [begunEntry, QueueState.rank]
    · have := (order.2 hs).2 y hy hne
      rw [hx] at this
      exact this.trans (Nat.zero_le 1)
  · rcases mem_requeued hy with rfl | ⟨hy, -⟩
    · exact ⟨hs, rfl⟩
    · exact s4 y hy hj
  · rcases mem_requeued hy with rfl | ⟨hy, -⟩
    · have := s5 e hmem hd
      rw [hx] at this
      cases this
    · exact s5 y hy hd
  · change ∀ x ∈ (unappliedEntries (advanced s e (begunEntry s e))).zipIdx, _
    rw [unapplied]
    exact s6
  · change _ = _ + BitVec.ofNat 48 (unappliedEntries (advanced s e (begunEntry s e))).length
    rw [unapplied]
    exact s7 hu
  · obtain ⟨c1, c2, c3, -, c5⟩ := control.contents
    exact ⟨c1, c2, c3, fun hm hr => absurd ⟨hm, hr⟩ final, c5⟩

/-- The writer begins a group (R95, R96). -/
theorem Laws.beginJournal (h : Laws n s) (hw : s.journal.writer = .idle) (he : oldestSealed s = some e) (hs : e.slots ≠ []) :
    Laws n (beginJournal s e) := by
  obtain ⟨hmem, hx⟩ := oldestSealed_spec he
  have waiting := h.beginWaiting hw he hs
  have eq : mapSlots (mapEntry s e.serial (begunEntry s)) e.slots (fun v => { v with state := .journaling })
      = advanced s e (begunEntry s e) := advanced_eq h.buffer.count.serials hmem (begunEntry s)
  rw [Machine.beginJournal, eq]
  split
  · rename_i hfit
    rw [fits, decide_eq_true_eq] at hfit
    have used := (waiting.journal.space (h.control.contents.inUse hmem |>.elim .inl fun h => .inr (.inl h))).1
    refine waiting.enterWriting rfl fun f hf hj => ?_
    rcases mem_requeued hf with rfl | ⟨hf, -⟩
    · change s.journal.used ≤ s.journal.region.ringLength at used
      change recordLength e.slots.length ≤ s.journal.region.ringLength - s.journal.used at hfit
      change s.journal.used + recordLength e.slots.length ≤ s.journal.region.ringLength
      omega
    · have count := h.journal.writer.1
      rw [if_pos hw, List.countP_eq_zero] at count
      exact absurd (by simpa using hj) (count f hf)
  · have low : Laws n (setFlag (setWriter (advanced s e (begunEntry s e)) .waitingSpace) .journalLow) := waiting.congr
    dsimp only
    split
    · exact low.raiseTrigger
    · exact low

theorem mapSlots_nil (s : State) (f : Slot → Slot) : mapSlots s [] f = s := by simp [mapSlots]

/-- The idle writer looks at the SEALED entries (R12, R95). -/
theorem Laws.writerLooks (k : Nat) (h : Laws n s) : Laws n (writerLooks k s) := by
  induction k generalizing s with
  | zero => exact h
  | succ k ih =>
    rw [Machine.writerLooks]
    split
    · rename_i hready
      split
      · exact h
      · rename_i e he
        obtain ⟨hmem, hx⟩ := oldestSealed_spec he
        split
        · rename_i hs
          rw [List.isEmpty_iff] at hs
          have eq : mapEntry s e.serial (fun e => { e with state := .durable }) = advanced s e { e with state := .durable } := by
            rw [← advanced_eq h.buffer.count.serials hmem fun e => { e with state := .durable }, hs, mapSlots_nil]
          rw [eq]
          exact ih ((h.passEmpty hmem hx hs).tryAnswer _)
        · rename_i hs
          exact h.beginJournal hready.2 he (by simpa using hs)
    · exact h

theorem Laws.writerLook (h : Laws n s) : Laws n (writerLook s) := h.writerLooks _

theorem eq_of_countP_le_one {α : Type} {l : List α} {p : α → Bool} (h : l.countP p ≤ 1) {a b : α} (ha : a ∈ l)
    (hb : b ∈ l) (hpa : p a = true) (hpb : p b = true) : a = b := by
  obtain ⟨front, back, rfl⟩ := List.append_of_mem ha
  rw [List.countP_append, List.countP_cons_of_pos hpa] at h
  rw [List.mem_append, List.mem_cons] at hb
  rcases hb with hb | rfl | hb
  · have := List.countP_pos_iff.2 ⟨b, hb, hpb⟩
    omega
  · rfl
  · have := List.countP_pos_iff.2 ⟨b, hb, hpb⟩
    omega

/-- One entry at most is JOURNALING (R94). -/
theorem WriterLaw.journaling_unique (h : WriterLaw s) (he : e ∈ s.groups.queue) (hf : f ∈ s.groups.queue)
    (hej : e.state = .journaling) (hfj : f.state = .journaling) : e = f := by
  refine eq_of_countP_le_one (p := fun e => e.state == .journaling) ?_ he hf (by simp [hej]) (by simp [hfj])
  rw [h.1]
  split <;> decide

/-- A writer in WAITING_SPACE makes its space check again (R96). -/
theorem Laws.recheckSpace (h : Laws n s) : Laws n (recheckSpace s) := by
  unfold Machine.recheckSpace
  split
  · rename_i hw
    split
    · exact h
    · rename_i e he
      split
      · rename_i hfit
        obtain ⟨hmem, hj⟩ : e ∈ s.groups.queue ∧ e.state = .journaling :=
          ⟨List.mem_of_find?_eq_some he, by simpa using List.find?_some he⟩
        have used := (h.journal.space (h.control.contents.inUse hmem |>.elim .inl fun h => .inr (.inl h))).1
        rw [fits, decide_eq_true_eq] at hfit
        refine h.enterWriting hw fun f hf hfj => ?_
        obtain rfl := h.journal.writer.journaling_unique hmem hf hj hfj
        omega
      · exact h
  · exact h

end Advance

end Sys2Proof.Machine

/-! PROOF. The engine begins a group, and the laws that hold together (R104, R105). -/

namespace Sys2Proof.Machine

/-! ### The engine begins a group -/

section Apply

variable {n : Nat} {s : State} {e : Entry}

theorem slotAt_spec {s : State} {m : Nat} {v : Slot} (h : slotAt s m = some v) : v ∈ s.staging.slots ∧ v.num = m :=
  ⟨List.mem_of_find?_eq_some h, by simpa using List.find?_some h⟩

/-- The home writes that the engine hands over are for slots of its entry. -/
theorem homeSlots_of_writes {t : State} {ns : List Nat} :
    ((ns.filterMap fun m => (slotAt t m).map homeWriteRequest).filterMap fun r => r.requester.homeSlot?)
      = ns.filter fun m => (slotAt t m).isSome := by
  rw [List.filterMap_filterMap, ← List.filterMap_eq_filter]
  refine List.filterMap_congr fun m _ => ?_
  cases hv : slotAt t m with
  | none => simp [Option.guard, hv]
  | some v =>
    have := (slotAt_spec hv).2
    simp [homeWriteRequest, writeRequest, Requester.homeSlot?, Option.guard, hv, this]

theorem homeWrites_noneOf {t : State} {ns : List Nat} {p : Requester → Bool} (hp : ∀ m, p (.homeWrite m) = false) :
    NoneOf (ns.filterMap fun m => (slotAt t m).map homeWriteRequest) p := by
  intro r hr
  obtain ⟨m, -, hm⟩ := List.mem_filterMap.1 hr
  obtain ⟨v, -, rfl⟩ := Option.map_eq_some_iff.1 hm
  exact hp v.num

theorem NoneOf.countP_eq_zero {rs : List MediaReq} {p : Requester → Bool} (h : NoneOf rs p) :
    (rs.countP fun r => p r.requester) = 0 := List.countP_eq_zero.2 fun r hr => by simp [h r hr]

/-- An APPLYING slot belongs to an entry that is APPLYING with home writes to come. -/
theorem OwnerLaw.applyingOwner (h : OwnerLaw s) {v : Slot} (hv : v ∈ s.staging.slots) (hx : v.state = .applying) :
    ∃ e ∈ s.groups.queue, e.state = .applying ∧ e.homeDone = false ∧ e.owns v := by
  have owner := h.2.2 v hv
  rw [if_neg (by simp [hx])] at owner
  rcases owner with ⟨st, -, hstate, -⟩ | ⟨e, he, hd, howns⟩
  · rw [hx] at hstate
    cases hstate
  · exact ⟨e, he, slotState_eq_applying.1 (howns.2.1.symm.trans hx), hd, howns⟩

/-- With the engine IDLE in READY no home write is at the port. -/
theorem HomeLaw.idle (h : HomeLaw s) (ho : OwnerLaw s) (hm : s.modes.mode = .ready) (hc : s.apply.current = none) :
    homeSlots s = [] := by
  obtain ⟨-, h2, -, -, h5, -⟩ := h
  rw [List.eq_nil_iff_forall_not_mem]
  intro m hmem
  obtain ⟨v, hv, -, hx⟩ := h2 m hmem
  obtain ⟨e, he, hea, hd, -⟩ := ho.applyingOwner hv hx
  rw [h5 hm hc e he hea] at hd
  cases hd

theorem oldestDurable_spec {s : State} {e : Entry} (h : oldestDurable s = some e) :
    ∃ front back, s.groups.queue = front ++ e :: back ∧ (∀ x ∈ front, x.slots ≠ [] → x.state ≠ .durable)
      ∧ e.state = .durable ∧ e.slots ≠ [] := by
  obtain ⟨hp, front, back, hq, hf⟩ := List.find?_eq_some_iff_append.1 h
  simp only [Bool.and_eq_true, beq_iff_eq, Bool.not_eq_true', List.isEmpty_eq_false_iff] at hp
  exact ⟨front, back, hq, fun x hx hne hs => by simpa [hne, hs] using hf x hx, hp⟩

/-- The part in which the engine has begun a group, before its home writes become ready. -/
def applyBegun (s : State) (e : Entry) : State :=
  { advanced s e { e with state := .applying } with
    apply := { current := some e.serial, outstanding := e.slots, withdrawn := false } }

/-- The engine begins the oldest DURABLE group (R104, R105). -/
theorem Laws.beginApply (h : Laws n s) (hm : s.modes.mode = .ready) (hc : s.apply.current = none)
    (he : oldestDurable s = some e) : Laws n (beginApply s e) := by
  obtain ⟨front, back, hq, hold, hx, hs⟩ := oldestDurable_spec he
  have hmem : e ∈ s.groups.queue := by rw [hq]; simp
  have later : e.Later { e with state := .applying } := ⟨rfl, rfl, rfl, rfl, rfl⟩
  have hne : e.state ≠ .applying := by simp [hx]
  obtain ⟨hf, hb⟩ := distinct_split h.buffer.count.serials hq
  have queue : (applyBegun s e).groups.queue = front ++ { e with state := .applying } :: back := requeued_split hq hf hb
  have eq : Machine.beginApply s e = Machine.handOver (applyBegun s e)
      (e.slots.filterMap fun m => (slotAt (advanced s e { e with state := .applying }) m).map homeWriteRequest) := by
    have moved : mapSlots (mapEntry s e.serial fun e => { e with state := .applying }) e.slots
        (fun v => { v with state := .applying }) = advanced s e { e with state := .applying } :=
      advanced_eq h.buffer.count.serials hmem fun e => { e with state := .applying }
    unfold Machine.beginApply
    rw [moved]
    rfl
  rw [eq]
  obtain ⟨staging, owner, index, claim, pin, home, count⟩ := h.buffer
  obtain ⟨writer, space, s1, s2, s3, s4, s5, s6, s7⟩ := h.journal
  have hdone : e.homeDone = false := by
    cases hd : e.homeDone
    · rfl
    · exact absurd (s5 e hmem hd) hne
  have control := h.control.advanced hmem (f := { e with state := .applying }) (by simp)
  have seqs : (unappliedEntries (applyBegun s e)).map Entry.seq = (unappliedEntries s).map Entry.seq := by
    rw [unappliedEntries, unappliedEntries, queue, hq]
    simp [hs, hx, hdone]
  have length : (unappliedEntries (applyBegun s e)).length = (unappliedEntries s).length := by
    simpa using congrArg List.length seqs
  have journal : JournalLaws (applyBegun s e) := by
    refine ⟨⟨?_, writer.2⟩, fun hu => ⟨(space hu).1, fun failed hfail y hy hj => ?_⟩, s1, s2, ?_, fun y hy hj => ?_,
      fun y hy hd => ?_, ?_, fun hu => ?_⟩
    · refine Eq.trans ?_ writer.1
      rw [queue, hq]
      simp [List.countP_append, hx]
    · rcases mem_requeued hy with rfl | ⟨hy, -⟩
      · cases hj
      · exact (space hu).2 failed hfail y hy hj
    · have order := (queueInOrder_append (front := front)).1 (hq ▸ s3)
      change queueInOrder (applyBegun s e).groups.queue
      rw [queue]
      refine queueInOrder_append.2 ⟨order.1, fun _ => ⟨fun x hx' hxs => ?_, fun y hy hys => ?_⟩⟩
      · have after := (order.2 hs).1 x hx' hxs
        have other := hold x hx' hxs
        rw [hx] at after
        cases hstate : x.state <;> simp_all [QueueState.rank]
      · have := (order.2 hs).2 y hy hys
        rw [hx] at this
        exact this.trans (Nat.le_succ 2)
    · rcases mem_requeued hy with rfl | ⟨hy, -⟩
      · cases hj
      · exact s4 y hy hj
    · rcases mem_requeued hy with rfl | ⟨hy, -⟩
      · rfl
      · exact s5 y hy hd
    · refine seqRun_iff.2 ?_
      rw [seqs, length]
      exact seqRun_iff.1 s6
    · rw [length]
      exact s7 hu
  have homeLaw : HomeLaw (Machine.handOver (applyBegun s e)
      (e.slots.filterMap fun m => (slotAt (advanced s e { e with state := .applying }) m).map homeWriteRequest)) := by
    have slots : homeSlots (Machine.handOver (applyBegun s e)
        (e.slots.filterMap fun m => (slotAt (advanced s e { e with state := .applying }) m).map homeWriteRequest))
        = e.slots.filter fun m => (slotAt (advanced s e { e with state := .applying }) m).isSome := by
      rw [homeSlots_handOver, homeSlots_of_writes, show homeSlots (applyBegun s e) = homeSlots s from rfl,
        home.idle owner hm hc, List.nil_append]
    refine ⟨?_, fun m hmem' => ?_, .inr ⟨_, mem_requeued_self hmem, rfl, rfl, hs, hdone⟩, ?_, fun _ hnone => ?_,
      fun _ y hy hcur v hv hstate howns => ?_⟩
    · rw [slots]
      exact (owner.2.1 e hmem).1.filter _
    · rw [slots, List.mem_filter, Option.isSome_iff_exists] at hmem'
      obtain ⟨hme, v, hv⟩ := hmem'
      obtain ⟨hvs, hnum⟩ := slotAt_spec hv
      refine ⟨v, hvs, hnum, ?_⟩
      obtain ⟨w, -, rfl⟩ := List.mem_map.1 hvs
      by_cases hw : w.num ∈ e.slots
      · rw [if_pos hw]
        rfl
      · rw [if_neg hw] at hnum
        exact absurd (hnum ▸ hme) hw
    · have zero : (s.groups.queue.countP fun e => e.state == .applying && !e.homeDone) = 0 := by
        rw [List.countP_eq_zero]
        intro y hy hP
        simp only [Bool.and_eq_true, beq_iff_eq, Bool.not_eq_true'] at hP
        rw [home.2.2.2.2.1 hm hc y hy hP.1] at hP
        cases hP.2
      rw [hq, List.countP_append, List.countP_cons_of_neg (by simp [hx])] at zero
      change (applyBegun s e).groups.queue.countP _ ≤ 1
      rw [queue, List.countP_append, List.countP_cons_of_pos (by simp [hdone])]
      omega
    · cases hnone
    · rcases mem_requeued hy with rfl | ⟨-, hne'⟩
      · exact howns.2.2
      · exact absurd (Option.some.inj hcur).symm hne'
  refine ⟨⟨staging.advanced.congr, (owner.advanced later staging hmem hne count.serials).congr,
    (index.advanced staging owner hmem hne).congr, ?_, pin.advanced.congr, homeLaw,
    (count.advanced later hmem (by simp)).congr⟩, ⟨?_, journal.space.congr, journal.sequence.congr⟩, ⟨?_, ?_, ?_⟩⟩
  · exact (claim.advanced (f := { e with state := .applying }) staging owner hmem hne fun hcl => by cases hcl).congr
  · obtain ⟨w1, w2, w3, w4⟩ := journal.writer
    have none {p : Requester → Bool} (hp : ∀ m, p (.homeWrite m) = false) := anyRequest_handOver_of_none
      (s := applyBegun s e) (homeWrites_noneOf (t := advanced s e { e with state := .applying }) (ns := e.slots) hp)
    refine ⟨w1, ?_, ?_, ?_⟩
    · rw [none fun _ => rfl, none fun _ => rfl]
      exact w2
    · rw [none fun _ => rfl]
      exact w3
    · rw [Machine.handOver, List.countP_append, (homeWrites_noneOf fun _ => rfl).countP_eq_zero (p := (· == .commitLine))]
      exact w4
  · obtain ⟨m1, m2, m3, -, m5⟩ := control.mode
    have mode : ModeLaw (applyBegun s e) := ⟨m1, m2, m3, fun hw => (by cases hw), m5⟩
    exact mode.handOver (homeWrites_noneOf fun _ => rfl)
  · refine ContentsLaw.handOver control.contents.congr fun ⟨hd, _⟩ => ?_
    rw [show (applyBegun s e).modes.mode = .ready from hm] at hd
    cases hd
  · exact TargetLaw.handOver control.target.congr (homeWrites_noneOf fun _ => rfl)

/-- The idle engine looks for a group (R104). -/
theorem Laws.applyLook (h : Laws n s) : Laws n (applyLook s) := by
  unfold Machine.applyLook
  split
  · rename_i hidle
    split
    · exact h
    · rename_i e he
      exact h.beginApply hidle.1 hidle.2 he
  · exact h

end Apply

end Sys2Proof.Machine

/-! PROOF. Records whose versions end and writes that are staged, and the laws of the buffer (R1, R3, R21). -/

namespace Sys2Proof.Machine

/-! ### Records whose versions end -/

section Ends

variable {n : Nat} {s t : State} {ns : List Nat} {x : SlotState}

theorem HomeLaw.versionsEnd (h : HomeLaw s) (hx : x = .spent ∨ x = .aborted)
    (hslots : t.staging.slots = s.staging.slots.filterMap (endSlot ns x)) (hout : ∀ m ∈ homeSlots s, m ∉ ns)
    (hq : t.groups.queue.Sublist s.groups.queue) (hk : ∀ e ∈ s.groups.queue, e.state = .applying → e ∈ t.groups.queue)
    (hr : t.media.requests = s.media.requests := by rfl) (ha : t.apply = s.apply := by rfl)
    (hm : t.modes.mode = s.modes.mode := by rfl) : HomeLaw t := by
  obtain ⟨h1, h2, h3, h4, h5, h6⟩ := h
  have homes : homeSlots t = homeSlots s := by rw [homeSlots, hr, homeSlots]
  refine ⟨homes ▸ h1, fun m hmem => ?_, ?_, (hq.countP_le).trans h4, fun hready hc e he hea => ?_, fun hw e he hc u hu hstate howns => ?_⟩
  · rw [homes] at hmem
    obtain ⟨v, hv, rfl, hstate⟩ := h2 m hmem
    exact ⟨v, hslots ▸ mem_endSlot_iff.2 (.inl ⟨hv, hout _ hmem⟩), rfl, hstate⟩
  · rw [ha]
    exact h3.imp id fun ⟨e, he, hcur, hea, hrest⟩ => ⟨e, hk e he hea, hcur, hea, hrest⟩
  · rw [hm] at hready
    rw [ha] at hc
    exact h5 hready hc e (hq.subset he) hea
  · rw [ha] at hw hc ⊢
    rw [hslots, mem_endSlot_iff] at hu
    rcases hu with ⟨hu, -⟩ | ⟨v, -, -, -, rfl⟩
    · exact h6 hw e (hq.subset he) hc u hu hstate howns
    · rcases hx with rfl | rfl <;> cases hstate

theorem StagingLaw.versionsEnd (h : StagingLaw s) (hx : x = .spent ∨ x = .aborted)
    (hslots : t.staging.slots = s.staging.slots.filterMap (endSlot ns x)) : StagingLaw t := by
  have path := endVersions_path (Work.start s) ns x (by rcases hx with rfl | rfl <;> decide)
  exact (path.keepsStaging h).congr hslots

/-- No home write is for an OPEN slot. -/
theorem BufferLaws.homeSlots_record (h : BufferLaws n s) (st : Stream) : ∀ m ∈ homeSlots s, m ∉ (recordOf s st).slots := by
  intro m hm hmem
  obtain ⟨v, hv, rfl, hx⟩ := h.home.2.1 m hm
  obtain ⟨-, hstate, -⟩ := h.owner.recordOwns h.staging hv hmem
  rw [hx] at hstate
  cases hstate

/-- A group record ends with its versions. -/
theorem BufferLaws.endRecord (h : BufferLaws n s) (st : Stream) {r : GroupRecord} (hr : r.slots = []) :
    BufferLaws n (setRecord (abortQuietly s (recordOf s st).slots) st r) := by
  have groups : GroupsEnd s (setRecord (abortQuietly s (recordOf s st).slots) st r) (recordOf s st).slots := by
    refine ⟨fun y => ?_, fun e he => ⟨he, fun ha m hm hm' => h.owner.record_entry h.staging hm' he ha hm⟩, fun e he => .inl he⟩
    rw [recordOf_setRecord]
    split
    · rename_i heq
      exact .inr ⟨hr, fun m hm => heq ▸ hm⟩
    · rename_i hne
      exact .inl ⟨rfl, fun m hm hm' => hne (h.owner.record_inj h.staging hm' hm)⟩
  exact ⟨h.staging.versionsEnd (.inr rfl) rfl, h.owner.versionsEnd (.inr rfl) rfl groups,
    h.index.versionsEnd (.inr rfl) rfl rfl, h.claim.versionsEnd (.inr rfl) rfl, h.pin.versionsEnd rfl rfl,
    h.home.versionsEnd (.inr rfl) rfl (h.homeSlots_record st) (.refl _) fun _ he _ => he, h.count.congr⟩

theorem BufferLaws.doom {w : Work} (h : BufferLaws n w.s) (st : Stream) (reason : DoomReason) : BufferLaws n (doom w st reason).s := by
  unfold Machine.doom
  split
  · exact h
  · rename_i hr
    have ended := h.endRecord st (r := .doomed reason) rfl
    rw [hr, GroupRecord.slots, abortQuietly, endVersions_nil] at ended
    exact ended.congr
  · rename_i slots old hr
    have ended := h.endRecord st (r := .doomed reason) rfl
    rw [hr, GroupRecord.slots] at ended
    exact ended.congr

end Ends

/-! ### Writes that are staged -/

section Stage

variable {n : Nat} {s : State} {h : HeldWrite}

theorem HomeLaw.slots {t : State} (k : HomeLaw s) (ho : ∀ v ∈ s.staging.slots, v.state = .applying → v ∈ t.staging.slots)
    (hn : ∀ u ∈ t.staging.slots, u.state = .applying → u ∈ s.staging.slots)
    (hq : t.groups.queue = s.groups.queue := by rfl)
    (hr : t.media.requests = s.media.requests := by rfl) (ha : t.apply = s.apply := by rfl)
    (hm : t.modes.mode = s.modes.mode := by rfl) : HomeLaw t := by
  obtain ⟨h1, h2, h3, h4, h5, h6⟩ := k
  have homes : homeSlots t = homeSlots s := by rw [homeSlots, hr, homeSlots]
  refine ⟨homes ▸ h1, fun m hmem => ?_, by rwa [ha, hq], by rwa [hq], by rwa [hm, ha, hq], ?_⟩
  · obtain ⟨v, hv, hnum, hstate⟩ := h2 m (homes ▸ hmem)
    exact ⟨v, ho v hv hstate, hnum, hstate⟩
  · rw [ha, hq]
    exact fun hw e he hc u hu hstate howns => h6 hw e he hc u (hn u hu hstate) hstate howns

/-- With the same slot lists in the records, the owners are the same. -/
theorem OwnerLaw.records {t : State} (k : OwnerLaw s) (hr : ∀ st, (recordOf t st).slots = (recordOf s st).slots)
    (hq : t.groups.queue = s.groups.queue := by rfl) (hs : t.staging.slots = s.staging.slots := by rfl) : OwnerLaw t := by
  obtain ⟨records, entries, owners⟩ := k
  refine ⟨fun st => ?_, by rwa [hq, hs], fun v hv => ?_⟩
  · rw [hr st, hs]
    exact ⟨(records st).1, fun m hm => ((records st).2 m hm).imp fun v ⟨hv, hnum, howns⟩ => ⟨hv, hnum, howns.congr (hr st)⟩⟩
  · rw [hs] at hv
    rw [hq]
    have owner := owners v hv
    split
    · rwa [if_pos ‹_›] at owner
    · rw [if_neg ‹_›] at owner
      exact owner.imp (fun ⟨st, howns⟩ => ⟨st, howns.congr (hr st)⟩) id

theorem restarted_slots (s : State) (slots : List Nat) (r : GroupRecord) : (restarted s slots r).slots = slots := by
  cases r <;> rfl

theorem BufferLaws.restartIdle (k : BufferLaws n s) (st : Stream) : BufferLaws n (restartIdle s st) := by
  have owner : OwnerLaw (Machine.restartIdle s st) := by
    refine k.owner.records fun y => ?_
    rw [Machine.restartIdle, recordOf_setRecord]
    split
    · rename_i heq
      rw [restarted_slots, heq]
    · rfl
  exact ⟨k.staging.congr, owner, k.index.congr, k.claim.congr, k.pin.congr, k.home.congr, k.count.congr⟩

/-- The same version of a line, but for its bytes and its pins. -/
structure Slot.Same (u v : Slot) : Prop where
  num : u.num = v.num
  state : u.state = v.state
  line : u.line = v.line
  owner : u.owner = v.owner

/-- A version that has not ended. -/
def Slot.Stands (v : Slot) : Prop := v.state ≠ .spent ∧ v.state ≠ .aborted

/-- A change of the slots in bytes and pins, in which slots of versions that have ended may become FREE. -/
structure Refits (s t : State) : Prop where
  back : ∀ u ∈ t.staging.slots, ∃ v ∈ s.staging.slots, u.Same v
  forth : ∀ v ∈ s.staging.slots, v.Stands → ∃ u ∈ t.staging.slots, u.Same v

section Refit

variable {t : State} (r : Refits s t)

include r

theorem OwnerLaw.refit (k : OwnerLaw s) (hg : t.groups = s.groups := by rfl) : OwnerLaw t := by
  obtain ⟨records, entries, owners⟩ := k
  have record (st : Stream) : recordOf t st = recordOf s st := by rw [recordOf, hg, recordOf]
  refine ⟨fun st => ?_, fun e he => ?_, fun u hu => ?_⟩
  · rw [record]
    refine ⟨(records st).1, fun m hm => ?_⟩
    obtain ⟨v, hv, rfl, h1, h2, h3⟩ := (records st).2 m hm
    obtain ⟨u, hu, same⟩ := r.forth v hv (by rw [Slot.Stands, h2]; exact ⟨by decide, by decide⟩)
    refine ⟨u, hu, same.num, same.owner.trans h1, same.state.trans h2, ?_⟩
    rw [record, same.num]
    exact h3
  · rw [hg] at he
    refine ⟨(entries e he).1, fun ha m hm => ?_⟩
    obtain ⟨v, hv, rfl, h1, h2, h3⟩ := (entries e he).2 ha m hm
    obtain ⟨u, hu, same⟩ := r.forth v hv (by rw [Slot.Stands, h2]; exact slotState_ne_ended e.state)
    exact ⟨u, hu, same.num, same.owner.trans h1, same.state.trans h2, by rw [same.num]; exact h3⟩
  · obtain ⟨v, hv, same⟩ := r.back u hu
    have owned := owners v hv
    unfold RecordOwns Entry.owns at owned ⊢
    rw [same.state, same.owner, same.num, hg]
    simpa only [record] using owned

theorem IndexLaw.refit (k : IndexLaw s) (hi : t.staging.index = s.staging.index := by rfl) : IndexLaw t := by
  obtain ⟨nodup, places, listed⟩ := k
  refine ⟨hi ▸ nodup, fun x hx => ?_, fun u hu h1 h2 => ?_⟩
  · obtain ⟨v, hv, hnum, hline, hstate⟩ := places x (hi ▸ hx)
    obtain ⟨u, hu, same⟩ := r.forth v hv hstate
    refine ⟨u, hu, same.num.trans hnum, same.line.trans hline, ?_⟩
    rwa [same.state]
  · obtain ⟨v, hv, same⟩ := r.back u hu
    rw [hi, same.line, same.num]
    exact listed v hv (same.state ▸ h1) (same.state ▸ h2)

theorem ClaimLaw.refit (k : ClaimLaw s) : ClaimLaw t := by
  intro u hu w hw hcu hcw hline
  obtain ⟨v, hv, su⟩ := r.back u hu
  obtain ⟨y, hy, sw⟩ := r.back w hw
  have same := k v hv y hy (su.state ▸ hcu) (sw.state ▸ hcw) (by rw [← su.line, ← sw.line, hline])
  rw [Slot.claimant?, Slot.claimant?, su.state, su.owner, sw.state, sw.owner]
  exact same

theorem HomeLaw.refit (k : HomeLaw s) (hq : t.groups.queue = s.groups.queue := by rfl)
    (hr : t.media.requests = s.media.requests := by rfl) (ha : t.apply = s.apply := by rfl)
    (hm : t.modes.mode = s.modes.mode := by rfl) : HomeLaw t := by
  obtain ⟨h1, h2, h3, h4, h5, h6⟩ := k
  have homes : homeSlots t = homeSlots s := by rw [homeSlots, hr, homeSlots]
  refine ⟨homes ▸ h1, fun m hmem => ?_, by rwa [ha, hq], by rwa [hq], by rwa [hm, ha, hq], ?_⟩
  · obtain ⟨v, hv, hnum, hstate⟩ := h2 m (homes ▸ hmem)
    obtain ⟨u, hu, same⟩ := r.forth v hv (by rw [Slot.Stands, hstate]; exact ⟨by decide, by decide⟩)
    exact ⟨u, hu, same.num.trans hnum, same.state.trans hstate⟩
  · rw [ha, hq]
    intro hw e he hc u hu hstate howns
    obtain ⟨v, hv, same⟩ := r.back u hu
    rw [same.num]
    exact h6 hw e he hc v hv (same.state ▸ hstate) ⟨same.owner ▸ howns.1, same.state ▸ howns.2.1, same.num ▸ howns.2.2⟩

end Refit

theorem mapSlots_refits {ns : List Nat} {f : Slot → Slot} (hf : ∀ v, (f v).Same v) : Refits s (mapSlots s ns f) := by
  have same (v : Slot) : Slot.Same (if v.num ∈ ns then f v else v) v := by
    split
    · exact hf v
    · exact ⟨rfl, rfl, rfl, rfl⟩
  refine ⟨fun u hu => ?_, fun v hv _ => ⟨_, List.mem_map_of_mem hv, same v⟩⟩
  obtain ⟨v, hv, rfl⟩ := List.mem_map.1 hu
  exact ⟨v, hv, same v⟩

/-- Slots change in their bytes alone. -/
theorem BufferLaws.mergeBytes (k : BufferLaws n s) (ns : List Nat) : BufferLaws n (mapSlots s ns (mergeInto h)) := by
  have r : Refits s (mapSlots s ns (mergeInto h)) := mapSlots_refits fun _ => ⟨rfl, rfl, rfl, rfl⟩
  have path : Path s (mapSlots s ns (mergeInto h)) := mapSlots_path s ns _ (fun _ => rfl) fun _ hv => hv
  refine ⟨path.keepsStaging k.staging, k.owner.refit r, k.index.refit r, k.claim.refit r,
    ⟨fun e he => ⟨(k.pin.1 e he).1, fun m hm => ?_⟩, fun u hu => ?_⟩, k.home.refit r, k.count.congr⟩
  · obtain ⟨v, hv, hnum⟩ := (k.pin.1 e he).2 m hm
    refine ⟨_, List.mem_map_of_mem hv, ?_⟩
    split <;> exact hnum
  · obtain ⟨v, hv, rfl⟩ := List.mem_map.1 hu
    split <;> exact k.pin.2 v hv

theorem BufferLaws.mergeInPlace (k : BufferLaws (n + 1) s) (v : Slot) : BufferLaws n (mergeInPlace s h v) := by
  have merged : BufferLaws (n + 1) (Machine.restartIdle (mapSlots s [v.num] (mergeInto h)) h.stream) :=
    (k.mergeBytes [v.num]).restartIdle h.stream
  have left : BufferLaws (n + 1) (leaveSlotWait (Machine.restartIdle (mapSlots s [v.num] (mergeInto h)) h.stream) h.stream) :=
    merged.congr
  exact left.answerTaken _

end Stage

end Sys2Proof.Machine

/-! PROOF. The claimant of a line, and a write that takes a FREE slot (R29, R31, R39). -/

namespace Sys2Proof.Machine

/-! ### The claimant of a line -/

section Claims

variable {s : State}

theorem claims_of_claimant? {v : Slot} {st : Stream} (h : v.claimant? = some st) : v.state.claims = true := by
  unfold Slot.claimant? at h
  split at h
  · assumption
  · cases h

/-- The list of a line holds versions of it alone. -/
theorem IndexLaw.of_mem_versions (h : IndexLaw s) (hs : StagingLaw s) {l : Addr} {v : Slot} (hv : v ∈ versions s l) :
    v ∈ s.staging.slots ∧ v.line = l := by
  obtain ⟨x, hx, hat⟩ := List.mem_filterMap.1 hv
  obtain ⟨hmem, hline⟩ := List.mem_filter.1 hx
  obtain ⟨hslot, hnum⟩ := slotAt_spec hat
  obtain ⟨w, hw, hwnum, hwline, -⟩ := h.2.1 x hmem
  obtain rfl := hs.eq_of_num hw hslot (hnum.trans hwnum.symm)
  exact ⟨hw, hwline.trans (by simpa using hline)⟩

/-- A version that gives a claim names its line's claimant (R29, R39). -/
theorem claimant_of_claims (hi : IndexLaw s) (hs : StagingLaw s) (hc : ClaimLaw s) {v : Slot} (hv : v ∈ s.staging.slots)
    {st : Stream} (h : v.claimant? = some st) : claimant s v.line = some st := by
  have claims := claims_of_claimant? h
  have hmem := hi.mem_versions hs hv claims
  unfold claimant
  cases hf : (versions s v.line).findSome? Slot.claimant? with
  | none =>
    rw [List.findSome?_eq_none_iff] at hf
    rw [hf v hmem] at h
    cases h
  | some st' =>
    obtain ⟨w, hw, hwc⟩ := List.exists_of_findSome?_eq_some hf
    obtain ⟨hwslot, hwline⟩ := hi.of_mem_versions hs hw
    rw [← hwc, hc w hwslot v hv (claims_of_claimant? hwc) claims hwline, h]

/-- A version that gives a claim has an owner. -/
theorem OwnerLaw.claimant?_isSome (h : OwnerLaw s) {v : Slot} (hv : v ∈ s.staging.slots) (hc : v.state.claims = true) :
    ∃ st, v.claimant? = some st := by
  have owner := h.2.2 v hv
  rw [if_neg (by rintro (hx | hx) <;> (rw [hx] at hc; cases hc))] at owner
  rw [Slot.claimant?, if_pos hc]
  rcases owner with ⟨st, hown, -⟩ | ⟨e, -, -, hown, -⟩
  · exact ⟨st, by rw [hown]; rfl⟩
  · exact ⟨e.stream, by rw [hown]; rfl⟩

/-- The versions that claim a line that is unclaimed, or claimed by a stream, are that stream's. -/
theorem claimant?_of_claimant (ho : OwnerLaw s) (hi : IndexLaw s) (hs : StagingLaw s) (hc : ClaimLaw s) {l : Addr}
    {st : Stream} (h : claimant s l = none ∨ claimant s l = some st) {v : Slot} (hv : v ∈ s.staging.slots)
    (hcl : v.state.claims = true) (hl : v.line = l) : v.claimant? = some st := by
  obtain ⟨st', hst'⟩ := ho.claimant?_isSome hv hcl
  have named := claimant_of_claims hi hs hc hv hst'
  rw [hl] at named
  rcases h with h | h <;> rw [h] at named
  · cases named
  · rw [hst', ← named]

end Claims

/-! ### A write that takes a FREE slot -/

section Free

variable {n : Nat} {s : State} {h : HeldWrite} {c : Nat}

/-- A new OPEN version of a stream, before its write is answered (R2, R27, R30). -/
def withVersion (s : State) (h : HeldWrite) (c : Nat) : State :=
  setRecord (addVersion s (newVersion h c)) h.stream
    (restarted (addVersion s (newVersion h c)) ((recordOf s h.stream).slots ++ [c]) (recordOf s h.stream))

theorem recordOf_withVersion (st : Stream) : (recordOf (withVersion s h c) st).slots =
    if h.stream = st then (recordOf s st).slots ++ [c] else (recordOf s st).slots := by
  rw [withVersion, recordOf_setRecord]
  split
  · rename_i heq
    rw [restarted_slots, heq]
  · rfl

theorem BufferLaws.withVersion (k : BufferLaws n s) (hc : freeSlot? s = some c) (hq : openSlots s < Config.openQuota)
    (hcl : claimant s h.line = none ∨ claimant s h.line = some h.stream) : BufferLaws n (withVersion s h c) := by
  have fresh : ∀ u ∈ s.staging.slots, u.num ≠ c := ne_of_slotAt_eq_none (slotAt_of_freeSlot? hc)
  obtain ⟨staging, owner, index, claim, pin, home, count⟩ := id k
  have mem {u : Slot} : u ∈ (Machine.withVersion s h c).staging.slots ↔ u = newVersion h c ∨ u ∈ s.staging.slots :=
    mem_insertSlot
  have keeps {st : Stream} {u : Slot} (howns : RecordOwns s st u) : RecordOwns (Machine.withVersion s h c) st u := by
    refine ⟨howns.1, howns.2.1, ?_⟩
    rw [recordOf_withVersion]
    split
    · exact List.mem_append_left _ howns.2.2
    · exact howns.2.2
  have newOwns : RecordOwns (Machine.withVersion s h c) h.stream (newVersion h c) := by
    refine ⟨rfl, rfl, ?_⟩
    rw [recordOf_withVersion, if_pos rfl]
    exact List.mem_append_right _ (List.mem_singleton_self c)
  have old (st : Stream) {m : Nat} (hm : m ∈ (recordOf s st).slots) : m ≠ c := by
    obtain ⟨u, hu, rfl, -⟩ := (owner.1 st).2 m hm
    exact fresh u hu
  refine ⟨?_, ⟨fun st => ⟨?_, fun m hm => ?_⟩, fun e he => ⟨(owner.2.1 e he).1, fun ha m hm => ?_⟩, fun u hu => ?_⟩,
    ⟨?_, fun x hx => ?_, fun u hu h1 h2 => ?_⟩, fun u hu w hw hcu hcw hline => ?_,
    ⟨fun e he => ⟨(pin.1 e he).1, fun m hm => ?_⟩, fun u hu => ?_⟩, ?_, count.congr⟩
  · exact ((stageNew_path s h c hc hq).keepsStaging staging).congr
  · rw [recordOf_withVersion]
    split
    · exact List.nodup_append.2 ⟨(owner.1 st).1, List.nodup_singleton c, fun a ha b hb =>
        List.mem_singleton.1 hb ▸ old st ha⟩
    · exact (owner.1 st).1
  · rw [recordOf_withVersion] at hm
    by_cases hst : h.stream = st
    · subst hst
      rw [if_pos rfl, List.mem_append, List.mem_singleton] at hm
      rcases hm with hm | rfl
      · obtain ⟨u, hu, hnum, howns⟩ := (owner.1 _).2 m hm
        exact ⟨u, mem.2 (.inr hu), hnum, keeps howns⟩
      · exact ⟨newVersion h m, mem.2 (.inl rfl), rfl, newOwns⟩
    · rw [if_neg hst] at hm
      obtain ⟨u, hu, hnum, howns⟩ := (owner.1 st).2 m hm
      exact ⟨u, mem.2 (.inr hu), hnum, keeps howns⟩
  · obtain ⟨u, hu, hnum, howns⟩ := (owner.2.1 e he).2 ha m hm
    exact ⟨u, mem.2 (.inr hu), hnum, howns⟩
  · rcases mem.1 hu with rfl | hu
    · rw [if_neg (by simp [newVersion])]
      exact .inl ⟨_, newOwns⟩
    · have owned := owner.2.2 u hu
      split
      · rwa [if_pos ‹_›] at owned
      · rw [if_neg ‹_›] at owned
        exact owned.imp (fun ⟨st, howns⟩ => ⟨st, keeps howns⟩) id
  · refine (List.map_append).symm ▸ List.nodup_append.2 ⟨index.1, List.nodup_singleton c, fun a ha b hb => ?_⟩
    obtain ⟨x, hx, rfl⟩ := List.mem_map.1 ha
    obtain ⟨u, hu, hnum, -⟩ := index.2.1 x hx
    rw [List.mem_singleton.1 hb, ← hnum]
    exact fresh u hu
  · rcases List.mem_append.1 hx with hx | hx
    · obtain ⟨u, hu, hrest⟩ := index.2.1 x hx
      exact ⟨u, mem.2 (.inr hu), hrest⟩
    · rw [List.mem_singleton.1 hx]
      exact ⟨newVersion h c, mem.2 (.inl rfl), rfl, rfl, by simp [newVersion], by simp [newVersion]⟩
  · rcases mem.1 hu with rfl | hu
    · exact List.mem_append_right _ (List.mem_singleton_self _)
    · exact List.mem_append_left _ (index.2.2 u hu h1 h2)
  · have mine {y : Slot} (hy : y ∈ s.staging.slots) (hcy : y.state.claims = true) (hl : y.line = h.line) :
        y.claimant? = some h.stream := claimant?_of_claimant owner index staging claim hcl hy hcy hl
    rcases mem.1 hu with rfl | hu <;> rcases mem.1 hw with rfl | hw
    · rfl
    · exact (mine hw hcw hline.symm).symm
    · exact mine hu hcu hline
    · exact claim u hu w hw hcu hcw hline
  · obtain ⟨u, hu, hnum⟩ := (pin.1 e he).2 m hm
    exact ⟨u, mem.2 (.inr hu), hnum⟩
  · rcases mem.1 hu with rfl | hu
    · refine (List.countP_eq_zero.2 fun e he hcontains => ?_).symm
      obtain ⟨u, hu, hnum⟩ := (pin.1 e he).2 c (by simpa [newVersion] using hcontains)
      exact fresh u hu hnum
    · exact pin.2 u hu
  · refine home.slots (fun u hu _ => mem.2 (.inr hu)) fun u hu hx => ?_
    rcases mem.1 hu with rfl | hu
    · cases hx
    · exact hu

theorem BufferLaws.stageNew (k : BufferLaws (n + 1) s) (hc : freeSlot? s = some c) (hq : openSlots s < Config.openQuota)
    (hcl : claimant s h.line = none ∨ claimant s h.line = some h.stream) : BufferLaws n (stageNew s h c) := by
  have left : BufferLaws (n + 1) (leaveSlotWait (Machine.withVersion s h c) h.stream) := (k.withVersion hc hq hcl).congr
  exact left.answerTaken _

/-! ### A merge by copy -/

theorem mem_swapSlot {v c m : Nat} {l : List Nat} : m ∈ swapSlot v c l ↔ (m = c ∧ v ∈ l) ∨ (m ∈ l ∧ m ≠ v) := by
  unfold swapSlot
  rw [List.mem_map]
  constructor
  · rintro ⟨a, ha, rfl⟩
    split
    · rename_i heq
      exact .inl ⟨rfl, heq ▸ ha⟩
    · exact .inr ⟨ha, ‹_›⟩
  · rintro (⟨rfl, hv⟩ | ⟨hm, hne⟩)
    · exact ⟨v, hv, if_pos rfl⟩
    · exact ⟨m, hm, if_neg hne⟩

theorem nodup_swapSlot {v c : Nat} {l : List Nat} (hl : l.Nodup) (hc : c ∉ l) : (swapSlot v c l).Nodup := by
  refine List.Nodup.map_on (fun a ha b hb hab => ?_) hl
  split at hab <;> split at hab <;> simp_all

/-- The copy that takes a pinned version's place. -/
def copyOf (h : HeldWrite) (v : Slot) (c : Nat) : Slot := mergeInto h { v with num := c, pins := 0 }

/-- A merge by copy before its write is answered (R31). -/
def copied (s : State) (h : HeldWrite) (v : Slot) (c : Nat) : State :=
  let s1 := mapSlots s [v.num] detach
  let s2 := { s1 with staging :=
    { s1.staging with
      slots := insertSlot (copyOf h v c) s1.staging.slots
      index := s1.staging.index.map fun e => if e.slot = v.num then { e with slot := c } else e } }
  setRecord s2 h.stream (restarted s2 (swapSlot v.num c (recordOf s2 h.stream).slots) (recordOf s2 h.stream))

theorem recordOf_copied (v : Slot) (st : Stream) : (recordOf (copied s h v c) st).slots =
    if h.stream = st then swapSlot v.num c (recordOf s st).slots else (recordOf s st).slots := by
  rw [copied, recordOf_setRecord]
  split
  · rename_i heq
    rw [restarted_slots, heq]
    rfl
  · rfl

theorem mem_copied {v u : Slot} (hs : StagingLaw s) (hv : v ∈ s.staging.slots) :
    u ∈ (copied s h v c).staging.slots ↔ u = copyOf h v c ∨ u = detach v ∨ (u ∈ s.staging.slots ∧ u.num ≠ v.num) := by
  refine mem_insertSlot.trans (or_congr Iff.rfl ?_)
  change u ∈ (s.staging.slots.map fun w => if w.num ∈ [v.num] then detach w else w) ↔ _
  rw [List.mem_map]
  constructor
  · rintro ⟨w, hw, rfl⟩
    split
    · rename_i hn
      rw [hs.eq_of_num hv hw (by simpa using hn)]
      exact .inl rfl
    · rename_i hn
      exact .inr ⟨hw, by simpa using hn⟩
  · rintro (rfl | ⟨hu, hn⟩)
    · exact ⟨v, hv, if_pos (List.mem_singleton_self _)⟩
    · exact ⟨u, hu, if_neg (by simpa using hn)⟩

theorem BufferLaws.copied (k : BufferLaws n s) (hc : freeSlot? s = some c) {v : Slot} (hv : v ∈ s.staging.slots)
    (howns : RecordOwns s h.stream v) : BufferLaws n (copied s h v c) := by
  have fresh : ∀ u ∈ s.staging.slots, u.num ≠ c := ne_of_slotAt_eq_none (slotAt_of_freeSlot? hc)
  obtain ⟨staging, owner, index, claim, pin, home, count⟩ := id k
  obtain ⟨hown, hopen, hnum⟩ := id howns
  have mem {u : Slot} := mem_copied (s := s) (h := h) (c := c) (v := v) (u := u) staging hv
  have hcv : (copyOf h v c).state = .opened := hopen
  have keeps {st : Stream} {u : Slot} (hu : RecordOwns s st u) (hne : u.num ≠ v.num) :
      RecordOwns (Machine.copied s h v c) st u := by
    refine ⟨hu.1, hu.2.1, ?_⟩
    rw [recordOf_copied]
    split
    · exact mem_swapSlot.2 (.inr ⟨hu.2.2, hne⟩)
    · exact hu.2.2
  have copyOwns : RecordOwns (Machine.copied s h v c) h.stream (copyOf h v c) := by
    refine ⟨hown, hopen, ?_⟩
    rw [recordOf_copied, if_pos rfl]
    exact mem_swapSlot.2 (.inl ⟨rfl, hnum⟩)
  have old (st : Stream) {m : Nat} (hm : m ∈ (recordOf s st).slots) : m ≠ c := by
    obtain ⟨u, hu, rfl, -⟩ := (owner.1 st).2 m hm
    exact fresh u hu
  have indexSlots : (Machine.copied s h v c).staging.index.map IndexEntry.slot
      = swapSlot v.num c (s.staging.index.map IndexEntry.slot) := by
    change (s.staging.index.map fun e => if e.slot = v.num then { e with slot := c } else e).map IndexEntry.slot = _
    rw [swapSlot, List.map_map, List.map_map]
    refine List.map_congr_left fun x _ => ?_
    simp only [Function.comp]
    split <;> rfl
  have indexFresh : c ∉ s.staging.index.map IndexEntry.slot := fun hmem => by
    obtain ⟨x, hx, hxc⟩ := List.mem_map.1 hmem
    obtain ⟨u, hu, hun, -⟩ := index.2.1 x hx
    exact fresh u hu (hun.trans hxc)
  refine ⟨?_, ⟨fun st => ⟨?_, fun m hm => ?_⟩, fun e he => ⟨(owner.2.1 e he).1, fun ha m hm => ?_⟩, fun u hu => ?_⟩,
    ⟨?_, fun x hx => ?_, fun u hu h1 h2 => ?_⟩, fun u hu w hw hcu hcw hline => ?_,
    ⟨fun e he => ⟨(pin.1 e he).1, fun m hm => ?_⟩, fun u hu => ?_⟩, ?_, count.congr⟩
  · exact ((mergeByCopy_path s h v c hc hv hopen).keepsStaging staging).congr
  · rw [recordOf_copied]
    split
    · exact nodup_swapSlot (owner.1 st).1 fun hm => old st hm rfl
    · exact (owner.1 st).1
  · rw [recordOf_copied] at hm
    by_cases hst : h.stream = st
    · subst hst
      rw [if_pos rfl, mem_swapSlot] at hm
      rcases hm with ⟨rfl, -⟩ | ⟨hm, hne⟩
      · exact ⟨_, mem.2 (.inl rfl), rfl, copyOwns⟩
      · obtain ⟨u, hu, rfl, hu'⟩ := (owner.1 _).2 m hm
        exact ⟨u, mem.2 (.inr (.inr ⟨hu, hne⟩)), rfl, keeps hu' hne⟩
    · rw [if_neg hst] at hm
      obtain ⟨u, hu, rfl, hu'⟩ := (owner.1 st).2 m hm
      have hne : u.num ≠ v.num := fun heq => hst (owner.record_inj staging hnum (heq ▸ hm))
      exact ⟨u, mem.2 (.inr (.inr ⟨hu, hne⟩)), rfl, keeps hu' hne⟩
  · obtain ⟨u, hu, rfl, hu'⟩ := (owner.2.1 e he).2 ha m hm
    have hne : u.num ≠ v.num := fun heq => owner.record_entry staging hnum he ha (heq ▸ hm)
    exact ⟨u, mem.2 (.inr (.inr ⟨hu, hne⟩)), rfl, hu'⟩
  · rcases mem.1 hu with rfl | rfl | ⟨hu, hne⟩
    · rw [if_neg (by simp [hcv])]
      exact .inl ⟨_, copyOwns⟩
    · rw [if_pos (.inr rfl)]
      rfl
    · have owned := owner.2.2 u hu
      split
      · rwa [if_pos ‹_›] at owned
      · rw [if_neg ‹_›] at owned
        exact owned.imp (fun ⟨st, hu'⟩ => ⟨st, keeps hu' hne⟩) id
  · rw [indexSlots]
    exact nodup_swapSlot index.1 indexFresh
  · obtain ⟨y, hy, rfl⟩ := List.mem_map.1 hx
    obtain ⟨u, hu, hun, hul, hus⟩ := index.2.1 y hy
    split
    · rename_i heq
      obtain rfl := staging.eq_of_num hv hu (hun.trans heq)
      exact ⟨_, mem.2 (.inl rfl), rfl, hul, by rw [hcv]; exact ⟨by decide, by decide⟩⟩
    · rename_i hne
      exact ⟨u, mem.2 (.inr (.inr ⟨hu, hun ▸ hne⟩)), hun, hul, hus⟩
  · rcases mem.1 hu with rfl | rfl | ⟨hu, hne⟩
    · refine List.mem_map.2 ⟨{ line := v.line, slot := v.num }, index.2.2 v hv (by simp [hopen]) (by simp [hopen]), ?_⟩
      rw [if_pos rfl]
      rfl
    · exact absurd rfl h2
    · exact List.mem_map.2 ⟨_, index.2.2 u hu h1 h2, if_neg hne⟩
  · have before {y : Slot} (hy : y ∈ (Machine.copied s h v c).staging.slots) (hcy : y.state.claims = true) :
        ∃ z ∈ s.staging.slots, z.state.claims = true ∧ z.line = y.line ∧ z.claimant? = y.claimant? := by
      rcases mem.1 hy with rfl | rfl | ⟨hy, -⟩
      · exact ⟨v, hv, hcy, rfl, rfl⟩
      · cases hcy
      · exact ⟨y, hy, hcy, rfl, rfl⟩
    obtain ⟨y, hy, hcy, hyl, hyc⟩ := before hu hcu
    obtain ⟨z, hz, hcz, hzl, hzc⟩ := before hw hcw
    rw [← hyc, ← hzc]
    exact claim y hy z hz hcy hcz (by rw [hyl, hzl, hline])
  · obtain ⟨u, hu, rfl⟩ := (pin.1 e he).2 m hm
    by_cases hne : u.num = v.num
    · exact ⟨detach v, mem.2 (.inr (.inl rfl)), hne.symm⟩
    · exact ⟨u, mem.2 (.inr (.inr ⟨hu, hne⟩)), rfl⟩
  · rcases mem.1 hu with rfl | rfl | ⟨hu, -⟩
    · refine (List.countP_eq_zero.2 fun e he hcontains => ?_).symm
      obtain ⟨u, hu, hun⟩ := (pin.1 e he).2 c (by simpa [copyOf, mergeInto] using hcontains)
      exact fresh u hu hun
    · exact pin.2 v hv
    · exact pin.2 u hu
  · refine home.slots (fun u hu hx => mem.2 (.inr (.inr ⟨hu, fun hn => ?_⟩))) fun u hu hx => ?_
    · rw [staging.eq_of_num hv hu hn, hopen] at hx
      cases hx
    · rcases mem.1 hu with rfl | rfl | ⟨hu, -⟩
      · rw [hcv] at hx
        cases hx
      · cases hx
      · exact hu

theorem BufferLaws.mergeByCopy (k : BufferLaws (n + 1) s) (hc : freeSlot? s = some c) {v : Slot} (hv : v ∈ s.staging.slots)
    (howns : RecordOwns s h.stream v) : BufferLaws n (mergeByCopy s h v c) := by
  have left : BufferLaws (n + 1) (leaveSlotWait (Machine.copied s h v c) h.stream) := (k.copied hc hv howns).congr
  exact left.answerTaken _

end Free

end Sys2Proof.Machine

/-! PROOF. A held write in its turn and the end of an event, and the laws of the buffer (R34, R47). -/

namespace Sys2Proof.Machine

/-! ### A held write in its turn -/

/-- The writes held of other streams. -/
def heldApart (s : State) (st : Stream) : Nat := ((heldWrites s).filter fun h => h.stream != st).length

/-- With one write held for each stream, a held write is the only one of its stream. -/
theorem heldApart_of_mem {s : State} (hl : HeldLaw s) {h : HeldWrite} (hm : h ∈ heldWrites s) :
    heldApart s h.stream + 1 = (heldWrites s).length := by
  obtain ⟨front, back, hq⟩ := List.append_of_mem hm
  unfold HeldLaw at hl
  rw [heldApart, hq]
  rw [hq, List.map_append, List.map_cons, List.nodup_append, List.nodup_cons] at hl
  obtain ⟨-, ⟨hself, -⟩, hcross⟩ := hl
  have hf : front.filter (fun x => x.stream != h.stream) = front := List.filter_eq_self.2 fun x hx => by
    simpa using hcross _ (List.mem_map_of_mem hx) _ (List.mem_cons_self ..)
  have hb : back.filter (fun x => x.stream != h.stream) = back := List.filter_eq_self.2 fun x hx => by
    have other : x.stream ≠ h.stream := fun heq => hself (heq ▸ List.mem_map_of_mem hx)
    simpa using other
  rw [List.filter_append, List.filter_cons_of_neg (by simp), hf, hb]
  simp only [List.length_append, List.length_cons]
  omega

theorem heldApart_of_not_mem {s : State} {st : Stream} (hw : st ∉ waitStreams s) (hs : st ∉ slotStreams s) :
    heldApart s st = (heldWrites s).length := by
  rw [heldApart, List.filter_eq_self.2]
  intro h hh
  rcases List.mem_append.1 hh with hh | hh
  · obtain ⟨r, hr, rfl⟩ := List.mem_map.1 hh
    simpa using (not_mem_waitStreams_iff s st).1 hw r hr
  · simpa using (not_mem_slotStreams_iff s st).1 hs h hh

/-- What becomes of a write in its turn: it is answered, or it waits for a slot, or for a line. -/
inductive WriteTurned (s : State) (h : HeldWrite) (t : State) : Prop where
  | answered (hc : t.claims = s.claims) (hs : t.staging.slotWait = (leaveSlotWait s h.stream).staging.slotWait)
      (ht : BufferLaws (heldApart s h.stream) t)
  | slot (ht : t = joinSlotWait s h)
  | line (ht : t = joinWaitList (leaveSlotWait s h.stream) h)

section Turn

variable {w : Work} {h : HeldWrite} (k : BufferLaws (heldApart w.s h.stream + 1) w.s)

include k

theorem refuseWrite_turned (reason : DoomReason) : WriteTurned w.s h (refuseWrite w h reason).s := by
  have left : BufferLaws (heldApart w.s h.stream + 1) (leaveSlotWait w.s h.stream) := k.congr
  have doomed := left.doom (w := { w with s := leaveSlotWait w.s h.stream }) h.stream reason
  have lists : (doom { w with s := leaveSlotWait w.s h.stream } h.stream reason).s.claims = w.s.claims
      ∧ (doom { w with s := leaveSlotWait w.s h.stream } h.stream reason).s.staging.slotWait
        = (leaveSlotWait w.s h.stream).staging.slotWait := by
    unfold doom
    split <;> exact ⟨rfl, rfl⟩
  exact .answered lists.1 lists.2 (doomed.answerTaken _)

theorem fromCheck4_turned (hcl : claimant w.s h.line = none ∨ claimant w.s h.line = some h.stream) :
    WriteTurned w.s h (fromCheck4 w h).s := by
  unfold fromCheck4
  split
  · exact refuseWrite_turned k _
  · split
    · exact refuseWrite_turned k _
    · split
      · exact .slot rfl
      · exact .answered rfl rfl (k.stageNew ‹_› (by omega) hcl)

theorem fromCheck3_turned (hcl : claimant w.s h.line = none ∨ claimant w.s h.line = some h.stream) :
    WriteTurned w.s h (fromCheck3 w h).s := by
  unfold fromCheck3
  split
  · exact fromCheck4_turned k hcl
  · rename_i v hv
    obtain ⟨hmem, hopen⟩ := openVersion_spec hv
    have hown : v.owner = some (.record h.stream) := by
      have := List.find?_some hv
      simp only [Bool.and_eq_true, beq_iff_eq] at this
      exact this.2
    have howns : RecordOwns w.s h.stream v := by
      have owned := k.owner.2.2 v hmem
      rw [if_neg (by simp [hopen])] at owned
      rcases owned with ⟨st, howns⟩ | ⟨e, -, -, howns, -⟩
      · obtain rfl : st = h.stream := by
          have := howns.1
          rw [hown] at this
          simpa using this.symm
        exact howns
      · rw [hown] at howns
        cases howns
    split
    · exact .answered rfl rfl (k.mergeInPlace v)
    · split
      · exact .slot rfl
      · exact .answered rfl rfl (k.mergeByCopy ‹_› hmem howns)

theorem fromCheck2_turned : WriteTurned w.s h (fromCheck2 w h).s := by
  unfold fromCheck2
  split
  · exact fromCheck3_turned k (.inl ‹_›)
  · rename_i t ht
    split
    · rename_i heq
      exact fromCheck3_turned k (.inr (heq ▸ ht))
    · unfold claimDecision
      split
      · exact refuseWrite_turned k _
      · exact .line rfl

end Turn

/-- The laws of the buffer with each held write counted once. -/
def HeldBuffer (s : State) : Prop := BufferLaws (heldWrites s).length s ∧ HeldLaw s

theorem filter_waitList {s : State} {st : Stream} (hw : st ∉ waitStreams s) :
    ((s.claims.waitList.map WaitRecord.write).filter fun h => h.stream != st) = s.claims.waitList.map WaitRecord.write := by
  refine List.filter_eq_self.2 fun h hh => ?_
  obtain ⟨r, hr, rfl⟩ := List.mem_map.1 hh
  simpa using (not_mem_waitStreams_iff s st).1 hw r hr

/-- A write whose turn has come is counted once after it. -/
theorem WriteTurned.counted {s t : State} {h : HeldWrite} (k : BufferLaws (heldApart s h.stream + 1) s) (hl : HeldLaw s)
    (hw : h.stream ∉ waitStreams s) (ht : WriteTurned s h t) : BufferLaws (heldWrites t).length t := by
  have apart : heldApart s h.stream
      = s.claims.waitList.length + (s.staging.slotWait.filter fun x => x.stream != h.stream).length := by
    rw [heldApart, heldWrites, List.filter_append, filter_waitList hw, List.length_append, List.length_map]
  cases ht with
  | answered hc hs ht =>
    have count : (heldWrites t).length = heldApart s h.stream := by
      rw [heldWrites, hc, hs, apart, List.length_append, List.length_map]
      rfl
    rwa [count]
  | slot ht =>
    subst ht
    have count : (heldWrites (joinSlotWait s h)).length = heldApart s h.stream + 1 := by
      by_cases hin : inSlotWait s h.stream = true
      · rw [joinSlotWait, if_pos hin]
        obtain ⟨x, hx, hxs⟩ := List.any_eq_true.1 hin
        rw [beq_iff_eq] at hxs
        rw [← hxs]
        exact (heldApart_of_mem hl (List.mem_append_right _ hx)).symm
      · rw [inSlotWait_iff] at hin
        rw [heldApart_of_not_mem hw hin, joinSlotWait, if_neg (by rwa [inSlotWait_iff])]
        simp only [heldWrites, List.length_append, List.length_map, List.length_singleton]
        omega
    rw [count]
    unfold joinSlotWait
    split
    · exact k
    · exact k.congr
  | line ht =>
    subst ht
    have count : (heldWrites (joinWaitList (leaveSlotWait s h.stream) h)).length = heldApart s h.stream + 1 := by
      rw [apart]
      simp only [heldWrites, joinWaitList, leaveSlotWait, List.map_append, List.length_append, List.length_map,
        List.length_singleton]
      omega
    rw [count]
    exact k.congr

/-- A slot waiter's turn (R34). -/
theorem HeldBuffer.fromCheck2 {w : Work} {h : HeldWrite} (k : HeldBuffer w.s) (hm : h ∈ w.s.staging.slotWait) :
    HeldBuffer (fromCheck2 w h).s := by
  obtain ⟨buffer, held⟩ := k
  have hw : h.stream ∉ waitStreams w.s := fun hw => ((heldLaw_iff w.s).1 held).2.2 _ hw (List.mem_map_of_mem hm)
  rw [← heldApart_of_mem held (List.mem_append_right _ hm)] at buffer
  exact ⟨(fromCheck2_turned buffer).counted buffer held hw, (fromCheck2_calm w h).held hw held⟩

theorem heldApart_leaveWaitList (s : State) (st : Stream) : heldApart (leaveWaitList s st) st = heldApart s st := by
  unfold heldApart heldWrites leaveWaitList
  rw [List.filter_append, List.filter_append]
  congr 2
  rw [List.filter_map, List.filter_map, List.filter_filter]
  congr 1
  exact List.filter_congr fun r _ => by simp

/-- A waiting write's turn in a re-examination (R48). -/
theorem HeldBuffer.reexamineOne {w : Work} {r : WaitRecord} (k : HeldBuffer w.s) (hm : r ∈ w.s.claims.waitList) :
    HeldBuffer (reexamineOne w r).s := by
  obtain ⟨buffer, held⟩ := k
  refine ⟨?_, (reexamineOne_calm w r).held trivial held⟩
  unfold Machine.reexamineOne
  split
  · rename_i hfree
    have mem : r.write ∈ heldWrites w.s := List.mem_append_left _ (List.mem_map_of_mem hm)
    have left : BufferLaws (heldApart (leaveWaitList w.s r.write.stream) r.write.stream + 1)
        (leaveWaitList w.s r.write.stream) := by
      rw [heldApart_leaveWaitList, heldApart_of_mem held mem]
      exact buffer.congr
    refine (fromCheck3_turned (w := { w with s := leaveWaitList w.s r.write.stream }) left (.inl ?_)).counted left
      ((leaveWaitList_calm w.s r.write.stream).held trivial held) (not_mem_waitStreams_leaveWaitList _ _)
    exact Option.isNone_iff_eq_none.1 hfree
  · exact buffer

/-! ### The end of an event -/

/-- Turns that each leave the others in their place. -/
theorem foldl_turns {α : Type} {f : Work → α → Work} {P : State → Prop} {Q : State → α → Prop} {key : α → Stream}
    (hturn : ∀ w a, P w.s → Q w.s a → P (f w a).s)
    (hstays : ∀ w a b, Q w.s b → key b ≠ key a → Q (f w a).s b) (l : List α) (hd : (l.map key).Nodup) (w : Work)
    (hw : P w.s) (hl : ∀ a ∈ l, Q w.s a) : P (l.foldl f w).s := by
  induction l generalizing w with
  | nil => exact hw
  | cons a l ih =>
    rw [List.map_cons, List.nodup_cons] at hd
    obtain ⟨ha, hl⟩ := List.forall_mem_cons.1 hl
    refine ih hd.2 _ (hturn w a hw ha) fun b hb => hstays w a b (hl b hb) fun heq => hd.1 (heq ▸ List.mem_map_of_mem hb)

theorem mem_waitList_reexamineOne (w : Work) (a b : WaitRecord) (hb : b ∈ w.s.claims.waitList)
    (hne : b.write.stream ≠ a.write.stream) : b ∈ (reexamineOne w a).s.claims.waitList := by
  unfold reexamineOne
  split
  · rw [fromCheck3_lists]
    exact List.mem_filter.2 ⟨hb, by simpa using hne⟩
  · exact hb

theorem mem_slotWait_leave {s : State} {st : Stream} {b : HeldWrite} (hb : b ∈ s.staging.slotWait) (hne : b.stream ≠ st) :
    b ∈ (leaveSlotWait s st).staging.slotWait := List.mem_filter.2 ⟨hb, by simpa using hne⟩

theorem mem_slotWait_join {s : State} {a b : HeldWrite} (hb : b ∈ s.staging.slotWait) :
    b ∈ (joinSlotWait s a).staging.slotWait := by
  unfold joinSlotWait
  split
  · exact hb
  · exact List.mem_append_left _ hb

theorem mem_slotWait_fromCheck2 (w : Work) (a b : HeldWrite) (hb : b ∈ w.s.staging.slotWait) (hne : b.stream ≠ a.stream) :
    b ∈ (fromCheck2 w a).s.staging.slotWait := by
  have refused (r : DoomReason) : b ∈ (refuseWrite w a r).s.staging.slotWait := by
    unfold refuseWrite doom
    split <;> exact mem_slotWait_leave hb hne
  have check3 : b ∈ (fromCheck3 w a).s.staging.slotWait := by
    unfold fromCheck3 fromCheck4
    split
    · split
      · exact refused _
      · split
        · exact refused _
        · split
          · exact mem_slotWait_join hb
          · exact mem_slotWait_leave hb hne
    · split
      · exact mem_slotWait_leave hb hne
      · split
        · exact mem_slotWait_join hb
        · exact mem_slotWait_leave hb hne
  unfold fromCheck2
  split
  · exact check3
  · split
    · exact check3
    · unfold claimDecision
      split
      · exact refused _
      · exact mem_slotWait_leave hb hne

theorem HeldBuffer.reexamine {w : Work} (k : HeldBuffer w.s) (l : Addr) : HeldBuffer (reexamine w l).s := by
  refine foldl_turns (P := HeldBuffer) (Q := fun s r => r ∈ s.claims.waitList) (key := fun r => r.write.stream)
    (fun w r hw hr => HeldBuffer.reexamineOne hw hr) mem_waitList_reexamineOne _ ?_ w k fun r hr => List.mem_of_mem_filter hr
  exact ((heldLaw_iff w.s).1 k.2).1.sublist (List.filter_sublist.map _)

theorem HeldBuffer.foldl_reexamine (ls : List Addr) {w : Work} (k : HeldBuffer w.s) :
    HeldBuffer (ls.foldl Machine.reexamine w).s := by
  induction ls generalizing w with
  | nil => exact k
  | cons l ls ih => exact ih (k.reexamine l)

theorem HeldBuffer.releaseRounds (m : Nat) {w : Work} (k : HeldBuffer w.s) : HeldBuffer (releaseRounds m w).s := by
  induction m generalizing w with
  | zero => exact k
  | succ m ih =>
    rw [Machine.releaseRounds]
    split
    · exact k
    · exact ih (HeldBuffer.foldl_reexamine w.release (w := { w with release := [] }) k)

theorem HeldBuffer.wakePass {w : Work} (k : HeldBuffer w.s) : HeldBuffer (wakePass w).s :=
  foldl_turns (P := HeldBuffer) (Q := fun s h => h ∈ s.staging.slotWait) (key := HeldWrite.stream)
    (fun _ _ hw hh => HeldBuffer.fromCheck2 hw hh) mem_slotWait_fromCheck2 _ ((heldLaw_iff w.s).1 k.2).2.1 _ k
    fun _ hh => hh

/-- The end of an event keeps the laws of the buffer, with each held write counted once. -/
theorem HeldBuffer.settle {w : Work} (k : HeldBuffer w.s) : HeldBuffer (settle w) := by
  have passes (m : Nat) : ∀ w : Work, HeldBuffer w.s → HeldBuffer (settlePasses m w).s := by
    induction m with
    | zero => exact fun w hw => hw
    | succ m ih =>
      intro w hw
      have released := hw.releaseRounds (w.s.claims.waitList.length + 1)
      simp only [settlePasses]
      split
      · exact ih _ released.wakePass
      · exact released
  exact passes _ w k

end Sys2Proof.Machine

/-! PROOF. A part that holds nothing, and the laws that hold together. -/

namespace Sys2Proof.Machine

/-! ### A part that holds nothing -/

/-- The part holds no group, no write, no read and no slot, and no line of a record and no home write is at the port. -/
structure HoldsNothing (s : State) : Prop where
  held : NoneHeld s
  records : ∀ st, recordOf s st = .absent
  slots : s.staging.slots = []
  index : s.staging.index = []
  queue : s.groups.queue = []
  reads : s.reads = []
  engine : s.apply.current = none
  writer : s.journal.writer = .idle
  taken : s.fabric.takenUnanswered = 0
  room : s.fabric.egress.length ≤ Config.egressDepth
  next : s.journal.nextSeq = s.journal.durableThrough + 1
  unapplied : (s.journal.durableThrough - s.journal.appliedThrough).toNat ≤ Config.commitDepth
  requests : ∀ q ∈ namedRequesters s.media.requests, q = .formatLine ∨ q = .relocLine

theorem heldWrites_length_of_none {s : State} (h : NoneHeld s) : (heldWrites s).length = 0 := by
  rw [heldWrites, h.1, h.2]
  rfl

theorem anyRequest_of_named {s : State} (h : ∀ q ∈ namedRequesters s.media.requests, q = .formatLine ∨ q = .relocLine)
    {p : Requester → Bool} (hp : ∀ q, p q = true → q.isNamed = true) (hf : p .formatLine = false) (hr : p .relocLine = false) :
    anyRequest s p = false := by
  rw [anyRequest_eq s hp, List.any_eq_false]
  intro q hq
  rcases h q hq with rfl | rfl <;> simp [hf, hr]

/-- Of a part that holds nothing, the laws say little. -/
theorem HoldsNothing.laws {s : State} (h : HoldsNothing s) (hm : ModeLaw s) (ht : TargetLaw s)
    (hs : s.staging.scratch.isSome → s.modes.mode = .recovering ∨ s.modes.mode = .draining)
    (hf : s.modes.mode = .draining → s.drain.finalRaised = true → ∀ r ∈ s.media.requests, r.requester = .checkpoint)
    (hu : JournalInUse s → s.journal.used ≤ s.journal.region.ringLength
      ∧ s.journal.durableThrough = s.journal.appliedThrough) : Laws 0 s := by
  obtain ⟨held, records, slots, index, queue, reads, engine, writer, taken, room, next, unapplied, requests⟩ := h
  have homes : homeSlots s = [] := by
    rw [homeSlots_eq, List.filterMap_eq_nil_iff]
    intro q hq
    rcases requests q hq with rfl | rfl <;> rfl
  have lines : anyRequest s Requester.isJournalLine = false :=
    anyRequest_of_named requests (fun _ => isNamed_of_isJournalLine) rfl rfl
  have commit : anyRequest s (· == .commitLine) = false :=
    anyRequest_of_named requests (fun _ => isNamed_of_commitLine) rfl rfl
  have commits : (s.media.requests.countP fun r => r.requester == .commitLine) = 0 := by
    rw [List.countP_eq_zero]
    intro r hr
    simpa using List.any_eq_false.1 commit r hr
  refine ⟨⟨?_, ?_, ?_, ?_, ?_, ?_, ?_⟩, ⟨?_, ?_, ?_⟩, ⟨hm, ?_, ht⟩⟩
  · simp [StagingLaw, openSlots, slots]
  · simp [OwnerLaw, records, GroupRecord.slots, queue, slots]
  · simp [IndexLaw, index, slots]
  · simp [ClaimLaw, slots]
  · simp [PinLaw, reads, slots]
  · simp [HomeLaw, homes, queue, engine]
  · exact ⟨by simp [SerialsDistinct, queue], by simp [reads], by simp [queue], by simp [taken, reads, owedEntries, queue],
      by rw [taken]; exact room⟩
  · simp [WriterLaw, lines, commit, commits, queue, writer]
  · exact fun h => ⟨(hu h).1, fun failed hfail => by rw [writer] at hfail; cases hfail⟩
  · refine ⟨next, unapplied, ?_⟩
    simp only [unappliedEntries, queue]
    simp only [List.filter_nil, List.Pairwise.nil, List.not_mem_nil, IsEmpty.forall_iff, implies_true, List.zipIdx_nil,
      true_and]
    exact fun h => by simp [(hu h).2]
  · refine ⟨fun _ => ⟨held, records⟩, fun _ _ => ⟨slots, queue, reads⟩, fun _ e he => ?_,
      fun hd hr => ⟨writer, reads, hf hd hr⟩, fun hsome => ⟨slots, hs hsome⟩⟩
    rw [queue] at he
    cases he

/-- The laws of a state with its held writes counted. -/
def PartLaws (s : State) : Prop := Laws (heldWrites s).length s

theorem HoldsNothing.partLaws {s : State} (h : HoldsNothing s) (k : Laws 0 s) : PartLaws s := by
  rw [PartLaws, heldWrites_length_of_none h.held]
  exact k

/-- Outside READY and a drain from it the part holds nothing (R21, R143, R161). -/
theorem PartLaws.holdsNothing {s : State} (h : PartLaws s) (hm : s.modes.mode ≠ .ready)
    (hd : s.modes.mode = .draining → s.drain.origin ≠ some .ready) : HoldsNothing s := by
  obtain ⟨held, records⟩ := h.control.contents.1 hm
  obtain ⟨slots, queue, reads⟩ := h.control.contents.2.1 hm hd
  have homes : homeSlots s = [] := by
    rw [List.eq_nil_iff_forall_not_mem]
    intro m hmem
    obtain ⟨v, hv, -⟩ := h.buffer.home.2.1 m hmem
    rw [slots] at hv
    cases hv
  have writer : s.journal.writer = .idle := by
    have count := h.journal.writer.1
    rw [queue, List.countP_nil] at count
    by_contra hw
    rw [if_neg hw] at count
    cases count
  obtain ⟨lines, commit⟩ := h.journal.writer.idle (by simp [writer])
  have taken : s.fabric.takenUnanswered = 0 := by
    rw [h.buffer.count.taken, heldWrites_length_of_none held, reads, owedEntries, queue]
    rfl
  refine ⟨held, records, slots, ?_, queue, reads, ?_, writer, taken, ?_, h.journal.sequence.1, h.journal.sequence.2.1,
    fun q hq => ?_⟩
  · rw [List.eq_nil_iff_forall_not_mem]
    intro x hx
    obtain ⟨v, hv, -⟩ := h.buffer.index.2.1 x hx
    rw [slots] at hv
    cases hv
  · refine h.buffer.home.2.2.1.resolve_right ?_
    rintro ⟨e, he, -⟩
    rw [queue] at he
    cases he
  · have room := h.buffer.count.room
    omega
  · have named := (List.mem_filter.1 hq).2
    rw [anyRequest_eq s fun _ => isNamed_of_isJournalLine, List.any_eq_false] at lines
    rw [anyRequest_eq s fun _ => isNamed_of_commitLine, List.any_eq_false] at commit
    rw [homeSlots_eq, List.filterMap_eq_nil_iff] at homes
    cases q with
    | formatLine => exact .inl rfl
    | relocLine => exact .inr rfl
    | journalLine i => exact absurd rfl (lines _ hq)
    | commitLine => exact absurd rfl (commit _ hq)
    | homeWrite m => exact absurd (homes _ hq) (by simp [Requester.homeSlot?])
    | _ => cases named

/-- A part that holds nothing, outside READY and DRAINING, with no request that the laws name and no journal in use. -/
theorem HoldsNothing.partLaws_outside {s : State} (h : HoldsNothing s) (hq : namedRequesters s.media.requests = [])
    (hm : s.modes.mode ≠ .ready ∧ s.modes.mode ≠ .draining) (hl : s.reloc.state = .none) (hw : s.apply.withdrawn = false)
    (hv : s.recovery.isSome → s.modes.mode = .recovering) (hi : inFinal s = false)
    (hf : s.format.isSome → s.modes.mode = .formatting)
    (hs : s.staging.scratch.isSome → s.modes.mode = .recovering) : PartLaws s := by
  have noRequest {p : Requester → Bool} (hp : ∀ q, p q = true → q.isNamed = true) : anyRequest s p = false := by
    rw [anyRequest_eq s hp, hq]
    rfl
  refine h.partLaws (h.laws ⟨hv, hf, ?_, ?_, fun hr => absurd hl hr, fun hr => absurd hl hr⟩
    ⟨fun hr => absurd hl hr, ?_, fun hr => absurd hl hr⟩ (fun hsome => .inl (hs hsome)) (fun hd => absurd hd hm.2) ?_)
  · rw [noRequest fun _ => isNamed_of_isFormat]
    exact fun ha => by cases ha
  · rw [hw]
    exact fun ha => by cases ha
  · rw [noRequest fun _ => isNamed_of_isRelocLine]
    exact fun ha => by cases ha
  · rintro (hu | ⟨hu, -⟩ | hu)
    · exact absurd hu hm.1
    · exact absurd hu hm.2
    · rw [hi] at hu
      cases hu

end Sys2Proof.Machine

/-! PROOF. Entries to HALTED, to FAULTED and to RECOVERING, and the laws that hold together (R124, R147, R158). -/

namespace Sys2Proof.Machine

/-! ### Entries to HALTED, to FAULTED and to RECOVERING -/

theorem owedEntries_length {q : List Entry}
    (h : ∀ e ∈ q, e.state = .sealed ∨ e.state = .journaling → e.answered = false) (rs : List MediaReq) (reason : Reason) :
    (q.flatMap (endedAnswer rs reason)).length + (q.flatMap owedAnswer).length = q.countP fun e => !e.answered := by
  induction q with
  | nil => rfl
  | cons e q ih =>
    obtain ⟨he, hq⟩ := List.forall_mem_cons.1 h
    have turn : (endedAnswer rs reason e).length + (owedAnswer e).length = if e.answered then 0 else 1 := by
      unfold endedAnswer owedAnswer
      cases hs : e.state with
      | sealed => simp [he (.inl hs)]
      | journaling => simp [he (.inr hs)]
      | durable | applying => cases e.answered <;> rfl
    have counted : (if (!e.answered) = true then 1 else 0) = if e.answered then 0 else 1 := by cases e.answered <;> rfl
    rw [List.flatMap_cons, List.flatMap_cons, List.length_append, List.length_append, List.countP_cons, ← ih hq, counted]
    omega

/-- The closing answers are as many as the taken requests without an answer. -/
theorem closingAnswers_length {s : State} (k : CountLaw (heldWrites s).length s) (reason : Reason) (status : Status) :
    (closingAnswers s s.media.requests s.groups.queue reason status).length = s.fabric.takenUnanswered := by
  rw [k.taken, owedEntries, ← owedEntries_length k.unanswered s.media.requests reason]
  simp only [closingAnswers, heldAnswers, heldWrites, List.length_append, List.length_map]
  omega

theorem journalInUse_iff (s : State) : JournalInUse s ↔
    s.modes.mode = .ready ∨ (s.modes.mode = .draining ∧ s.drain.origin = some .ready) ∨ inFinal s = true := Iff.rfl

theorem recordOf_of_reset {s : State} (h : s.groups = Groups.reset) (st : Stream) : recordOf s st = .absent := by
  rw [recordOf, h]
  exact recordOf_reset st

/-- Entry to HALTED, with every taken request but the entries' answered (R147). -/
theorem enterHalted_partLaws {a : State} (status : DrainStatus) (hw : a.claims.waitList = [])
    (ht : a.fabric.takenUnanswered = (a.groups.queue.flatMap owedAnswer).length)
    (hr : a.fabric.egress.length + a.fabric.takenUnanswered ≤ Config.egressDepth)
    (hn : a.journal.nextSeq = a.journal.durableThrough + 1)
    (hd : (a.journal.durableThrough - a.journal.appliedThrough).toNat ≤ Config.commitDepth)
    (hq : namedRequesters a.media.requests = []) (hl : a.reloc.state = .none) : PartLaws (enterHalted a status) := by
  obtain ⟨sent, -, -⟩ := foldl_sendOwed_eq a.groups.queue a
  obtain ⟨f, w, answered, taken, room⟩ := answerQueues_fabric (a.groups.queue.foldl sendOwed a) .powerfail
  have fabric : (enterHalted a status).fabric = f := by
    rw [enterHalted_eq, answered]
  rw [sent] at taken room
  simp only [List.length_append] at taken room
  have zero : f.takenUnanswered = 0 := by omega
  have egress : f.egress.length ≤ Config.egressDepth := by
    have := room (by omega)
    omega
  have eq := enterHalted_eq a status
  generalize enterHalted a status = t at eq fabric ⊢
  have groups : t.groups = Groups.reset := by rw [eq]
  have staging : t.staging = Staging.reset := by rw [eq]
  have claims : t.claims = a.claims := by rw [eq]
  have reads : t.reads = [] := by rw [eq]
  have journal : t.journal = { a.journal with writer := .idle } := by rw [eq]
  have engine : t.apply = Apply.reset := by rw [eq]
  have mode : t.modes.mode = .halted := by rw [eq]
  have runs : t.recovery = none ∧ t.format = none := by rw [eq]; exact ⟨rfl, rfl⟩
  have reloc : t.reloc = a.reloc := by rw [eq]
  have requests : t.media.requests = a.media.requests := by rw [eq]
  clear eq
  refine HoldsNothing.partLaws_outside ⟨⟨by rw [claims, hw], by rw [staging]; rfl⟩, recordOf_of_reset groups,
    by rw [staging]; rfl, by rw [staging]; rfl, by rw [groups]; rfl, reads, by rw [engine]; rfl, by rw [journal],
    by rw [fabric, zero], by rw [fabric]; exact egress, by rw [journal]; exact hn, by rw [journal]; exact hd,
    fun q hmem => ?_⟩ (by rw [requests, hq]) (by rw [mode]; exact ⟨by decide, by decide⟩) (by rw [reloc, hl])
    (by rw [engine]; rfl) (by simp [runs.1]) (by simp [inFinal, runs.1]) (by simp [runs.2])
    (by rw [staging]; exact fun h => by cases h)
  rw [requests, hq] at hmem
  cases hmem

/-- Entry to FAULTED, whatever else holds, when the taken requests are counted (R158). -/
theorem enterFaulted_partLaws {s : State} (k : CountLaw (heldWrites s).length s)
    (hn : s.journal.nextSeq = s.journal.durableThrough + 1)
    (hd : (s.journal.durableThrough - s.journal.appliedThrough).toNat ≤ Config.commitDepth) :
    PartLaws (enterFaulted s) := by
  obtain ⟨front, h, hfront⟩ := faultAnswers_answered s
  have length : front.length = s.fabric.takenUnanswered := by
    rw [hfront k.serials]
    exact closingAnswers_length k .fault .portDown
  obtain ⟨w, m, r, hf, hmode, -⟩ := faulted_eq s
  generalize faultAnswers s = a at h hf
  have fabric : (faulted s).fabric = fabricAfter s front := by
    rw [hf]
    exact h.fabric
  have taken : (faulted s).fabric.takenUnanswered = 0 := by
    rw [fabric, fabricAfter, length]
    exact Nat.sub_self _
  have egress : (faulted s).fabric.egress.length ≤ Config.egressDepth := by
    have room := k.room
    rw [fabric, fabricAfter, List.length_append, length]
    exact room
  have queue : (faulted s).groups.queue = [] := by rw [hf]; exact h.queue
  have records (st : Stream) : recordOf (faulted s) st = .absent := by rw [hf]; exact h.records st
  have claims : (faulted s).claims.waitList = [] := by rw [hf]; exact h.waitList
  have staging : (faulted s).staging = Staging.reset := by rw [hf]
  have reads : (faulted s).reads = [] := by rw [hf]; exact h.reads
  have journal : (faulted s).journal = { s.journal with writer := .idle } := by rw [hf, h.journal]
  have engine : (faulted s).apply = Apply.reset := by rw [hf]
  have mode : (faulted s).modes.mode = .faulted := by rw [hf]; exact hmode
  have runs : (faulted s).recovery = none ∧ (faulted s).format = none := by rw [hf]; exact ⟨rfl, rfl⟩
  have reloc : (faulted s).reloc.state = .none := by rw [hf]; exact h.relocation
  have requests : (faulted s).media.requests = [] := by rw [hf]
  clear hf
  rw [enterFaulted_eq]
  generalize faulted s = t at *
  split
  · refine enterHalted_partLaws .incomplete claims ?_ ?_ (by rw [journal]; exact hn) (by rw [journal]; exact hd)
      (by rw [requests]; rfl) reloc
    · rw [taken, queue]
      rfl
    · rw [taken]
      exact egress
  · refine HoldsNothing.partLaws_outside ⟨⟨claims, by rw [staging]; rfl⟩, records, by rw [staging]; rfl,
      by rw [staging]; rfl, queue, reads, by rw [engine]; rfl, by rw [journal], taken, egress, by rw [journal]; exact hn,
      by rw [journal]; exact hd, fun q hmem => ?_⟩ (by rw [requests]; rfl) (by rw [mode]; exact ⟨by decide, by decide⟩) reloc
      (by rw [engine]; rfl) (by simp [runs.1]) (by simp [inFinal, runs.1]) (by simp [runs.2])
      (by rw [staging]; exact fun h => by cases h)
    rw [requests] at hmem
    cases hmem

theorem PartLaws.enterFaulted {s : State} (h : PartLaws s) : PartLaws (enterFaulted s) :=
  enterFaulted_partLaws h.buffer.count h.journal.sequence.1 h.journal.sequence.2.1

/-- Entry to RECOVERING behind a link reset, of a part that holds nothing (R124). -/
theorem HoldsNothing.recovering {a : State} {cause : Cause} (h : HoldsNothing a) (hc : cause ≠ .start)
    (hq : namedRequesters a.media.requests = []) (hl : a.reloc.state = .none) (hw : a.apply.withdrawn = false)
    (hf : a.format = none) : PartLaws (enterRecovering a cause) := by
  obtain ⟨w, eq⟩ := enterRecovering_linkReset a hc
  obtain ⟨held, records, slots, index, queue, reads, engine, writer, taken, room, next, unapplied, requests⟩ := h
  rw [eq]
  exact HoldsNothing.partLaws_outside ⟨held, records, slots, index, queue, reads, engine, writer, taken, room, next,
    unapplied, requests⟩ hq ⟨by simp, by simp⟩ hl hw (fun _ => rfl) rfl (by simp [hf]) fun _ => rfl

/-- RESTART's answers leave room, and what runs in the modes as it was. -/
theorem restartAnswered_room {a : State} (k : CountLaw (heldWrites a).length a) :
    (restartAnswered a).fabric.takenUnanswered = 0
      ∧ (restartAnswered a).fabric.egress.length ≤ Config.egressDepth ∧ (restartAnswered a).format = a.format := by
  obtain ⟨-, -, -, cancelled⟩ := cancelReloc_fields a
  obtain ⟨front, aborted, -, -, -, reads, answers⟩ := massAbort_closes (cause := .restart) (by decide) (cancelReloc a)
  have same : (cancelReloc a).fabric = a.fabric ∧ (cancelReloc a).groups = a.groups ∧ (cancelReloc a).media = a.media
      ∧ (cancelReloc a).reads = a.reads ∧ (cancelReloc a).format = a.format
      ∧ heldAnswers (cancelReloc a) .restart = heldAnswers a .restart := by
    rw [cancelled]
    exact ⟨rfl, rfl, rfl, rfl, rfl, rfl⟩
  obtain ⟨sFabric, sGroups, sMedia, sReads, sFormat, sHeld⟩ := same
  rw [restartAnswered]
  generalize cancelReloc a = c at *
  generalize massAbort c .restart = m at *
  have ended := endReads_ends .notReady m.reads m
  generalize endReads m m.reads .notReady = r at *
  obtain ⟨u, dropped, -, -, hdrop⟩ := dropPosted_eq r
  have whole := (aborted.trans ended).trans dropped
  have closing : front ++ m.reads.map (fun e => plainAnswer e.stream e.tag .notReady) ++ []
      = closingAnswers a a.media.requests a.groups.queue .restart .notReady := by
    rw [List.append_nil, answers (by rw [SerialsDistinct, sGroups]; exact k.serials), reads, sReads, sGroups, sMedia,
      show AbortCause.restart.reason = .restart from rfl, sHeld]
    rfl
  have fabric := whole.fabric
  rw [closing, fabricAfter, sFabric, closingAnswers_length k] at fabric
  obtain ⟨f, w, eq, taken, room⟩ := answerQueues_fabric { u with posted := { u.posted with records := [] } } .notReady
  have before : u.fabric.takenUnanswered = 0 ∧ u.fabric.egress.length ≤ Config.egressDepth := by
    have room := k.room
    rw [fabric]
    refine ⟨Nat.sub_self _, ?_⟩
    rw [List.length_append, closingAnswers_length k]
    exact room
  have after := room (by rw [before.1]; exact before.2)
  simp only [hdrop]
  rw [eq]
  refine ⟨taken.trans before.1, ?_, whole.format.trans sFormat⟩
  change f.egress.length ≤ _
  omega

/-- RESTART (R122). -/
theorem PartLaws.restartPart {s : State} (h : PartLaws s) (hm : s.modes.mode ≠ .formatting) : PartLaws (restartPart s) := by
  obtain ⟨taken, egress, format⟩ := restartAnswered_room h.buffer.count
  have spec := restartAnswered_spec s
  have part : Machine.restartPart s =
      enterRecovering (reinitStaging (abandonAll (idleWorkers (restartAnswered s)))) .restart := rfl
  rw [part]
  generalize restartAnswered s = q at *
  have none : q.format = none := by
    rw [format]
    cases hf : s.format with
    | none => rfl
    | some f => exact absurd (h.control.mode.2.1 (by rw [hf]; rfl)) hm
  have nothing : HoldsNothing (reinitStaging (abandonAll (idleWorkers q))) := by
    rw [restartCleared_eq]
    exact ⟨⟨spec.waitList, rfl⟩, spec.records, rfl, rfl, spec.queue, spec.reads, rfl, rfl, taken, egress,
      (congrArg Journal.nextSeq spec.journal).trans (h.journal.sequence.1.trans (by rw [spec.journal])),
      by rw [spec.journal]; exact h.journal.sequence.2.1, fun q hq => by cases hq⟩
  exact nothing.recovering (by decide) rfl spec.reloc rfl none

end Sys2Proof.Machine

/-! PROOF. The end of an event and the test of the drain controller, and the laws that hold together (R47, R145). -/

namespace Sys2Proof.Machine

/-! ### The end of an event, and the test of the drain controller -/

/-- In READY the part may hold anything but the scratch (R37). -/
theorem contentsLaw_ready {s : State} (hm : s.modes.mode = .ready) : ContentsLaw s ↔ s.staging.scratch = none := by
  unfold ContentsLaw
  rw [hm]
  cases s.staging.scratch <;> simp

theorem Quiet.setWriter {s t : State} (h : Quiet s t) (x : Writer) : Quiet (setWriter s x) (setWriter t x) :=
  { h with journal := by simp only [Machine.setWriter]; rw [h.journal] }

theorem JournalLaws.quiet {s t : State} (h : JournalLaws s) (k : Quiet s t) : JournalLaws t :=
  h.congr k.queue (by rw [k.media]) k.journal (by rw [k.modes]) (by rw [k.drain]) k.recovery

theorem ControlLaws.quiet {s t : State} (h : ControlLaws s) (k : Quiet s t) (hm : s.modes.mode = .ready) : ControlLaws t := by
  have mode : t.modes.mode = s.modes.mode := by rw [k.modes]
  refine ⟨h.mode.congr k.queue (by rw [k.media]) mode k.recovery k.format (by rw [k.apply]) (by rw [k.reloc]), ?_,
    h.target.congr (by rw [k.reloc]) (by rw [k.reloc]) (by rw [k.decoder]) (by rw [k.media]) mode (by rw [k.posted])⟩
  rw [contentsLaw_ready (mode.trans hm), k.scratch]
  exact (contentsLaw_ready hm).1 h.contents

/-- The end of an event in READY, with the writer's state as it is to be. -/
theorem Laws.settled {w : Work} {x : Writer} (hb : HeldBuffer w.s) (hj : JournalLaws (setWriter w.s x))
    (hc : ControlLaws (setWriter w.s x)) (hm : w.s.modes.mode = .ready) : PartLaws (setWriter (settle w) x) :=
  have quiet := (settle_quiet w).setWriter x
  ⟨(hb.settle).1.congr, hj.quiet quiet, hc.quiet quiet hm⟩

/-- The end of an event keeps the laws. -/
theorem PartLaws.settle {w : Work} (h : PartLaws w.s) (hl : HeldLaw w.s) : PartLaws (settle w) := by
  by_cases hm : w.s.modes.mode = .ready
  · have buffer : HeldBuffer w.s := ⟨h.buffer, hl⟩
    exact ⟨buffer.settle.1, h.journal.quiet (settle_quiet w), h.control.quiet (settle_quiet w) hm⟩
  · obtain ⟨⟨wait, slot⟩, -⟩ := h.control.contents.1 hm
    rwa [settle_noneHeld w wait slot]

/-- Two states with the same writes held. -/
def SameHeld (s t : State) : Prop :=
  t.claims.waitList = s.claims.waitList ∧ t.staging.slotWait = s.staging.slotWait

theorem SameHeld.refl (s : State) : SameHeld s s := ⟨rfl, rfl⟩

theorem SameHeld.trans {s t u : State} (h : SameHeld s t) (k : SameHeld t u) : SameHeld s u :=
  ⟨k.1.trans h.1, k.2.trans h.2⟩

theorem SameHeld.still {s t : State} (h : t.claims = s.claims ∧ t.staging = s.staging) : SameHeld s t :=
  ⟨by rw [h.1], by rw [h.2]⟩

theorem SameHeld.heldWrites {s t : State} (h : SameHeld s t) : heldWrites t = heldWrites s := by
  rw [Machine.heldWrites, h.1, h.2, Machine.heldWrites]

theorem Laws.part {s t : State} (h : Laws (heldWrites s).length t) (k : SameHeld s t) : PartLaws t := by
  rw [PartLaws, k.heldWrites]
  exact h

theorem SameHeld.ite {s t u : State} {p : Prop} [Decidable p] (h : SameHeld s t) (k : SameHeld s u) :
    SameHeld s (if p then t else u) := by
  split
  · exact h
  · exact k

theorem SameHeld.foldl {α : Type} {f : State → α → State} (h : ∀ s a, SameHeld s (f s a)) (l : List α) (s : State) :
    SameHeld s (l.foldl f s) := by
  induction l generalizing s with
  | nil => exact .refl s
  | cons a l ih => exact (h s a).trans (ih (f s a))

theorem raiseTrigger_sameHeld (s : State) : SameHeld s (raiseTrigger s) := .ite ⟨rfl, rfl⟩ ⟨rfl, rfl⟩

theorem relocTrigger_sameHeld (b s : State) : SameHeld s (relocTrigger b s) := .ite (raiseTrigger_sameHeld s) (.refl s)

theorem endCheckpoint_sameHeld (s : State) : SameHeld s (endCheckpoint s) := .ite ⟨rfl, rfl⟩ ⟨rfl, rfl⟩

theorem answerOwed_sameHeld (s : State) : SameHeld s (answerOwed s) :=
  .foldl (fun s k => .still (tryAnswer_still s k)) _ s

theorem reportPosted_sameHeld (s : State) (p : PostedRecord) : SameHeld s (reportPosted s p) :=
  SameHeld.trans (t := { s with groups := { s.groups with queue := s.groups.queue.map (lowerBarrier p.stream p.serial) } })
    ⟨rfl, rfl⟩ (answerOwed_sameHeld _)

theorem beginJournal_sameHeld (s : State) (e : Entry) : SameHeld s (beginJournal s e) := by
  unfold beginJournal
  dsimp only
  split
  · exact ⟨rfl, rfl⟩
  · split
    · exact SameHeld.trans (t := setFlag (setWriter (mapSlots (mapEntry s e.serial (begunEntry s)) e.slots
        fun v => { v with state := .journaling }) .waitingSpace) .journalLow) ⟨rfl, rfl⟩ (raiseTrigger_sameHeld _)
    · exact ⟨rfl, rfl⟩

theorem writerLooks_sameHeld (k : Nat) (s : State) : SameHeld s (writerLooks k s) := by
  induction k generalizing s with
  | zero => exact .refl s
  | succ k ih =>
    rw [writerLooks]
    split
    · split
      · exact .refl s
      · split
        · exact SameHeld.trans (t := mapEntry s _ _) ⟨rfl, rfl⟩ ((SameHeld.still (tryAnswer_still _ _)).trans (ih _))
        · exact beginJournal_sameHeld s _
    · exact .refl s

theorem writerLook_sameHeld (s : State) : SameHeld s (writerLook s) := writerLooks_sameHeld _ s

theorem applyLook_sameHeld (s : State) : SameHeld s (applyLook s) := by
  unfold applyLook
  split
  · split
    · exact .refl s
    · exact ⟨rfl, rfl⟩
  · exact .refl s

theorem recheckSpace_sameHeld (s : State) : SameHeld s (recheckSpace s) := by
  unfold recheckSpace
  split
  · split
    · exact .refl s
    · exact .ite ⟨rfl, rfl⟩ (.refl s)
  · exact .refl s

theorem settleHeldAnswers_sameHeld (s : State) : SameHeld s (settleHeldAnswers s) := by
  obtain ⟨f, w, eq, -⟩ := enterHeldAnswers_fabric (ingressCount s) s
  rw [settleHeldAnswers, eq]
  exact ⟨rfl, rfl⟩

theorem PartLaws.raiseTrigger {s : State} (h : PartLaws s) : PartLaws (raiseTrigger s) :=
  (Laws.raiseTrigger h).part (raiseTrigger_sameHeld s)

theorem PartLaws.relocTrigger {s : State} (h : PartLaws s) (b : State) : PartLaws (relocTrigger b s) :=
  (Laws.relocTrigger h b).part (relocTrigger_sameHeld b s)

theorem PartLaws.congr {s t : State} (h : PartLaws s) (hg : t.groups = s.groups := by rfl)
    (hs : t.staging = s.staging := by rfl)
    (hc : t.claims.waitList = s.claims.waitList := by rfl) (hd : t.reads = s.reads := by rfl)
    (hr : t.media.requests = s.media.requests := by rfl) (ha : t.apply = s.apply := by rfl)
    (hm : t.modes.mode = s.modes.mode := by rfl)
    (ho : t.drain.origin = s.drain.origin := by rfl) (hf : t.drain.finalRaised = s.drain.finalRaised := by rfl)
    (hj : t.journal = s.journal := by rfl) (hv : t.recovery = s.recovery := by rfl)
    (hx : t.format = s.format := by rfl)
    (hl : t.reloc = s.reloc := by rfl)
    (hgt : t.decoder.guardTarget = s.decoder.guardTarget := by rfl)
    (hp : t.posted.records = s.posted.records := by rfl)
    (ht : t.fabric.takenUnanswered = s.fabric.takenUnanswered := by rfl)
    (he : t.fabric.egress = s.fabric.egress := by rfl) : PartLaws t :=
  (Laws.congr h hg hs hc hd hr ha hm ho hf hj hv hx hl hgt hp ht he).part ⟨hc, by rw [hs]⟩

/-- The drain controller's test (R145). -/
theorem PartLaws.drainTest {s : State} (h : PartLaws s) : PartLaws (drainTest s) := by
  unfold Machine.drainTest
  split
  · rename_i hm
    split
    · rename_i ho
      split
      · rename_i hdone
        rw [drainComplete_iff] at hdone
        push Not at hdone
        obtain ⟨writer, -, reads, requests⟩ := hdone
        have raised : PartLaws { s with drain := { s.drain with finalRaised := true } } := by
          obtain ⟨c1, c2, c3, -, c5⟩ := h.control.contents
          refine ⟨h.buffer.congr, h.journal.congr, h.control.mode.congr, ⟨c1, c2, c3, fun _ _ => ⟨writer, reads, ?_⟩, c5⟩,
            h.control.target.congr⟩
          rw [requests]
          exact fun r hr => by cases hr
        exact raised.raiseTrigger
      · exact h
    · rename_i ho
      split
      · rename_i hq
        have requests : s.media.requests = [] := by
          rw [Bool.and_eq_true, portQuiet, List.isEmpty_iff] at hq
          exact hq.1
        have nothing := h.holdsNothing (by simp [hm]) fun _ => by simp [ho]
        refine enterHalted_partLaws .complete nothing.held.1 ?_ ?_ nothing.next nothing.unapplied (by rw [requests]; rfl) ?_
        · rw [nothing.taken, nothing.queue]
          rfl
        · rw [nothing.taken]
          exact nothing.room
        · by_contra hr
          have := h.control.mode.2.2.2.2.1 hr
          rw [hm] at this
          cases this
      · exact h
    · exact h
    · exact h
  · exact h

end Sys2Proof.Machine

/-! PROOF. Reads that begin and reads that end, and the laws that hold together (R35, R72, R78). -/

namespace Sys2Proof.Machine

/-! ### Reads that begin and reads that end -/

section Reads

variable {n : Nat} {s : State} {e : TrackerEntry}

theorem pin_refits (s : State) (ns : List Nat) : Refits s (pin s ns) := mapSlots_refits fun _ => ⟨rfl, rfl, rfl, rfl⟩

/-- A taken read is tracked and pins the slots that it lists (R35, R70). -/
theorem BufferLaws.track (k : BufferLaws (n + 1) s) (hf : ∀ x ∈ s.reads, x.serial ≠ e.serial) (hp : e.pinned.Nodup)
    (hv : ∀ m ∈ e.pinned, ∃ v ∈ s.staging.slots, v.num = m) : BufferLaws n (track (Machine.pin s e.pinned) e) := by
  have r : Refits s (Machine.track (Machine.pin s e.pinned) e) := ⟨(pin_refits s e.pinned).back, (pin_refits s e.pinned).forth⟩
  have pinned {m : Nat} (h : ∃ v ∈ s.staging.slots, v.num = m) : ∃ u ∈ (Machine.pin s e.pinned).staging.slots, u.num = m := by
    obtain ⟨v, hv, hnum⟩ := h
    refine ⟨_, List.mem_map_of_mem hv, ?_⟩
    split <;> exact hnum
  have staging : StagingLaw (Machine.pin s e.pinned) := (pin_path s e.pinned).keepsStaging k.staging
  obtain ⟨serials, reads, unanswered, taken, room⟩ := k.count
  refine ⟨staging.congr, k.owner.refit r, k.index.refit r, k.claim.refit r, ⟨fun x hx => ?_, fun u hu => ?_⟩,
    k.home.refit r, ⟨serials, ?_, unanswered, ?_, room⟩⟩
  · rcases List.mem_append.1 hx with hx | hx
    · exact ⟨(k.pin.1 x hx).1, fun m hm => pinned ((k.pin.1 x hx).2 m hm)⟩
    · rw [List.mem_singleton.1 hx]
      exact ⟨hp, fun m hm => pinned (hv m hm)⟩
  · obtain ⟨v, hv, rfl⟩ := List.mem_map.1 hu
    change _ = (s.reads ++ [e]).countP _
    rw [List.countP_append, List.countP_singleton]
    by_cases hn : v.num ∈ e.pinned
    · rw [if_pos hn]
      simp only [List.contains_iff_mem, hn, if_true]
      rw [k.pin.2 v hv]
    · rw [if_neg hn]
      simp only [List.contains_iff_mem, hn, if_false]
      rw [k.pin.2 v hv]
      rw [Nat.add_zero]
  · change ((s.reads ++ [e]).map TrackerEntry.serial).Nodup
    rw [List.map_append]
    refine List.nodup_append.2 ⟨reads, List.nodup_singleton _, fun a ha b hb => ?_⟩
    obtain ⟨x, hx, rfl⟩ := List.mem_map.1 ha
    rw [List.mem_singleton.1 hb]
    exact hf x hx
  · change s.fabric.takenUnanswered = n + (s.reads ++ [e]).length + owedEntries s
    rw [List.length_append, List.length_singleton]
    omega

/-- A slot that stays when a read unpins slots. -/
theorem mem_unpinSlot_iff {ns : List Nat} {l : List Slot} {u : Slot} :
    u ∈ l.filterMap (unpinSlot ns) ↔ (u ∈ l ∧ u.num ∉ ns)
      ∨ ∃ v ∈ l, v.num ∈ ns ∧ ¬(v.pins - 1 = 0 ∧ (v.state = .spent ∨ v.state = .aborted)) ∧ u = { v with pins := v.pins - 1 } := by
  rw [List.mem_filterMap]
  constructor
  · rintro ⟨v, hv, h⟩
    unfold unpinSlot at h
    split at h
    · rename_i hn
      split at h
      · cases h
      · rename_i hp
        exact .inr ⟨v, hv, hn, hp, (Option.some.inj h).symm⟩
    · rename_i hn
      obtain rfl := Option.some.inj h
      exact .inl ⟨hv, hn⟩
  · rintro (⟨hu, hn⟩ | ⟨v, hv, hn, hp, rfl⟩)
    · exact ⟨u, hu, if_neg hn⟩
    · exact ⟨v, hv, by rw [unpinSlot, if_pos hn, if_neg hp]⟩

theorem unpin_refits (w : Work) (ns : List Nat) : Refits w.s (unpin w ns).s := by
  refine ⟨fun u hu => ?_, fun v hv hstands => ?_⟩
  · rcases mem_unpinSlot_iff.1 hu with ⟨hu, -⟩ | ⟨v, hv, -, -, rfl⟩
    · exact ⟨u, hu, ⟨rfl, rfl, rfl, rfl⟩⟩
    · exact ⟨v, hv, ⟨rfl, rfl, rfl, rfl⟩⟩
  · by_cases hn : v.num ∈ ns
    · exact ⟨_, mem_unpinSlot_iff.2 (.inr ⟨v, hv, hn, fun h => h.2.elim hstands.1 hstands.2, rfl⟩), ⟨rfl, rfl, rfl, rfl⟩⟩
    · exact ⟨v, mem_unpinSlot_iff.2 (.inl ⟨hv, hn⟩), ⟨rfl, rfl, rfl, rfl⟩⟩

theorem reads_split (hd : (s.reads.map TrackerEntry.serial).Nodup) (he : e ∈ s.reads) :
    ∃ front back, s.reads = front ++ e :: back ∧ (s.reads.filter fun x => x.serial != e.serial) = front ++ back := by
  obtain ⟨front, back, hq⟩ := List.append_of_mem he
  rw [hq, List.map_append, List.map_cons, List.nodup_append, List.nodup_cons] at hd
  obtain ⟨-, ⟨hself, -⟩, hcross⟩ := hd
  refine ⟨front, back, hq, ?_⟩
  have hf : front.filter (fun x => x.serial != e.serial) = front := List.filter_eq_self.2 fun x hx => by
    simpa using hcross _ (List.mem_map_of_mem hx) _ (List.mem_cons_self ..)
  have hb : back.filter (fun x => x.serial != e.serial) = back := List.filter_eq_self.2 fun x hx => by
    have other : x.serial ≠ e.serial := fun heq => hself (heq ▸ List.mem_map_of_mem hx)
    simpa using other
  rw [hq, List.filter_append, List.filter_cons_of_neg (by simp), hf, hb]

/-- The part in which a read has unpinned its slots and left the tracker, before it is answered. -/
def readEnded (s : State) (e : TrackerEntry) : State :=
  { (unpin (Work.start s) e.pinned).s with reads := s.reads.filter fun x => x.serial != e.serial }

/-- A read ends (R35, R36). -/
theorem BufferLaws.readEnded (k : BufferLaws n s) (he : e ∈ s.reads) : BufferLaws (n + 1) (readEnded s e) := by
  have r : Refits s (Machine.readEnded s e) := ⟨(unpin_refits (Work.start s) e.pinned).back,
    (unpin_refits (Work.start s) e.pinned).forth⟩
  have staging : StagingLaw (unpin (Work.start s) e.pinned).s := (unpin_path (Work.start s) e.pinned).keepsStaging k.staging
  obtain ⟨serials, reads, unanswered, taken, room⟩ := k.count
  obtain ⟨front, back, hq, hrest⟩ := reads_split reads he
  have count (m : Nat) : (s.reads.countP fun x => x.pinned.contains m)
      = ((front ++ back).countP fun x => x.pinned.contains m) + if m ∈ e.pinned then 1 else 0 := by
    rw [hq, List.countP_append, List.countP_append, List.countP_cons]
    simp only [List.contains_iff_mem]
    omega
  refine ⟨staging.congr, k.owner.refit r, k.index.refit r, k.claim.refit r, ⟨fun x hx => ?_, fun u hu => ?_⟩,
    k.home.refit r, ⟨serials, ?_, unanswered, ?_, room⟩⟩
  · have hold : x ∈ s.reads := List.mem_of_mem_filter hx
    refine ⟨(k.pin.1 x hold).1, fun m hm => ?_⟩
    obtain ⟨v, hv, rfl⟩ := (k.pin.1 x hold).2 m hm
    by_cases hn : v.num ∈ e.pinned
    · refine ⟨_, mem_unpinSlot_iff.2 (.inr ⟨v, hv, hn, fun h => ?_, rfl⟩), rfl⟩
      have pins := k.pin.2 v hv
      rw [count, if_pos hn] at pins
      change x ∈ s.reads.filter _ at hx
      rw [hrest] at hx
      have pos : 0 < (front ++ back).countP fun x => x.pinned.contains v.num :=
        List.countP_pos_iff.2 ⟨x, hx, by simpa using hm⟩
      omega
    · exact ⟨v, mem_unpinSlot_iff.2 (.inl ⟨hv, hn⟩), rfl⟩
  · change _ = (s.reads.filter fun x => x.serial != e.serial).countP _
    rw [hrest]
    rcases mem_unpinSlot_iff.1 hu with ⟨hu, hn⟩ | ⟨v, hv, hn, -, rfl⟩
    · have pins := k.pin.2 u hu
      rw [count, if_neg hn] at pins
      exact pins
    · have pins := k.pin.2 v hv
      rw [count, if_pos hn] at pins
      simp only
      omega
  · exact reads.sublist (List.filter_sublist.map _)
  · change s.fabric.takenUnanswered = n + 1 + (s.reads.filter fun x => x.serial != e.serial).length + owedEntries s
    rw [hrest, taken, hq]
    simp only [List.length_append, List.length_cons]
    omega

theorem ControlLaws.readEnded (k : ControlLaws s) : ControlLaws (readEnded s e) := by
  obtain ⟨mode, ⟨c1, c2, c3, c4, c5⟩, target⟩ := k
  have slots (h : s.staging.slots = []) : (Machine.readEnded s e).staging.slots = [] := by
    change s.staging.slots.filterMap _ = []
    rw [h]
    rfl
  have reads (h : s.reads = []) : (Machine.readEnded s e).reads = [] := by
    change s.reads.filter _ = []
    rw [h]
    rfl
  refine ⟨mode.congr, ⟨c1, fun hm ho => ?_, c3, fun hm hf => ?_, fun hs => ?_⟩, target.congr⟩
  · obtain ⟨h1, h2, h3⟩ := c2 hm ho
    exact ⟨slots h1, h2, reads h3⟩
  · obtain ⟨h1, h2, h3⟩ := c4 hm hf
    exact ⟨h1, reads h2, h3⟩
  · obtain ⟨h1, h2⟩ := c5 hs
    exact ⟨slots h1, h2⟩

theorem Laws.readEnded (k : Laws n s) (he : e ∈ s.reads) : Laws (n + 1) (readEnded s e) :=
  ⟨k.buffer.readEnded he, k.journal.congr, k.control.readEnded⟩

/-- A read is answered and ends, and the slots that it frees are offered to waiters (R36, R78). -/
theorem PartLaws.answerRead (k : PartLaws s) (hl : HeldLaw s) (he : e ∈ s.reads) (r : Response) :
    PartLaws (answerRead s e r) := by
  have ended : PartLaws (unpin (Work.start (untrack (answerTaken s r) e)) e.pinned).s :=
    (((Laws.readEnded k he).answerTaken r).congr).part ⟨rfl, rfl⟩
  refine (ended.settle ?_).drainTest
  exact (unpin_calm (Work.start (untrack (Machine.answerTaken s r) e)) e.pinned).held trivial hl

theorem trackerAt_spec {k : Serial} {x : TrackerEntry} (h : trackerAt s k = some x) : x ∈ s.reads :=
  List.mem_of_find?_eq_some h

theorem PartLaws.homeReadReturned (k : PartLaws s) (hl : HeldLaw s) (m : Serial) (d : Line) :
    PartLaws (homeReadReturned m d s) := by
  unfold Machine.homeReadReturned
  split
  · exact k
  · exact k.answerRead hl (trackerAt_spec ‹_›) _

theorem PartLaws.homeReadFailed (k : PartLaws s) (hl : HeldLaw s) (m : Serial) : PartLaws (homeReadFailed m s) := by
  unfold Machine.homeReadFailed
  split
  · exact k
  · exact k.answerRead hl (trackerAt_spec ‹_›) _

end Reads

end Sys2Proof.Machine

/-! PROOF. A group is sealed, and the laws that hold together (R10, R12). -/

namespace Sys2Proof.Machine

/-! ### A group is sealed -/

section Seal

variable {n : Nat} {s : State} {g : Grant}

/-- The slots of a group that has been sealed. -/
def sealedSlots (s : State) (g : Grant) : List Slot :=
  s.staging.slots.map fun v => if v.num ∈ (recordOf s g.stream).slots then sealSlot (sealedEntry s g) v else v

/-- The part in which a group has been sealed. -/
theorem sealGroup_eq (s : State) (g : Grant) :
    sealGroup s g = { s with
      groups := { table := s.groups.table.write g.stream .absent, queue := s.groups.queue ++ [sealedEntry s g] }
      staging := { s.staging with slots := sealedSlots s g } } := rfl

theorem BufferLaws.sealGroup (k : BufferLaws (n + 1) s) (hf : ∀ e ∈ s.groups.queue, e.serial ≠ s.fabric.takeSerial) :
    BufferLaws n (sealGroup s g) := by
  obtain ⟨staging, owner, index, claim, pin, home, count⟩ := id k
  have records (st : Stream) :
      recordOf (Machine.sealGroup s g) st = if g.stream = st then .absent else recordOf s st := by
    rw [sealGroup_eq]
    exact recordOf_setRecord s g.stream st .absent
  have opened {v : Slot} (hv : v ∈ s.staging.slots) (hn : v.num ∈ (recordOf s g.stream).slots) :
      RecordOwns s g.stream v := owner.recordOwns staging hv hn
  have stays {v : Slot} (hv : v ∈ s.staging.slots) (hn : v.num ∉ (recordOf s g.stream).slots) :
      v ∈ (Machine.sealGroup s g).staging.slots := List.mem_map.2 ⟨v, hv, if_neg hn⟩
  have goes {v : Slot} (hv : v ∈ s.staging.slots) (hn : v.num ∈ (recordOf s g.stream).slots) :
      sealSlot (sealedEntry s g) v ∈ (Machine.sealGroup s g).staging.slots := List.mem_map.2 ⟨v, hv, if_pos hn⟩
  have back {u : Slot} (hu : u ∈ (Machine.sealGroup s g).staging.slots) :
      (u ∈ s.staging.slots ∧ u.num ∉ (recordOf s g.stream).slots)
        ∨ ∃ v ∈ s.staging.slots, v.num ∈ (recordOf s g.stream).slots ∧ u = sealSlot (sealedEntry s g) v := by
    obtain ⟨v, hv, rfl⟩ := List.mem_map.1 (show u ∈ sealedSlots s g from hu)
    by_cases hn : v.num ∈ (recordOf s g.stream).slots
    · rw [if_pos hn]
      exact .inr ⟨v, hv, hn, rfl⟩
    · rw [if_neg hn]
      exact .inl ⟨hv, hn⟩
  have newOwns {v : Slot} (hn : v.num ∈ (recordOf s g.stream).slots) :
      (sealedEntry s g).owns (sealSlot (sealedEntry s g) v) := ⟨rfl, rfl, hn⟩
  have mem : sealedEntry s g ∈ (Machine.sealGroup s g).groups.queue := List.mem_append_right _ (List.mem_singleton_self _)
  have queue : (Machine.sealGroup s g).groups.queue = s.groups.queue ++ [sealedEntry s g] := rfl
  have path : Path s (mapSlots s (recordOf s g.stream).slots (sealSlot (sealedEntry s g))) :=
    mapSlots_path s _ _ (fun _ => rfl) fun _ hv => by cases hv
  refine ⟨(path.keepsStaging staging).congr, ⟨fun st => ?_, fun e he => ?_, fun u hu => ?_⟩,
    ⟨index.1, fun x hx => ?_, fun u hu h1 h2 => ?_⟩, fun u hu w hw hcu hcw hline => ?_,
    ⟨fun e he => ⟨(pin.1 e he).1, fun m hm => ?_⟩, fun u hu => ?_⟩, ?_, ?_⟩
  · rw [records]
    by_cases hst : g.stream = st
    · rw [if_pos hst]
      exact ⟨.nil, fun m hm => by cases hm⟩
    · rw [if_neg hst]
      refine ⟨(owner.1 st).1, fun m hm => ?_⟩
      obtain ⟨v, hv, rfl, howns⟩ := (owner.1 st).2 m hm
      refine ⟨v, stays hv fun hn => hst (owner.record_inj staging hn hm), rfl, howns.congr ?_⟩
      rw [records, if_neg hst]
  · rcases List.mem_append.1 he with he | he
    · refine ⟨(owner.2.1 e he).1, fun ha m hm => ?_⟩
      obtain ⟨v, hv, rfl, howns⟩ := (owner.2.1 e he).2 ha m hm
      exact ⟨v, stays hv fun hn => owner.record_entry staging hn he ha hm, rfl, howns⟩
    · obtain rfl := List.mem_singleton.1 he
      refine ⟨(owner.1 g.stream).1, fun _ m hm => ?_⟩
      obtain ⟨v, hv, rfl, -⟩ := (owner.1 g.stream).2 m hm
      exact ⟨_, goes hv hm, rfl, newOwns hm⟩
  · rcases back hu with ⟨hu, hn⟩ | ⟨v, hv, hn, rfl⟩
    · have owned := owner.2.2 u hu
      split
      · rwa [if_pos ‹_›] at owned
      · rw [if_neg ‹_›] at owned
        refine owned.imp (fun ⟨st, howns⟩ => ⟨st, howns.congr ?_⟩) fun ⟨e, he, hrest⟩ =>
          ⟨e, List.mem_append_left _ he, hrest⟩
        rw [records, if_neg fun hst : g.stream = st => hn (by rw [hst]; exact howns.2.2)]
    · rw [if_neg (by simp [sealSlot])]
      exact .inr ⟨_, mem, rfl, newOwns hn⟩
  · obtain ⟨v, hv, hnum, hline, hstate⟩ := index.2.1 x hx
    by_cases hn : v.num ∈ (recordOf s g.stream).slots
    · exact ⟨_, goes hv hn, hnum, hline, by simp [sealSlot]⟩
    · exact ⟨v, stays hv hn, hnum, hline, hstate⟩
  · rcases back hu with ⟨hu, -⟩ | ⟨v, hv, hn, rfl⟩
    · exact index.2.2 u hu h1 h2
    · have hopen := (opened hv hn).2.1
      exact index.2.2 v hv (by simp [hopen]) (by simp [hopen])
  · have before {y : Slot} (hy : y ∈ (Machine.sealGroup s g).staging.slots) (hcy : y.state.claims = true) :
        ∃ z ∈ s.staging.slots, z.state.claims = true ∧ z.line = y.line ∧ z.claimant? = y.claimant? := by
      rcases back hy with ⟨hy, -⟩ | ⟨v, hv, hn, rfl⟩
      · exact ⟨y, hy, hcy, rfl, rfl⟩
      · obtain ⟨hown, hopen, -⟩ := opened hv hn
        refine ⟨v, hv, by rw [hopen]; rfl, rfl, ?_⟩
        rw [Slot.claimant?, Slot.claimant?, hopen, hown]
        rfl
    obtain ⟨y, hy, hcy, hyl, hyc⟩ := before hu hcu
    obtain ⟨z, hz, hcz, hzl, hzc⟩ := before hw hcw
    rw [← hyc, ← hzc]
    exact claim y hy z hz hcy hcz (by rw [hyl, hzl, hline])
  · obtain ⟨v, hv, hnum⟩ := (pin.1 e he).2 m hm
    by_cases hn : v.num ∈ (recordOf s g.stream).slots
    · exact ⟨_, goes hv hn, hnum⟩
    · exact ⟨v, stays hv hn, hnum⟩
  · rcases back hu with ⟨hu, -⟩ | ⟨v, hv, -, rfl⟩
    · exact pin.2 u hu
    · exact pin.2 v hv
  · obtain ⟨h1, h2, h3, h4, h5, h6⟩ := home
    refine ⟨h1, fun m hm => ?_, ?_, ?_, fun hm hc e he ha => ?_, fun hw e he hc u hu hstate howns => ?_⟩
    · obtain ⟨v, hv, hnum, hstate⟩ := h2 m hm
      refine ⟨v, stays hv fun hn => ?_, hnum, hstate⟩
      rw [(opened hv hn).2.1] at hstate
      cases hstate
    · exact h3.imp id fun ⟨e, he, hrest⟩ => ⟨e, List.mem_append_left _ he, hrest⟩
    · rw [queue, List.countP_append]
      simpa [sealedEntry] using h4
    · rcases List.mem_append.1 he with he | he
      · exact h5 hm hc e he ha
      · rw [List.mem_singleton.1 he] at ha
        cases ha
    · rcases back hu with ⟨hu, -⟩ | ⟨v, -, -, rfl⟩
      · rcases List.mem_append.1 he with he | he
        · exact h6 hw e he hc u hu hstate howns
        · rw [List.mem_singleton.1 he] at howns
          have := howns.2.1
          rw [hstate] at this
          cases this
      · cases hstate
  · obtain ⟨serials, reads, unanswered, taken, room⟩ := count
    refine ⟨?_, reads, fun e he hstate => ?_, ?_, room⟩
    · rw [SerialsDistinct, queue, List.map_append]
      refine List.nodup_append.2 ⟨serials, List.nodup_singleton _, fun a ha b hb => ?_⟩
      obtain ⟨e, he, rfl⟩ := List.mem_map.1 ha
      rw [List.mem_singleton.1 hb]
      exact hf e he
    · rcases List.mem_append.1 he with he | he
      · exact unanswered e he hstate
      · rw [List.mem_singleton.1 he]
        rfl
    · change s.fabric.takenUnanswered = n + s.reads.length + owedEntries (Machine.sealGroup s g)
      rw [owedEntries, queue, List.countP_append, List.countP_singleton]
      rw [owedEntries] at taken
      refine taken.trans ?_
      simp only [sealedEntry, Bool.not_false, if_true]
      omega

theorem Laws.sealGroup (k : Laws (n + 1) s) (hm : s.modes.mode = .ready)
    (hf : ∀ e ∈ s.groups.queue, e.serial ≠ s.fabric.takeSerial) (hr : s.reloc.state = .none) : Laws n (sealGroup s g) := by
  have queue : (Machine.sealGroup s g).groups.queue = s.groups.queue ++ [sealedEntry s g] := rfl
  have mem {e : Entry} (he : e ∈ (Machine.sealGroup s g).groups.queue) : e ∈ s.groups.queue ∨ e = sealedEntry s g :=
    (List.mem_append.1 he).imp_right List.mem_singleton.1
  obtain ⟨writer, space, s1, s2, s3, s4, s5, s6, s7⟩ := k.journal
  have unapplied : unappliedEntries (Machine.sealGroup s g) = unappliedEntries s := by
    rw [unappliedEntries, queue, List.filter_append, unappliedEntries]
    simp [sealedEntry]
  refine ⟨k.buffer.sealGroup hf, ⟨⟨?_, writer.2⟩, fun hu => ⟨(space hu).1, fun failed hfail e he hj => ?_⟩, s1, s2, ?_,
    fun e he hj => ?_, fun e he hd => ?_, ?_, fun hu => ?_⟩, ?_, ?_, k.control.target.congr⟩
  · refine Eq.trans ?_ writer.1
    rw [queue, List.countP_append]
    simp [sealedEntry]
  · rcases mem he with he | rfl
    · exact (space hu).2 failed hfail e he hj
    · cases hj
  · change queueInOrder (Machine.sealGroup s g).groups.queue
    rw [queue]
    exact queueInOrder_append.2 ⟨⟨s3, .nil, fun _ _ _ y hy => by cases hy⟩,
      fun _ => ⟨fun _ _ _ => Nat.zero_le _, fun y hy => by cases hy⟩⟩
  · rcases mem he with he | rfl
    · exact s4 e he hj
    · cases hj
  · rcases mem he with he | rfl
    · exact s5 e he hd
    · cases hd
  · rw [unapplied]
    exact s6
  · rw [unapplied]
    exact s7 hu
  · obtain ⟨m1, m2, m3, m4, m5, -⟩ := k.control.mode
    exact ⟨m1, m2, m3, m4, m5, fun h => absurd hr h⟩
  · rw [contentsLaw_ready (show (Machine.sealGroup s g).modes.mode = .ready from hm)]
    exact (contentsLaw_ready hm).1 k.control.contents

end Seal

end Sys2Proof.Machine

/-! PROOF. Takes, and the laws that hold together (R160). -/

namespace Sys2Proof.Machine

/-! ### Takes -/

/-- A request has been taken in READY: it counts as taken and unanswered, and its stream holds no write. -/
structure TakenHead (s : State) (g : Grant) : Prop where
  laws : Laws ((heldWrites s).length + 1) s
  mode : s.modes.mode = .ready
  held : HeldLaw s
  notWaiting : g.stream ∉ waitStreams s
  notSlotWaiting : g.stream ∉ slotStreams s
  free : headBlocked s g.stream g.req = false
  freshEntry : ∀ e ∈ s.groups.queue, e.serial ≠ s.fabric.takeSerial
  freshRead : ∀ e ∈ s.reads, e.serial ≠ s.fabric.takeSerial

theorem hasRoom_of_takeGrant {s : State} {g : Grant} (hg : takeGrant s = some g) : hasRoom s = true := by
  unfold takeGrant at hg
  split at hg
  · rename_i h
    exact (Bool.and_eq_true_iff.1 h).1
  · cases hg

/-- A take keeps the laws when what the part does with the request in READY does. -/
theorem PartLaws.takeOf {s : State} {k : RequestKind} {act : State → Grant → State} (h : PartLaws s) (hl : HeldLaw s)
    (hf : FreshSerial s) (ha : ∀ u g, TakenHead u g → g.req.kind = k → PartLaws (act u g)) : PartLaws (takeOf k act s) := by
  unfold Machine.takeOf
  split
  · exact h
  · rename_i g hg
    have taken := Laws.takeHead h (hasRoom_of_takeGrant hg) g.stream
    split
    · rename_i hk
      split
      · exact (taken.answerTaken _).part ⟨rfl, rfl⟩
      · rename_i hm
        obtain ⟨-, hb, hq⟩ := takeGrant_spec hg
        have ready := ready_of hq hm
        obtain ⟨hw, hs⟩ := takeGrant_notHeld ready hg
        simp only [blocked, ready, beq_self_eq_true, Bool.true_and, Bool.or_eq_false_iff] at hb
        refine ha _ g ⟨taken, ready, hl, ?_, ?_, hb.2, hf.1, hf.2⟩ hk
        · change g.stream ∉ waitStreams s
          rw [← inWaitList_iff, hw]
          exact Bool.false_ne_true
        · change g.stream ∉ slotStreams s
          rw [← inSlotWait_iff, hs]
          exact Bool.false_ne_true
    · exact h

/-! #### Reads -/

/-- The versions of a line are as often in its list as their slots are in the index. -/
theorem versions_nums_sublist (s : State) (l : Addr) :
    ((versions s l).map Slot.num).Sublist (s.staging.index.map IndexEntry.slot) := by
  have nums (xs : List IndexEntry) :
      ((xs.filterMap fun e => slotAt s e.slot).map Slot.num).Sublist (xs.map IndexEntry.slot) := by
    induction xs with
    | nil => exact .slnil
    | cons x xs ih =>
      cases hv : slotAt s x.slot with
      | none =>
        rw [List.filterMap_cons, hv, List.map_cons]
        exact ih.cons _
      | some v =>
        rw [List.filterMap_cons, hv, List.map_cons, List.map_cons, (slotAt_spec hv).2]
        exact ih.cons_cons _
  exact (nums _).trans (List.filter_sublist.map _)

theorem BufferLaws.selected {n : Nat} {s : State} (k : BufferLaws n s) (st : Stream) (l : Addr) :
    ((selectVersions s st l).map Slot.num).Nodup
      ∧ ∀ m ∈ (selectVersions s st l).map Slot.num, ∃ v ∈ s.staging.slots, v.num = m := by
  refine ⟨k.index.1.sublist ((List.filter_sublist.map _).trans (versions_nums_sublist s l)), fun m hm => ?_⟩
  obtain ⟨v, hv, rfl⟩ := List.mem_map.1 hm
  exact ⟨v, (k.index.of_mem_versions k.staging (List.mem_of_mem_filter hv)).1, rfl⟩

theorem Laws.track {n : Nat} {s : State} {e : TrackerEntry} (k : Laws (n + 1) s) (hm : s.modes.mode = .ready)
    (hf : ∀ x ∈ s.reads, x.serial ≠ e.serial) (hp : e.pinned.Nodup)
    (hv : ∀ m ∈ e.pinned, ∃ v ∈ s.staging.slots, v.num = m) : Laws n (track (pin s e.pinned) e) := by
  refine ⟨k.buffer.track hf hp hv, k.journal.congr, k.control.mode.congr, ?_, k.control.target.congr⟩
  rw [contentsLaw_ready (show (Machine.track (pin s e.pinned) e).modes.mode = .ready from hm)]
  exact (contentsLaw_ready hm).1 k.control.contents

/-- A line that is classed as plain lies outside the guard (R57). -/
theorem not_inGuard_of_plain {st : Stream} {r : Request} (h : classify s st r = .plain) :
    inGuard s (lineOf r.addr) = false := by
  unfold classify at h
  split at h
  · cases h
  · split at h
    · cases h
    · rename_i hg
      simpa using hg

section Acts

variable {s : State} {g : Grant} (k : TakenHead s g)

include k

theorem TakenHead.answered (r : Response) : PartLaws (answerTaken s r) := (k.laws.answerTaken r).part ⟨rfl, rfl⟩

theorem TakenHead.plainRead : PartLaws (plainRead s g) := by
  have tracked (hold : Nat) : Laws (heldWrites s).length (track s (readEntry s g .plain [] hold)) := by
    have := k.laws.track (e := readEntry s g .plain [] hold) k.mode k.freshRead .nil fun m hm => by cases hm
    rwa [readEntry, pin, mapSlots_nil] at this
  unfold Machine.plainRead
  dsimp only
  split
  · exact (Laws.handOver (tracked _) (fun r hr => by rw [List.mem_singleton.1 hr]; rfl) fun hd => absurd hd (by
      change s.modes.mode ≠ .draining
      rw [k.mode]
      decide)).part ⟨rfl, rfl⟩
  · exact (tracked _).part ⟨rfl, rfl⟩

theorem TakenHead.guardedRead : PartLaws (guardedRead s g) := by
  unfold Machine.guardedRead
  dsimp only
  split
  · exact k.answered _
  · obtain ⟨nodup, present⟩ := k.laws.buffer.selected g.stream (lineOf g.req.addr)
    refine Laws.part (Laws.handOver (k.laws.track k.mode k.freshRead nodup present)
      (fun r hr => by rw [List.mem_singleton.1 hr]; rfl) fun hd => absurd hd ?_) ⟨rfl, rfl⟩
    change s.modes.mode ≠ .draining
    rw [k.mode]
    decide

theorem TakenHead.actRead : PartLaws (actRead s g) := by
  unfold Machine.actRead
  split
  · exact k.plainRead
  · exact k.plainRead
  · exact k.guardedRead
  · exact k.answered _

/-! #### Writes -/

theorem TakenHead.plainWrite (hc : classify s g.stream g.req = .plain) : PartLaws (plainWrite s g) := by
  have posted : Laws ((heldWrites s).length + 1)
      { s with posted := { s.posted with records := s.posted.records ++ [postedRecord s g] } } := by
    obtain ⟨t1, t2, t3⟩ := k.laws.control.target
    refine ⟨k.laws.buffer.congr, k.laws.journal.congr, k.laws.control.mode.congr, k.laws.control.contents.congr,
      t1, t2, fun hr ha p hp hi => ?_⟩
    rcases List.mem_append.1 hp with hp | hp
    · exact t3 hr ha p hp hi
    · have outside := not_inGuard_of_plain hc
      rw [inGuard, t1 hr, Bool.or_eq_false_iff] at outside
      rw [List.mem_singleton.1 hp]
      simpa [postedRecord] using outside.2
  have handed : Laws ((heldWrites s).length + 1)
      (if (postedHead s).isNone then
        handOver { s with posted := { s.posted with records := s.posted.records ++ [postedRecord s g] } }
          [postedRequest (postedRecord s g)]
      else { s with posted := { s.posted with records := s.posted.records ++ [postedRecord s g] } }) := by
    split
    · refine posted.handOver (fun r hr => by rw [List.mem_singleton.1 hr]; rfl) fun hd => absurd hd ?_
      change s.modes.mode ≠ .draining
      rw [k.mode]
      decide
    · exact posted
  refine (handed.answerTaken _).part ?_
  dsimp only
  split <;> exact ⟨rfl, rfl⟩

theorem TakenHead.guardedWrite (h : HeldWrite) (hs : h.stream = g.stream) :
    PartLaws (settle (guardedWrite (Work.start s) h)) := by
  have calm := (guardedWrite_calm (Work.start s) h).held (by rw [hs]; exact k.notWaiting) k.held
  refine PartLaws.settle (w := Machine.guardedWrite (Work.start s) h) ?_ calm
  have quiet := guardedWrite_quiet (Work.start s) h
  refine ⟨?_, k.laws.journal.quiet quiet, k.laws.control.quiet quiet k.mode⟩
  unfold Machine.guardedWrite
  split
  · exact (k.answered _).buffer
  all_goals
    have apart : heldApart s h.stream = (heldWrites s).length := by
      rw [hs]
      exact heldApart_of_not_mem k.notWaiting k.notSlotWaiting
    have buffer : BufferLaws (heldApart s h.stream + 1) (Work.start s).s := by
      rw [apart]
      exact k.laws.buffer
    have waiting : h.stream ∉ waitStreams (Work.start s).s := by
      rw [hs]
      exact k.notWaiting
    exact (fromCheck2_turned (w := Work.start s) buffer).counted buffer k.held waiting

theorem TakenHead.actWrite : PartLaws (actWrite s g) := by
  unfold Machine.actWrite
  split
  · exact k.plainWrite ‹_›
  · exact k.guardedWrite _ rfl
  · exact k.answered _
  · exact k.answered _

/-! #### Commits and discards -/

theorem TakenHead.sealed (hk : g.req.kind = .commit) (hd : isDoomed s g.stream = false) :
    PartLaws (writerLook (sealGroup s g)) := by
  have idle : s.reloc.state = .none :=
    (((headBlocked_eq_false_iff s g.stream g.req).1 k.free).1 hk).elim (fun h => by rw [hd] at h; cases h) And.left
  exact (k.laws.sealGroup k.mode k.freshEntry idle).writerLook.part
    (SameHeld.trans (t := sealGroup s g) ⟨rfl, rfl⟩ (writerLook_sameHeld _))

theorem TakenHead.actCommit (hk : g.req.kind = .commit) : PartLaws (actCommit s g) := by
  unfold Machine.actCommit
  split
  · rename_i reason hr
    have answered := k.answered (abortedAnswer g.stream g.req.tag reason.reason)
    obtain ⟨staging, owner, index, claim, pin, home, count⟩ := answered.buffer
    refine Laws.part (s := s) ⟨⟨staging.congr, owner.records fun st => ?_, index.congr, claim.congr, pin.congr, home.congr,
      count.congr⟩, answered.journal.congr, answered.control.mode.congr, ?_, answered.control.target.congr⟩ ⟨rfl, rfl⟩
    · change (recordOf (setRecord s g.stream .absent) st).slots = (recordOf s st).slots
      rw [recordOf_setRecord]
      split
      · rename_i hst
        rw [← hst, hr]
        rfl
      · rfl
    · rw [contentsLaw_ready (show (setRecord (answerCommitAborted s g.stream g.req.tag reason.reason) g.stream
        .absent).modes.mode = .ready from k.mode)]
      exact (contentsLaw_ready k.mode).1 k.laws.control.contents
  · exact k.sealed hk (by simp [isDoomed, *])
  · exact k.sealed hk (by simp [isDoomed, *])

theorem TakenHead.actDiscard : PartLaws (actDiscard s g) := by
  have answered := k.answered (plainAnswer g.stream g.req.tag .ok)
  have ended : PartLaws (abortVersions (Work.start (setRecord (answerTaken s (plainAnswer g.stream g.req.tag .ok)) g.stream
      .absent)) (recordOf s g.stream).slots).s := by
    refine Laws.part (s := s) ⟨(answered.buffer.endRecord g.stream (r := .absent) rfl).congr, answered.journal.congr,
      answered.control.mode.congr, ?_, answered.control.target.congr⟩ ⟨rfl, rfl⟩
    exact (contentsLaw_ready (by exact k.mode)).2 ((contentsLaw_ready k.mode).1 k.laws.control.contents)
  refine PartLaws.settle ended ((abortVersions_calm _ _).held trivial k.held)

end Acts

end Sys2Proof.Machine

/-! PROOF. The expiry of a deadline, and the laws that hold together (R9, R46). -/

namespace Sys2Proof.Machine

/-! ### The expiry of a deadline -/

/-- In READY, what the turns of held writes leave alone keeps its laws (R47, R48). -/
theorem PartLaws.quiet {s t : State} (h : PartLaws s) (hq : Quiet s t) (hm : s.modes.mode = .ready)
    (hb : BufferLaws (heldWrites t).length t) : PartLaws t := ⟨hb, h.journal.quiet hq, h.control.quiet hq hm⟩

theorem PartLaws.ready_of_record {s : State} (h : PartLaws s) {st : Stream} (hr : recordOf s st ≠ .absent) :
    s.modes.mode = .ready := by
  by_contra hm
  exact hr ((h.control.contents.1 hm).2 st)

theorem PartLaws.ready_of_held {s : State} (h : PartLaws s) (hh : heldWrites s ≠ []) : s.modes.mode = .ready := by
  by_contra hm
  exact hh (List.length_eq_zero_iff.1 (heldWrites_length_of_none (h.control.contents.1 hm).1))

theorem heldWrites_leave (s : State) (st : Stream) :
    heldWrites (leaveSlotWait (leaveWaitList s st) st) = (heldWrites s).filter fun h => h.stream != st := by
  simp only [heldWrites, leaveSlotWait, leaveWaitList, List.filter_append, List.filter_map]
  rfl

theorem abortHeldOf_quiet (s : State) (st : Stream) (reason : Reason) : Quiet s (abortHeldOf s st reason) := by
  unfold abortHeldOf
  split
  · exact .rfl' s
  · exact ((leaveWaitList_quiet s st).trans (leaveSlotWait_quiet _ st)).trans (answerTaken_quiet _ _)

/-- A stream's held write is answered and removed (R9). -/
theorem BufferLaws.abortHeldOf {s : State} (k : BufferLaws (heldWrites s).length s) (hl : HeldLaw s) (st : Stream)
    (reason : Reason) : BufferLaws (heldWrites (abortHeldOf s st reason)).length (abortHeldOf s st reason) := by
  unfold Machine.abortHeldOf
  split
  · exact k
  · rename_i h hh
    have hst : h.stream = st := by simpa using List.find?_some hh
    have count := heldApart_of_mem hl (List.mem_of_find?_eq_some hh)
    rw [hst] at count
    have left : BufferLaws (heldApart s st + 1) (leaveSlotWait (leaveWaitList s st) st) := by
      rw [count]
      exact k.congr
    have rest : heldWrites (answerHeldAborted reason (leaveSlotWait (leaveWaitList s st) st) h)
        = (heldWrites s).filter fun x => x.stream != st := heldWrites_leave s st
    rw [rest]
    exact left.answerTaken _

theorem doom_sameHeld (w : Work) (st : Stream) (reason : DoomReason) : SameHeld w.s (doom w st reason).s := by
  unfold doom
  split <;> exact ⟨rfl, rfl⟩

theorem PartLaws.idleExpiry {s : State} (h : PartLaws s) (hl : HeldLaw s) {st : Stream} (he : idleExpired s st = true) :
    PartLaws (Machine.settle { doom (Work.start s) st .idle with s := Machine.abortHeldOf (doom (Work.start s) st .idle).s st .idle }) := by
  have ready : s.modes.mode = .ready := h.ready_of_record (st := st) fun hr => by simp [idleExpired, hr] at he
  have doomed := (doom_calm (Work.start s) st .idle).held trivial hl
  have buffer : BufferLaws (heldWrites (doom (Work.start s) st .idle).s).length (doom (Work.start s) st .idle).s := by
    rw [(doom_sameHeld (Work.start s) st .idle).heldWrites]
    exact h.buffer.doom (w := Work.start s) st .idle
  refine PartLaws.settle (w := { doom (Work.start s) st .idle with s := Machine.abortHeldOf (doom (Work.start s) st .idle).s st .idle })
    (h.quiet ((doom_quiet (Work.start s) st .idle).trans (abortHeldOf_quiet _ st .idle)) ready
    (buffer.abortHeldOf doomed st .idle)) ?_
  exact (abortHeldOf_calm _ st .idle).held trivial doomed

theorem conflictExpired_spec {s : State} {st : Stream} {r : WaitRecord} (h : conflictExpired s st = some r) :
    r ∈ s.claims.waitList ∧ r.write.stream = st := by
  refine ⟨List.mem_of_find?_eq_some h, ?_⟩
  have := List.find?_some h
  simp only [Bool.and_eq_true, beq_iff_eq] at this
  exact this.1

theorem PartLaws.conflictExpiry {s : State} (h : PartLaws s) (hl : HeldLaw s) {st : Stream} {r : WaitRecord}
    (hr : conflictExpired s st = some r) :
    PartLaws (Machine.settle (refuseWrite (Work.start (leaveWaitList s st)) r.write .conflict)) := by
  obtain ⟨hmem, rfl⟩ := conflictExpired_spec hr
  have held : r.write ∈ heldWrites s := List.mem_append_left _ (List.mem_map_of_mem hmem)
  have ready := h.ready_of_held (List.ne_nil_of_mem held)
  have left := (leaveWaitList_calm s r.write.stream).held trivial hl
  have buffer : BufferLaws (heldApart (leaveWaitList s r.write.stream) r.write.stream + 1)
      (leaveWaitList s r.write.stream) := by
    rw [heldApart_leaveWaitList, heldApart_of_mem hl held]
    exact h.buffer.congr
  have turned := refuseWrite_turned (w := Work.start (leaveWaitList s r.write.stream)) buffer .conflict
  refine PartLaws.settle (w := refuseWrite (Work.start (leaveWaitList s r.write.stream)) r.write .conflict)
    (h.quiet ((leaveWaitList_quiet s r.write.stream).trans
    (refuseWrite_quiet (Work.start (leaveWaitList s r.write.stream)) r.write .conflict)) ready
    (turned.counted buffer left (not_mem_waitStreams_leaveWaitList s r.write.stream))) ?_
  exact (refuseWrite_calm _ r.write .conflict).held trivial left

end Sys2Proof.Machine

/-! PROOF. The issue of a request and its retry, and the laws that hold together (R134, R153, R154). -/

namespace Sys2Proof.Machine

/-! ### The issue of a request, and its retry -/

section Issue

variable {n : Nat} {s : State}

/-- Requests that change but for their requesters. -/
theorem Laws.sameRequesters {m : Media} (h : Laws n s)
    (hm : m.requests.map MediaReq.requester = s.media.requests.map MediaReq.requester) : Laws n { s with media := m } :=
  h.fewer (by rw [hm])

theorem requesters_set {l : List MediaReq} {i : Nat} {r x : MediaReq} (hr : l[i]? = some r) (hx : x.requester = r.requester) :
    (l.set i x).map MediaReq.requester = l.map MediaReq.requester := by
  obtain ⟨hi, hr⟩ := List.getElem?_eq_some_iff.1 hr
  rw [List.map_set, hx, ← hr]
  exact List.set_getElem_self (as := l.map MediaReq.requester) (i := i) (by simpa using hi) ▸ by simp

theorem Laws.sendRequest (h : Laws n s) {i : Nat} {r : MediaReq} (hr : s.media.requests[i]? = some r) (t : MediaTag)
    (retries : Nat) : Laws n (sendRequest s i r t retries) :=
  have issued := h.sameRequesters (m := (Machine.sendRequest s i r t retries).media) (requesters_set hr rfl)
  issued.congr

theorem Laws.waitRetry (h : Laws n s) (t : MediaTag) : Laws n (waitRetry s t) := by
  refine h.sameRequesters ?_
  rw [List.map_map]
  refine List.map_congr_left fun r _ => ?_
  simp only [Function.comp]
  split
  · split <;> rfl
  · rfl
  · rfl

/-- Tracker entries change but for their serials and the slots that they list. -/
theorem Laws.readsChanged (h : Laws n s) {f : TrackerEntry → TrackerEntry}
    (hf : ∀ e, (f e).serial = e.serial ∧ (f e).pinned = e.pinned) : Laws n { s with reads := s.reads.map f } := by
  have serials : (s.reads.map f).map TrackerEntry.serial = s.reads.map TrackerEntry.serial := by
    rw [List.map_map]
    exact List.map_congr_left fun e _ => (hf e).1
  obtain ⟨staging, owner, index, claim, pin, home, count⟩ := h.buffer
  obtain ⟨c1, c2, c3, c4, c5⟩ := h.control.contents
  refine ⟨⟨staging.congr, owner.congr, index.congr, claim.congr, ⟨fun e he => ?_, fun v hv => ?_⟩, home.congr,
    ⟨count.serials, ?_, count.unanswered, ?_, count.room⟩⟩, h.journal.congr, h.control.mode.congr,
    ⟨c1, fun hm hd => ?_, c3, fun hm hd => ?_, c5⟩, h.control.target.congr⟩
  · obtain ⟨x, hx, rfl⟩ := List.mem_map.1 he
    rw [(hf x).2]
    exact pin.1 x hx
  · change _ = (s.reads.map f).countP _
    rw [List.countP_map, pin.2 v hv]
    exact List.countP_congr fun e _ => by simp only [Function.comp, (hf e).2]
  · exact serials ▸ count.reads
  · change _ = n + (s.reads.map f).length + _
    rw [List.length_map]
    exact count.taken
  · obtain ⟨slots, queue, reads⟩ := c2 hm hd
    exact ⟨slots, queue, by rw [reads]; rfl⟩
  · obtain ⟨writer, reads, requests⟩ := c4 hm hd
    exact ⟨writer, by rw [reads]; rfl, requests⟩

theorem Laws.markReadIssued (h : Laws n s) (m : Serial) : Laws n (markReadIssued s m) :=
  h.readsChanged fun e => by split <;> exact ⟨rfl, rfl⟩

theorem Laws.markPostedIssued (h : Laws n s) (m : Serial) : Laws n (markPostedIssued s m) := by
  obtain ⟨t1, t2, t3⟩ := h.control.target
  refine ⟨h.buffer.congr, h.journal.congr, h.control.mode.congr, h.control.contents.congr, t1, t2, fun hr ha p hp hi => ?_⟩
  obtain ⟨q, hq, rfl⟩ := List.mem_map.1 hp
  by_cases hs : q.serial = m
  · rw [if_pos hs] at hi
    cases hi
  · rw [if_neg hs] at hi ⊢
    exact t3 hr ha q hq hi

theorem WriterLaw.handOther {rs : List MediaReq} (h : WriterLaw s) (hj : NoneOf rs Requester.isJournalLine)
    (hc : NoneOf rs (· == .commitLine)) : WriterLaw (handOver s rs) := by
  obtain ⟨h1, h2, h3, h4⟩ := h
  refine ⟨h1, ?_, ?_, ?_⟩
  · rw [anyRequest_handOver_of_none hj, anyRequest_handOver_of_none hc]
    exact h2
  · rw [anyRequest_handOver_of_none hc]
    exact h3
  · change (s.media.requests ++ rs).countP _ ≤ 1
    rw [List.countP_append, hc.countP_eq_zero]
    exact h4

theorem clearingLines_requester {who : Requester} {r : Region} {q : MediaReq} (h : q ∈ clearingLines who r) :
    q.requester = who := by
  obtain ⟨o, -, rfl⟩ := List.mem_map.1 h
  rfl

/-- Lines of the target are handed over while the relocation prepares it. -/
theorem Laws.handRelocLines {rs : List MediaReq} (h : Laws n s) (hr : ∃ stage failed, s.reloc.state = .formattingNew stage failed)
    (hu : targetUnissued s = false) (hn : ∀ r ∈ rs, r.requester = .relocLine) : Laws n (Machine.handOver s rs) := by
  obtain ⟨stage, failed, hstate⟩ := hr
  have none {p : Requester → Bool} (hp : p .relocLine = false) : NoneOf rs p := fun r hr => by rw [hn r hr, hp]
  obtain ⟨t1, t2, t3⟩ := h.control.target
  have ready := h.control.mode.2.2.2.2.1 (by rw [hstate]; exact fun h => by cases h)
  refine ⟨h.buffer.handOver (none rfl), ⟨h.journal.writer.handOther (none rfl) (none rfl), h.journal.space.congr,
    h.journal.sequence.congr⟩, h.control.mode.handOver (none rfl), h.control.contents.handOver ?_,
    t1, fun _ => .inl ⟨stage, failed, hstate⟩, fun _ _ p hp hi => ?_⟩
  · rw [ready]
    exact fun h => by cases h.1
  · have posted := List.any_eq_false.1 hu p hp
    simpa [hi] using posted

theorem Laws.handClearing (h : Laws n s) (hr : ∃ stage failed, s.reloc.state = .formattingNew stage failed) :
    Laws n (handClearing s) := by
  unfold Machine.handClearing
  split
  · exact h
  · rename_i hu
    exact h.handRelocLines hr (by simpa using hu) fun r hr => clearingLines_requester hr

theorem Laws.releaseClearing (h : Laws n s) : Laws n (releaseClearing s) := by
  unfold Machine.releaseClearing
  split
  · rename_i hw
    rw [clearingWaits, Bool.and_eq_true, beq_iff_eq] at hw
    exact h.handClearing ⟨_, _, hw.1⟩
  · exact h

theorem handClearing_sameHeld (s : State) : SameHeld s (handClearing s) := .ite (.refl s) ⟨rfl, rfl⟩

theorem releaseClearing_sameHeld (s : State) : SameHeld s (releaseClearing s) := .ite (handClearing_sameHeld s) (.refl s)

theorem readyAfterPosted_unnamed {p : PostedRecord} {r : MediaReq} (h : r ∈ readyAfterPosted s p) :
    r.requester.isNamed = false := by
  obtain ⟨x, hx, rfl⟩ := List.mem_map.1 h
  have read (hx : x ∈ (s.reads.filter fun e => e.heldBehind p && e.hold == 1).map fun e => (e.serial, homeReadRequest e)) :
      x.2.requester.isNamed = false := by
    obtain ⟨e, -, rfl⟩ := List.mem_map.1 hx
    rfl
  split at hx
  · exact read hx
  · rcases mem_insertBySerial.1 hx with rfl | hx
    · rfl
    · exact read hx

theorem Laws.reportIssue (h : Laws n s) (hf : ¬(s.modes.mode = .draining ∧ s.drain.finalRaised = true)) (m : Serial) :
    Laws n (reportIssue s m) := by
  unfold Machine.reportIssue
  split
  · exact h
  · rename_i p _
    have lowered := (h.markPostedIssued m).readsChanged (f := lowerHold p) fun e => by
      unfold lowerHold
      split <;> exact ⟨rfl, rfl⟩
    exact (lowered.handOver (fun r hr => readyAfterPosted_unnamed hr) fun hd hr => absurd ⟨hd, hr⟩ hf).releaseClearing

theorem reportIssue_sameHeld (s : State) (m : Serial) : SameHeld s (reportIssue s m) := by
  unfold reportIssue
  split
  · exact .refl s
  · rename_i p _
    exact SameHeld.trans (t := handOver { markPostedIssued s m with reads := (markPostedIssued s m).reads.map (lowerHold p) }
      (readyAfterPosted (markPostedIssued s m) p)) ⟨rfl, rfl⟩ (releaseClearing_sameHeld _)

theorem PartLaws.issueGranted {g : MediaGrant} {r : MediaReq} (h : PartLaws s)
    (hr : s.media.requests[g.place]? = some r) : PartLaws (issueGranted s g r) := by
  unfold Machine.issueGranted
  split
  · exact h
  · rename_i t retries _
    have arbiter : Laws (heldWrites s).length (setArbiter s g) := Laws.sameRequesters h rfl
    have sent : Laws (heldWrites s).length (sendRequest (setArbiter s g) g.place r t retries) := arbiter.sendRequest hr t retries
    dsimp only
    split
    · exact sent.part ⟨rfl, rfl⟩
    · unfold afterFirstIssue
      split
      · exact (sent.markReadIssued _).part ⟨rfl, rfl⟩
      · rename_i who hq
        refine (sent.reportIssue (fun hfin => ?_) _).part (SameHeld.trans
          (t := Machine.sendRequest (setArbiter s g) g.place r t retries) ⟨rfl, rfl⟩ (reportIssue_sameHeld _ _))
        have := (Laws.final h hfin.1 hfin.2).2.2 r (List.mem_of_getElem? hr)
        rw [hq] at this
        cases this
      all_goals exact sent.part ⟨rfl, rfl⟩

end Issue

end Sys2Proof.Machine

/-! PROOF. The outcomes of posted writes, and the laws that hold together (R64, R67). -/

namespace Sys2Proof.Machine

/-! ### The outcomes of posted writes -/

section Posted

variable {s : State}

theorem PartLaws.fewerPosted {p : Posted} (h : PartLaws s) (hp : p.records.Sublist s.posted.records) :
    PartLaws { s with posted := p } := by
  obtain ⟨t1, t2, t3⟩ := h.control.target
  exact ⟨h.buffer.congr, h.journal.congr, h.control.mode.congr, h.control.contents.congr, t1, t2,
    fun hr ha q hq hi => t3 hr ha q (hp.subset hq) hi⟩

theorem PartLaws.reportPosted (h : PartLaws s) (p : PostedRecord) : PartLaws (reportPosted s p) :=
  (Laws.reportPosted h p).part (reportPosted_sameHeld s p)

theorem PartLaws.retirePosted (h : PartLaws s) (p : PostedRecord) : PartLaws (retirePosted s p) :=
  (((h.fewerPosted (p := (removePosted s p.serial).posted) List.filter_sublist).reportPosted p).relocTrigger s).drainTest

theorem PartLaws.postedAcked (h : PartLaws s) (m : Serial) : PartLaws (postedAcked m s) := by
  unfold Machine.postedAcked
  split
  · exact h
  · exact h.retirePosted _

theorem PartLaws.postedFailed (h : PartLaws s) (m : Serial) : PartLaws (postedFailed m s) := by
  unfold Machine.postedFailed
  split
  · exact h
  · rename_i p _
    exact PartLaws.retirePosted (s := countLost s p.stream) h.congr p

end Posted

end Sys2Proof.Machine

/-! PROOF. An entry that ends before it is durable, and the lines of a record (R15, R97, R99). -/

namespace Sys2Proof.Machine

/-! ### An entry that ends before it is durable -/

section EndEntry

variable {n : Nat} {s : State} {e : Entry}

/-- The queue without an entry. -/
def queueWithout (s : State) (e : Entry) : List Entry := s.groups.queue.filter fun x => x.serial != e.serial

theorem mem_queueWithout {y : Entry} : y ∈ queueWithout s e ↔ y ∈ s.groups.queue ∧ y.serial ≠ e.serial := by
  simp [queueWithout]

theorem queueWithout_sublist (s : State) (e : Entry) : (queueWithout s e).Sublist s.groups.queue := List.filter_sublist

/-- An entry that is not yet durable leaves the queue, and its versions end. -/
theorem BufferLaws.endEntry (h : BufferLaws n s) (he : e ∈ s.groups.queue) (hx : e.state = .sealed ∨ e.state = .journaling) :
    BufferLaws (n + 1) (removeEntry (abortQuietly s e.slots) e.serial) := by
  have early : e.state ≠ .applying := by rcases hx with hx | hx <;> simp [hx]
  have queue : (removeEntry (abortQuietly s e.slots) e.serial).groups.queue = queueWithout s e := rfl
  have stays {f : Entry} (hf : f ∈ s.groups.queue) (hne : f ≠ e) : f ∈ queueWithout s e :=
    mem_queueWithout.2 ⟨hf, fun heq => hne (h.count.serials.eq_of_serial he hf heq)⟩
  have groups : GroupsEnd s (removeEntry (abortQuietly s e.slots) e.serial) e.slots := by
    refine ⟨fun st => .inl ⟨rfl, fun m hm hm' => h.owner.record_entry h.staging hm he early hm'⟩, fun f hf => ?_,
      fun f hf => ?_⟩
    · obtain ⟨hf, hne⟩ := mem_queueWithout.1 hf
      exact ⟨hf, fun ha m hm hm' => h.owner.slots_disjoint h.staging hf he ha early hne m hm hm'⟩
    · by_cases hfe : f = e
      · exact .inr fun m hm => hfe ▸ hm
      · exact .inl (stays hf hfe)
  have homes : ∀ m ∈ homeSlots s, m ∉ e.slots := by
    intro m hm hmem
    obtain ⟨v, hv, rfl, hstate⟩ := h.home.2.1 m hm
    have owns := (h.owner.entryOwns h.staging he early hv hmem).2.1
    rw [hstate] at owns
    exact early (slotState_eq_applying.1 owns.symm)
  refine ⟨h.staging.versionsEnd (.inr rfl) rfl, h.owner.versionsEnd (.inr rfl) rfl groups,
    h.index.versionsEnd (.inr rfl) rfl rfl, h.claim.versionsEnd (.inr rfl) rfl, h.pin.versionsEnd rfl rfl,
    h.home.versionsEnd (.inr rfl) rfl homes (queueWithout_sublist s e) fun f hf ha => stays hf fun heq => ?_, ?_⟩
  · exact early (heq ▸ ha)
  · exact (h.count.removeOwed he (h.count.unanswered e he hx)).congr

theorem unappliedOf_queueWithout (hd : SerialsDistinct s) (he : e ∈ s.groups.queue)
    (hx : e.state = .sealed ∨ e.state = .journaling) : unappliedOf (queueWithout s e) = unappliedOf s.groups.queue := by
  rw [unappliedOf, queueWithout, List.filter_filter]
  refine List.filter_congr fun f hf => ?_
  by_cases heq : f.serial = e.serial
  · obtain rfl := hd.eq_of_serial he hf heq
    rcases hx with hx | hx <;> simp [hx]
  · simp [heq]

theorem SequenceLaw.endEntry (h : SequenceLaw s) (hd : SerialsDistinct s) (he : e ∈ s.groups.queue)
    (hx : e.state = .sealed ∨ e.state = .journaling) : SequenceLaw (withQueue s (queueWithout s e)) := by
  obtain ⟨h1, h2, h3, h4, h5, h6, h7⟩ := h
  have same : unappliedEntries (withQueue s (queueWithout s e)) = unappliedEntries s := unappliedOf_queueWithout hd he hx
  refine ⟨h1, h2, h3.sublist ((queueWithout_sublist s e).filter _), fun f hf => h4 f ((queueWithout_sublist s e).subset hf),
    fun f hf => h5 f ((queueWithout_sublist s e).subset hf), ?_, fun hu => ?_⟩
  · rw [same]
    exact h6
  · rw [same]
    exact h7 hu

theorem SpaceLaw.endEntry (h : SpaceLaw s) : SpaceLaw (withQueue s (queueWithout s e)) := fun hu =>
  ⟨(h hu).1, fun failed hf f hmem => (h hu).2 failed hf f ((queueWithout_sublist s e).subset hmem)⟩

theorem ControlLaws.endEntry (h : ControlLaws s) : ControlLaws (removeEntry (abortQuietly s e.slots) e.serial) := by
  obtain ⟨⟨m1, m2, m3, m4, m5, m6⟩, ⟨c1, c2, c3, c4, c5⟩, target⟩ := h
  have slots (h : s.staging.slots = []) : s.staging.slots.filterMap (endSlot e.slots .aborted) = [] := by rw [h]; rfl
  have queue (h : s.groups.queue = []) : queueWithout s e = [] := by rw [queueWithout, h]; rfl
  refine ⟨⟨m1, m2, m3, m4, m5, fun hr hp => queue (m6 hr hp)⟩,
    ⟨c1, fun hm ho => ?_, fun hm f hf => c3 hm f ((queueWithout_sublist s e).subset hf), c4, fun hs => ?_⟩, target.congr⟩
  · obtain ⟨noSlots, noEntries, reads⟩ := c2 hm ho
    exact ⟨slots noSlots, queue noEntries, reads⟩
  · obtain ⟨noSlots, modes⟩ := c5 hs
    exact ⟨slots noSlots, modes⟩

theorem countP_queueWithout (hd : SerialsDistinct s) (he : e ∈ s.groups.queue) (p : Entry → Bool) :
    s.groups.queue.countP p = (queueWithout s e).countP p + if p e then 1 else 0 := by
  obtain ⟨front, back, hq⟩ := List.append_of_mem he
  obtain ⟨hf, hb⟩ := distinct_split hd hq
  have rest : queueWithout s e = front ++ back := by
    rw [queueWithout, hq, List.filter_append, List.filter_cons_of_neg (by simp),
      List.filter_eq_self.2 fun x hx => by simpa using hf x hx, List.filter_eq_self.2 fun x hx => by simpa using hb x hx]
  rw [rest, hq, List.countP_append, List.countP_append, List.countP_cons]
  omega

/-- The JOURNALING entry leaves with its writer idle. -/
theorem WriterLaw.endJournaling (h : WriterLaw s) (hd : SerialsDistinct s) (he : e ∈ s.groups.queue)
    (hx : e.state = .journaling) (hj : anyRequest s Requester.isJournalLine = false)
    (hc : anyRequest s (· == .commitLine) = false) : WriterLaw (setWriter (withQueue s (queueWithout s e)) .idle) := by
  obtain ⟨h1, h2, h3, h4⟩ := h
  refine ⟨?_, fun ha => ?_, fun ha => ?_, h4⟩
  · have count := countP_queueWithout hd he fun x => x.state == .journaling
    have le : s.groups.queue.countP (fun x => x.state == .journaling) ≤ 1 := by
      rw [h1]
      split <;> omega
    simp only [hx, beq_self_eq_true, if_true] at count
    change (queueWithout s e).countP _ = 0
    omega
  · exact absurd (show anyRequest s Requester.isJournalLine = true from ha) (by rw [hj]; exact Bool.false_ne_true)
  · exact absurd (show anyRequest s (· == .commitLine) = true from ha) (by rw [hc]; exact Bool.false_ne_true)

theorem ContentsLaw.writerIdle (h : ContentsLaw s) : ContentsLaw (setWriter s .idle) := by
  obtain ⟨c1, c2, c3, c4, c5⟩ := h
  exact ⟨c1, c2, c3, fun hm hf => ⟨rfl, (c4 hm hf).2⟩, c5⟩

/-- The JOURNALING entry ends and the writer is idle. -/
theorem Laws.endJournaling (h : Laws n s) (he : e ∈ s.groups.queue) (hx : e.state = .journaling)
    (hj : anyRequest s Requester.isJournalLine = false) (hc : anyRequest s (· == .commitLine) = false) :
    Laws (n + 1) (setWriter (removeEntry (abortQuietly s e.slots) e.serial) .idle) := by
  have serials := h.buffer.count.serials
  have control := h.control.endEntry (e := e)
  refine ⟨(h.buffer.endEntry he (.inr hx)).congr, ⟨?_, ?_, ?_⟩, control.mode.congr, control.contents.writerIdle,
    control.target.congr⟩
  · exact (h.journal.writer.endJournaling serials he hx hj hc).congr
  · intro hu
    exact ⟨(h.journal.space hu).1, fun failed hf => by cases hf⟩
  · exact (h.journal.sequence.endEntry serials he (.inr hx)).congr

end EndEntry

/-! ### The outcomes of the lines of a record -/

section Lines

variable {s : State}

/-- The end of an event, with the writer's state as it is to be. -/
theorem Laws.settledWriter {w : Work} {x : Writer} (hb : HeldBuffer w.s) (hj : JournalLaws (setWriter w.s x))
    (hc : ControlLaws (setWriter w.s x)) : PartLaws (setWriter (settle w) x) := by
  by_cases hm : w.s.modes.mode = .ready
  · exact .settled hb hj hc hm
  · obtain ⟨⟨wait, slot⟩, -⟩ := hc.contents.1 hm
    rw [settle_noneHeld w wait slot]
    exact ⟨hb.1.congr, hj, hc⟩

theorem mem_of_journalingEntry {e : Entry} (h : journalingEntry s = some e) : e ∈ s.groups.queue ∧ e.state = .journaling :=
  ⟨List.mem_of_find?_eq_some h, by simpa using List.find?_some h⟩

/-- A writer that is not IDLE has an entry. -/
theorem WriterLaw.journaling (h : WriterLaw s) (hw : s.journal.writer ≠ .idle) : ∃ e, journalingEntry s = some e := by
  have count := h.1
  rw [if_neg hw] at count
  obtain ⟨e, he, hp⟩ := List.countP_pos_iff.1 (by rw [count]; exact Nat.one_pos)
  exact Option.isSome_iff_exists.1 (List.find?_isSome.2 ⟨e, he, hp⟩)

theorem PartLaws.writerLook (h : PartLaws s) : PartLaws (writerLook s) := (Laws.writerLook h).part (writerLook_sameHeld s)

theorem PartLaws.finishFailedRecord (h : PartLaws s) (hl : HeldLaw s) (hw : s.journal.writer ≠ .idle)
    (hj : anyRequest s Requester.isJournalLine = false) (hc : anyRequest s (· == .commitLine) = false) :
    PartLaws (finishFailedRecord s) := by
  obtain ⟨e, he⟩ := h.journal.writer.journaling hw
  obtain ⟨hmem, hx⟩ := mem_of_journalingEntry he
  have ended := (Laws.endJournaling h hmem hx hj hc).answerTaken (abortedAnswer e.stream e.tag .journalError)
  have idle : PartLaws (setWriter (abortJournaled (setFlag s .journalError) e) .idle) := by
    refine Laws.settledWriter ⟨?_, ?_⟩ ended.journal.congr ended.control.congr
    · have count : heldWrites (abortVersions (Work.start (removeEntry (countAborted (answerCommitAborted
        (setFlag s .journalError) e.stream e.tag .journalError)) e.serial)) e.slots).s = heldWrites s := rfl
      rw [count]
      exact ended.buffer.congr
    · exact (abortVersions_calm _ e.slots).held trivial hl
  unfold Machine.finishFailedRecord
  dsimp only
  have found : journalingEntry (setFlag s .journalError) = some e := he
  rw [found]
  exact (idle.writerLook.relocTrigger s).drainTest

/-- While a writer is not IDLE, the final trigger of a drain has not been raised (R145). -/
theorem Laws.not_final {n : Nat} (h : Laws n s) (hw : s.journal.writer ≠ .idle) :
    ¬(s.modes.mode = .draining ∧ s.drain.finalRaised = true) := fun hf => hw (h.final hf.1 hf.2).1

theorem PartLaws.handCommitLine (h : PartLaws s) (hw : s.journal.writer = .writing false)
    (hj : anyRequest s Requester.isJournalLine = false) (hc : anyRequest s (· == .commitLine) = false) :
    PartLaws (handCommitLine s) := by
  unfold Machine.handCommitLine
  split
  · exact h
  · rename_i e _
    have none {p : Requester → Bool} (hp : p .commitLine = false) : NoneOf [commitLineRequest s e] p := fun r hr => by
      rw [List.mem_singleton.1 hr]
      exact hp
    refine Laws.part (s := s) ⟨h.buffer.handOver (none rfl), ⟨h.journal.writer.handCommit hw hc hj rfl,
      h.journal.space.congr, h.journal.sequence.congr⟩, h.control.mode.handOver (none rfl),
      h.control.contents.handOver (Laws.not_final h (by simp [hw])), h.control.target.handOver (none rfl)⟩ ⟨rfl, rfl⟩

theorem PartLaws.recordLinesDone (h : PartLaws s) (hl : HeldLaw s) (hj : anyRequest s Requester.isJournalLine = false)
    (hc : anyRequest s (· == .commitLine) = false) : PartLaws (recordLinesDone s) := by
  unfold Machine.recordLinesDone
  split
  · exact h
  · exact h
  · exact h.handCommitLine ‹_› hj hc
  · rename_i hw
    exact h.finishFailedRecord hl (by simp [hw]) hj hc

theorem PartLaws.journalLineAcked (h : PartLaws s) (hl : HeldLaw s) (hc : anyRequest s (· == .commitLine) = false) :
    PartLaws (journalLineAcked s) := by
  unfold Machine.journalLineAcked
  split
  · exact h
  · rename_i hj
    exact h.recordLinesDone hl (by simpa using hj) hc

/-- A line of the record has failed (R99). -/
theorem PartLaws.recordFails (h : PartLaws s) {failed : Bool} (hw : s.journal.writer = .writing failed)
    (hc : anyRequest s (· == .commitLine) = false) : PartLaws (setWriter s (.writing true)) := by
  obtain ⟨w1, w2, w3, w4⟩ := h.journal.writer
  obtain ⟨c1, c2, c3, c4, c5⟩ := h.control.contents
  refine Laws.part (s := s) ⟨h.buffer.congr, ⟨⟨?_, fun _ => ⟨⟨true, rfl⟩, hc⟩, fun ha => ?_, w4⟩, fun hu => ?_,
    h.journal.sequence.congr⟩, h.control.mode.congr, ⟨c1, c2, c3, fun hm hf => ?_, c5⟩, h.control.target.congr⟩ ⟨rfl, rfl⟩
  · rw [hw] at w1
    exact w1
  · rw [show anyRequest (setWriter s (.writing true)) _ = anyRequest s (· == .commitLine) from rfl, hc] at ha
    cases ha
  · exact ⟨(h.journal.space hu).1, fun _ _ => (h.journal.space hu).2 failed hw⟩
  · exact absurd ⟨hm, hf⟩ (Laws.not_final h (by simp [hw]))

theorem PartLaws.journalLineFailed (h : PartLaws s) (hl : HeldLaw s) (hc : anyRequest s (· == .commitLine) = false) :
    PartLaws (journalLineFailed s) := by
  unfold Machine.journalLineFailed
  split
  · exact h
  · exact h
  · rename_i hw
    have left : PartLaws (Machine.withdraw s Requester.isJournalLine) := (Laws.withdraw h _).part ⟨rfl, rfl⟩
    have none : anyRequest (Machine.withdraw s Requester.isJournalLine) (· == .commitLine) = false :=
      anyRequest_anti (List.Sublist.filter _ (List.filter_sublist.map _)) (fun _ => isNamed_of_commitLine) hc
    exact (left.recordFails hw none).journalLineAcked hl none

end Lines

end Sys2Proof.Machine

/-! PROOF. The outcomes of the commit line, and the laws that hold together (R98, R100). -/

namespace Sys2Proof.Machine

/-! ### The outcomes of the commit line -/

section Commit

variable {n : Nat} {s : State} {e : Entry}

/-- The commit line of the writer's group has its outcome: no line of the record is at the port. -/
structure LinesGone (s : State) : Prop where
  writer : s.journal.writer = .writing false
  lines : anyRequest s Requester.isJournalLine = false
  commit : anyRequest s (· == .commitLine) = false

/-- An entry that has become DURABLE. -/
def durableEntry (e : Entry) : Entry := { e with state := .durable }

/-- The part in which the writer's group has become DURABLE (R14, R98). -/
def madeDurable (s : State) (e : Entry) : State :=
  advanced (advanceDurable s (e.seq.getD 0) (extentOf s e).length) e (durableEntry e)

theorem BufferLaws.madeDurable (h : BufferLaws n s) (he : e ∈ s.groups.queue) (hx : e.state = .journaling) :
    BufferLaws n (madeDurable s e) := by
  have moved : BufferLaws n (advanceDurable s (e.seq.getD 0) (extentOf s e).length) := h.congr
  exact moved.advanced (e := e) (f := durableEntry e) ⟨rfl, rfl, rfl, rfl, rfl⟩ moved.staging moved.owner he (by simp [hx])
    (by simp [durableEntry]) (by simp [durableEntry, QueueState.slotState, SlotState.claims]) (by simp [durableEntry])

theorem two_le_rank {x : QueueState} (h : 1 ≤ x.rank) (hx : x ≠ .journaling) : 2 ≤ x.rank := by
  cases x
  · cases h
  · exact absurd rfl hx
  · exact le_rfl
  · exact show 2 ≤ 3 by decide

/-- The sequences after a group has become DURABLE. -/
theorem SequenceLaw.madeDurable (h : SequenceLaw s) (hd : SerialsDistinct s) (hu : JournalInUse s)
    (hq : s.groups.queue.length ≤ Config.commitDepth) (he : e ∈ s.groups.queue) (hx : e.state = .journaling)
    (hj : ∀ y ∈ s.groups.queue, y.state = .journaling → y = e) : SequenceLaw (madeDurable s e) := by
  obtain ⟨s1, s2, s3, s4, s5, s6, s7⟩ := h
  obtain ⟨front, back, split, hf, hb⟩ := queue_split hd he
  obtain ⟨slots, seq⟩ := s4 e he hx
  have queue : (Machine.madeDurable s e).groups.queue = front ++ durableEntry e :: back := requeued_split split hf hb
  obtain ⟨order, around⟩ := (queueInOrder_append (front := front)).1 (split ▸ s3)
  obtain ⟨before, after⟩ := around slots
  have noBack : unappliedOf back = [] := by
    rw [unappliedOf, List.filter_eq_nil_iff]
    intro y hy hp
    simp only [Bool.and_eq_true, Bool.or_eq_true, beq_iff_eq, Bool.not_eq_true', List.isEmpty_eq_false_iff] at hp
    have rank := after y hy hp.1.2
    rw [hx] at rank
    rcases hp.1.1 with hs | hs <;> rw [hs] at rank <;> exact absurd rank (by decide)
  have notDone : e.homeDone = false := by
    cases hh : e.homeDone
    · rfl
    · have := s5 e he hh
      rw [hx] at this
      cases this
  have old : unappliedEntries s = unappliedOf front := by
    rw [unappliedEntries_eq, split, unappliedOf, List.filter_append, List.filter_cons_of_neg (by simp [hx]), ← unappliedOf,
      ← unappliedOf, noBack, List.append_nil]
  have new : unappliedEntries (Machine.madeDurable s e) = unappliedOf front ++ [durableEntry e] := by
    rw [unappliedEntries_eq, queue, unappliedOf, List.filter_append, List.filter_cons_of_pos
      (by simp [durableEntry, slots, notDone]), ← unappliedOf, ← unappliedOf, noBack]
  have durable := s7 hu
  rw [old] at durable s6
  have few : (unappliedOf front).length + 1 ≤ Config.commitDepth := by
    have := (List.filter_sublist (l := front) (p := fun e => (e.state == .durable || e.state == .applying)
      && !e.slots.isEmpty && !e.homeDone)).length_le
    rw [split, List.length_append, List.length_cons] at hq
    change (unappliedOf front).length ≤ front.length at this
    omega
  have value : (Machine.madeDurable s e).journal.durableThrough = s.journal.nextSeq := by
    change e.seq.getD 0 = _
    rw [seq]
    rfl
  have next : s.journal.nextSeq = s.journal.appliedThrough + 1 + BitVec.ofNat 48 (unappliedOf front).length := by
    rw [s1, durable]
    ring
  have reached : s.journal.nextSeq = s.journal.appliedThrough + BitVec.ofNat 48 ((unappliedOf front).length + 1) := by
    rw [next, BitVec.ofNat_add, BitVec.add_assoc, BitVec.add_comm 1]
    rfl
  refine ⟨rfl, ?_, ?_, fun y hy hs => ?_, fun y hy hs => ?_, ?_, fun _ => ?_⟩
  · rw [value, reached]
    change (s.journal.appliedThrough + _ - s.journal.appliedThrough).toNat ≤ _
    rw [add_sub_cancel_left, BitVec.toNat_ofNat]
    exact (Nat.mod_le _ _).trans few
  · change queueInOrder (Machine.madeDurable s e).groups.queue
    rw [queue]
    refine queueInOrder_append.2 ⟨order, fun _ => ⟨fun x hmem hne => ?_, fun y hy hne => ?_⟩⟩
    · have rank := before x hmem hne
      rw [hx] at rank
      have notJournaling : x.state ≠ .journaling := fun hs => hf x hmem (by
        rw [hj x (split ▸ List.mem_append_left _ hmem) hs])
      exact two_le_rank rank notJournaling
    · have rank := after y hy hne
      rw [hx] at rank
      exact rank.trans (show 1 ≤ 2 by decide)
  · rcases mem_requeued hy with rfl | ⟨hy, hne⟩
    · cases hs
    · exact absurd (congrArg Entry.serial (hj y hy hs)) hne
  · rcases mem_requeued hy with rfl | ⟨hy, -⟩
    · rw [durableEntry, notDone] at hs
      cases hs
    · exact s5 y hy hs
  · refine seqRun_iff.2 ?_
    have run := seqRun_iff.1 s6
    rw [new, List.map_append, run, List.length_append, List.length_singleton]
    change seqRun s.journal.appliedThrough _ ++ [e.seq] = seqRun s.journal.appliedThrough _
    rw [seqRun, seqRun, List.range_succ, List.map_append, seq, next]
    rfl
  · rw [value, new, List.length_append, List.length_singleton]
    exact reached

/-- The writer's group has become DURABLE and the writer is IDLE. -/
theorem Laws.madeDurable (h : Laws n s) (hq : s.groups.queue.length ≤ Config.commitDepth) (hg : LinesGone s)
    (he : e ∈ s.groups.queue) (hx : e.state = .journaling) : Laws n (setWriter (madeDurable s e) .idle) := by
  have inUse : JournalInUse s := h.control.contents.inUse he |>.elim .inl fun h => .inr (.inl h)
  have unique : ∀ y ∈ s.groups.queue, y.state = .journaling → y = e := fun y hy hs =>
    h.journal.writer.journaling_unique hy he hs hx
  obtain ⟨front, back, split, hf, hb⟩ := queue_split h.buffer.count.serials he
  have queue : (Machine.madeDurable s e).groups.queue = front ++ durableEntry e :: back := requeued_split split hf hb
  obtain ⟨w1, w2, w3, w4⟩ := h.journal.writer
  have moved : ControlLaws (advanceDurable s (e.seq.getD 0) (extentOf s e).length) := h.control.congr
  have control : ControlLaws (Machine.madeDurable s e) := moved.advanced he (by simp [durableEntry])
  refine ⟨(h.buffer.madeDurable he hx).congr, ⟨⟨?_, fun ha => ?_, fun ha => ?_, w4⟩, fun _ => ⟨?_, fun _ hf => by cases hf⟩,
    (h.journal.sequence.madeDurable h.buffer.count.serials inUse hq he hx unique).congr⟩, control.mode.congr,
    control.contents.writerIdle, control.target.congr⟩
  · rw [if_neg (by simp [hg.writer]), split, List.countP_append, List.countP_cons_of_pos (by simp [hx])] at w1
    change (Machine.madeDurable s e).groups.queue.countP _ = 0
    rw [queue, List.countP_append, List.countP_cons_of_neg (by simp [durableEntry])]
    omega
  · exact absurd (show anyRequest s Requester.isJournalLine = true from ha) (by rw [hg.lines]; exact Bool.false_ne_true)
  · exact absurd (show anyRequest s (· == .commitLine) = true from ha) (by rw [hg.commit]; exact Bool.false_ne_true)
  · exact (h.journal.space inUse).2 false hg.writer e he hx

theorem tryAnswer_setWriter (s : State) (k : Serial) (x : Writer) :
    setWriter (tryAnswer s k) x = tryAnswer (setWriter s x) k := by
  unfold tryAnswer
  have found : entryAt (setWriter s x) k = entryAt s k := rfl
  rw [found]
  split
  · rfl
  · split
    · split <;> rfl
    · rfl

theorem PartLaws.tryAnswer (h : PartLaws s) (k : Serial) : PartLaws (tryAnswer s k) :=
  (Laws.tryAnswer h k).part (.still (tryAnswer_still s k))

theorem PartLaws.applyLook (h : PartLaws s) : PartLaws (applyLook s) := (Laws.applyLook h).part (applyLook_sameHeld s)

theorem PartLaws.groupDurable (h : PartLaws s) (hl : HeldLaw s) (hq : s.groups.queue.length ≤ Config.commitDepth)
    (hg : LinesGone s) (he : e ∈ s.groups.queue) (hx : e.state = .journaling) : PartLaws (groupDurable s e) := by
  have made := Laws.madeDurable h hq hg he hx
  have eq : makeDurable (countCommitted (advanceDurable s (e.seq.getD 0) (extentOf s e).length)) e
      = countCommitted (madeDurable s e) :=
    advanced_eq (s := countCommitted (advanceDurable s (e.seq.getD 0) (extentOf s e).length)) h.buffer.count.serials he
      fun e => { e with state := .durable }
  have released : PartLaws (setWriter (releaseClaims (countCommitted (madeDurable s e)) e) .idle) := by
    refine Laws.settledWriter ⟨?_, ?_⟩ made.journal.congr made.control.congr
    · exact made.buffer.congr
    · exact hl
  unfold Machine.groupDurable
  dsimp only
  rw [eq, tryAnswer_setWriter]
  exact ((released.tryAnswer e.serial).writerLook).applyLook

theorem PartLaws.commitLineAcked (h : PartLaws s) (hl : HeldLaw s) (hq : s.groups.queue.length ≤ Config.commitDepth)
    (hg : LinesGone s) : PartLaws (commitLineAcked s) := by
  unfold Machine.commitLineAcked
  split
  · exact h
  · obtain ⟨hmem, hx⟩ := mem_of_journalingEntry ‹_›
    exact ((h.groupDurable hl hq hg hmem hx).relocTrigger s).drainTest

/-- One of the taken requests is answered. -/
theorem CountLaw.answerTaken (h : CountLaw (n + 1) s) (r : Response) : CountLaw n (answerTaken s r) := by
  obtain ⟨-, -, -, taken, room⟩ := id h
  refine h.recount ?_ ?_
  · simp only
    omega
  · simp only [List.length_append, List.length_singleton]
    omega

theorem PartLaws.commitLineFailed (h : PartLaws s) : PartLaws (commitLineFailed s) := by
  unfold Machine.commitLineFailed
  split
  · exact h.enterFaulted
  · rename_i e he
    obtain ⟨hmem, hx⟩ := mem_of_journalingEntry he
    have counted := (h.buffer.count.removeOwed hmem (h.buffer.count.unanswered e hmem (.inr hx))).answerTaken
      (plainAnswer e.stream e.tag .indoubt)
    exact enterFaulted_partLaws (s := indoubtEntry s e) counted.congr h.journal.sequence.1 h.journal.sequence.2.1

end Commit

end Sys2Proof.Machine

/-! PROOF. A group that is wholly home, and the laws that hold together (R106). -/

namespace Sys2Proof.Machine

/-! ### A group that is wholly home -/

section Home

variable {n : Nat} {s : State} {e : Entry}

/-- An entry whose home writes are all acknowledged. -/
def homeEntry (e : Entry) : Entry := { e with homeDone := true }

/-- The queue once a completed group has been retired: an answered entry leaves, another waits for its answer. -/
def homeQueue (s : State) (e : Entry) : List Entry := if e.answered then queueWithout s e else requeued s e (homeEntry e)

/-- The part in which a completed group has been retired and the engine is IDLE (R106). -/
def groupHome (s : State) (e : Entry) : State :=
  { s with
    groups := { s.groups with queue := homeQueue s e }
    journal := (advanceApplied s (e.seq.getD 0) (extentOf s e)).journal
    apply := Apply.reset }

theorem groupHome_eq (hd : SerialsDistinct s) (he : e ∈ s.groups.queue) :
    applyIdle (retireEntry (advanceApplied s (e.seq.getD 0) (extentOf s e)) e) = groupHome s e := by
  unfold retireEntry groupHome homeQueue
  split
  · rfl
  · have queue : (s.groups.queue.map fun x => if x.serial = e.serial then { x with homeDone := true } else x)
        = requeued s e (homeEntry e) := by
      refine List.map_congr_left fun f hf => ?_
      split
      · rename_i heq
        rw [hd.eq_of_serial he hf heq]
        rfl
      · rfl
    rw [← queue]
    rfl

theorem homeQueue_split (hd : SerialsDistinct s) {front back : List Entry} (hq : s.groups.queue = front ++ e :: back) :
    homeQueue s e = front ++ (if e.answered then [] else [homeEntry e]) ++ back := by
  obtain ⟨hf, hb⟩ := distinct_split hd hq
  unfold homeQueue
  split
  · rw [queueWithout, hq, List.filter_append, List.filter_cons_of_neg (by simp), List.append_nil,
      List.filter_eq_self.2 fun x hx => by simpa using hf x hx, List.filter_eq_self.2 fun x hx => by simpa using hb x hx]
  · rw [requeued_split hq hf hb]
    simp

theorem mem_homeQueue {y : Entry} (hy : y ∈ homeQueue s e) : y = homeEntry e ∨ y ∈ s.groups.queue ∧ y.serial ≠ e.serial := by
  unfold homeQueue at hy
  split at hy
  · exact .inr (mem_queueWithout.1 hy)
  · exact mem_requeued hy

theorem mem_homeQueue_other {y : Entry} (hy : y ∈ s.groups.queue) (hne : y.serial ≠ e.serial) : y ∈ homeQueue s e := by
  unfold homeQueue
  split
  · exact mem_queueWithout.2 ⟨hy, hne⟩
  · exact mem_requeued_other hy hne

/-- The current entry of an engine whose home writes are all acknowledged. -/
structure WhollyHome (s : State) (e : Entry) : Prop where
  mem : e ∈ s.groups.queue
  state : e.state = .applying
  slots : e.slots ≠ []
  notDone : e.homeDone = false
  none : ∀ v ∈ s.staging.slots, v.state = .applying → ¬e.owns v

theorem HomeLaw.sole (h : HomeLaw s) (k : WhollyHome s e) {y : Entry} (hy : y ∈ s.groups.queue) (hx : y.state = .applying)
    (hn : y.homeDone = false) : y = e :=
  eq_of_countP_le_one h.2.2.2.1 hy k.mem (by simp [hx, hn]) (by simp [k.state, k.notDone])

theorem CountLaw.groupHome (h : CountLaw n s) (k : WhollyHome s e) : CountLaw n (groupHome s e) := by
  by_cases ha : e.answered = true
  · have gone : CountLaw n (withQueue s (queueWithout s e)) := h.removeAnswered k.mem ha
    exact gone.congr (if_pos ha)
  · obtain ⟨front, back, hq, hf, hb⟩ := queue_split h.serials k.mem
    have split : (Machine.groupHome s e).groups.queue = front ++ homeEntry e :: back :=
      (if_neg ha).trans (requeued_split hq hf hb)
    obtain ⟨serials, reads, unanswered, taken, room⟩ := h
    refine ⟨?_, reads, fun y hy hs => ?_, ?_, room⟩
    · rw [SerialsDistinct, split]
      rw [SerialsDistinct, hq] at serials
      simpa [homeEntry] using serials
    · rcases mem_homeQueue hy with rfl | ⟨hy, -⟩
      · have := k.state
        rcases hs with hs | hs <;> rw [homeEntry, this] at hs <;> cases hs
      · exact unanswered y hy hs
    · have owed : owedEntries (Machine.groupHome s e) = owedEntries s := by
        rw [owedEntries, owedEntries, split, hq]
        simp [List.countP_append, List.countP_cons, homeEntry]
      rw [owed]
      exact taken

theorem BufferLaws.groupHome (h : BufferLaws n s) (k : WhollyHome s e) : BufferLaws n (groupHome s e) := by
  have serials := h.count.serials
  obtain ⟨records, entries, owners⟩ := h.owner
  obtain ⟨h1, h2, h3, h4, h5, h6⟩ := h.home
  refine ⟨h.staging.congr, ⟨records, fun y hy => ?_, fun v hv => ?_⟩, h.index.congr, h.claim.congr, h.pin.congr,
    ⟨h1, h2, .inl rfl, ?_, fun _ _ y hy hx => ?_, fun _ y _ hc => by cases hc⟩, h.count.groupHome k⟩
  · rcases mem_homeQueue hy with rfl | ⟨hy, -⟩
    · exact ⟨(entries e k.mem).1, fun ha => absurd k.state ha⟩
    · exact entries y hy
  · have owner := owners v hv
    split
    · rename_i hs
      rwa [if_pos hs] at owner
    · rename_i hs
      rw [if_neg hs] at owner
      refine owner.imp_right fun ⟨y, hy, hn, howns⟩ => ⟨y, mem_homeQueue_other hy fun heq => ?_, hn, howns⟩
      obtain rfl := serials.eq_of_serial k.mem hy heq
      exact k.none v hv (by rw [howns.2.1, k.state]; rfl) howns
  · obtain ⟨front, back, hq, -, -⟩ := queue_split serials k.mem
    rw [hq, List.countP_append, List.countP_cons] at h4
    change (homeQueue s e).countP _ ≤ 1
    rw [homeQueue_split serials hq, List.countP_append, List.countP_append]
    have : (if e.answered then [] else [homeEntry e]).countP (fun e => e.state == .applying && !e.homeDone) = 0 := by
      split <;> simp [homeEntry]
    omega
  · rcases mem_homeQueue hy with rfl | ⟨hy, hne⟩
    · rfl
    · cases hn : y.homeDone
      · exact absurd (congrArg Entry.serial (h.home.sole k hy hx hn)) hne
      · rfl

theorem SequenceLaw.groupHome (h : SequenceLaw s) (hb : BufferLaws n s) (hu : JournalInUse s)
    (hc : s.groups.queue.length ≤ Config.commitDepth) (k : WhollyHome s e) :
    SequenceLaw (groupHome s e) := by
  obtain ⟨s1, s2, s3, s4, s5, s6, s7⟩ := h
  have serials := hb.count.serials
  obtain ⟨front, back, hq, hf, hback⟩ := queue_split serials k.mem
  have queue : (Machine.groupHome s e).groups.queue = _ := homeQueue_split serials hq
  obtain ⟨order, around⟩ := (queueInOrder_append (front := front)).1 (hq ▸ s3)
  obtain ⟨before, after⟩ := around k.slots
  have noFront : unappliedOf front = [] := by
    rw [unappliedOf, List.filter_eq_nil_iff]
    intro y hy hp
    simp only [Bool.and_eq_true, Bool.or_eq_true, beq_iff_eq, Bool.not_eq_true', List.isEmpty_eq_false_iff] at hp
    have rank := before y hy hp.1.2
    rw [k.state] at rank
    have hx : y.state = .applying := hp.1.1.resolve_left fun hs => by rw [hs] at rank; exact absurd rank (by decide)
    have := hb.home.sole k (hq ▸ List.mem_append_left _ hy) hx hp.2
    exact hf y hy (congrArg Entry.serial this)
  have old : unappliedEntries s = e :: unappliedOf back := by
    rw [unappliedEntries_eq, hq, unappliedOf, List.filter_append, List.filter_cons_of_pos
      (by simp [k.state, k.slots, k.notDone]), ← unappliedOf, ← unappliedOf, noFront, List.nil_append]
  have new : unappliedEntries (Machine.groupHome s e) = unappliedOf back := by
    have none : unappliedOf (if e.answered then [] else [homeEntry e]) = [] := by
      split <;> simp [unappliedOf, homeEntry]
    rw [unappliedEntries_eq, queue, unappliedOf, List.filter_append, List.filter_append, ← unappliedOf, ← unappliedOf,
      ← unappliedOf, noFront, none, List.nil_append, List.nil_append]
  have durable := s7 hu
  rw [old, List.length_cons] at durable
  rw [old] at s6
  have run := seqRun_iff.1 s6
  rw [List.map_cons, List.length_cons, seqRun, List.range_succ_eq_map, List.map_cons, List.map_map] at run
  obtain ⟨head, tail⟩ := List.cons.inj run
  have seq : e.seq = some (s.journal.appliedThrough + 1) := head.trans (congrArg some (BitVec.add_zero _))
  have applied : (Machine.groupHome s e).journal.appliedThrough = s.journal.appliedThrough + 1 := by
    change e.seq.getD 0 = _
    rw [seq]
    rfl
  have step (i : Nat) : s.journal.appliedThrough + 1 + BitVec.ofNat 48 (i + 1)
      = s.journal.appliedThrough + 1 + 1 + BitVec.ofNat 48 i := by
    rw [BitVec.ofNat_add, BitVec.add_comm (BitVec.ofNat 48 i), ← BitVec.add_assoc]
    rfl
  have reached : s.journal.durableThrough = s.journal.appliedThrough + 1 + BitVec.ofNat 48 (unappliedOf back).length := by
    rw [durable, BitVec.ofNat_add, BitVec.add_comm (BitVec.ofNat 48 _), ← BitVec.add_assoc]
    rfl
  have few : (unappliedOf back).length ≤ Config.commitDepth := by
    have := (List.filter_sublist (l := back) (p := fun e => (e.state == .durable || e.state == .applying)
      && !e.slots.isEmpty && !e.homeDone)).length_le
    rw [hq, List.length_append, List.length_cons] at hc
    change (unappliedOf back).length ≤ back.length at this
    omega
  refine ⟨s1, ?_, ?_, fun y hy hs => ?_, fun y hy hs => ?_, ?_, fun _ => ?_⟩
  · change (s.journal.durableThrough - _).toNat ≤ _
    rw [applied, reached, add_sub_cancel_left, BitVec.toNat_ofNat]
    exact (Nat.mod_le _ _).trans few
  · change queueInOrder (Machine.groupHome s e).groups.queue
    rw [queue]
    split
    · rw [List.append_nil]
      exact s3.sublist ((hq ▸ (List.sublist_cons_self e back).append_left front).filter _)
    · rw [List.append_assoc]
      exact queueInOrder_append.2 ⟨order, around⟩
  · rcases mem_homeQueue hy with rfl | ⟨hy, -⟩
    · rw [homeEntry, k.state] at hs
      cases hs
    · exact s4 y hy hs
  · rcases mem_homeQueue hy with rfl | ⟨hy, -⟩
    · exact k.state
    · exact s5 y hy hs
  · refine seqRun_iff.2 ?_
    rw [new, tail, applied, seqRun]
    exact List.map_congr_left fun i _ => congrArg some (step i)
  · change s.journal.durableThrough = _
    rw [applied, new]
    exact reached

theorem Laws.groupHome (h : Laws n s) (hc : s.groups.queue.length ≤ Config.commitDepth) (k : WhollyHome s e) :
    Laws n (groupHome s e) := by
  have inUse : JournalInUse s := h.control.contents.inUse k.mem |>.elim .inl fun h => .inr (.inl h)
  obtain ⟨m1, m2, m3, m4, m5, m6⟩ := h.control.mode
  obtain ⟨c1, c2, c3, c4, c5⟩ := h.control.contents
  have empty {p : Prop} (hq : s.groups.queue = []) : p := by
    have := k.mem
    rw [hq] at this
    cases this
  refine ⟨h.buffer.groupHome k, ⟨⟨?_, h.journal.writer.2⟩, fun hu => ⟨(h.journal.space hu).1, fun failed hf y hy hx => ?_⟩,
    h.journal.sequence.groupHome h.buffer inUse hc k⟩, ⟨m1, m2, m3, (fun h => by cases h), m5, fun hr hp => empty (m6 hr hp)⟩,
    ⟨c1, fun hm ho => empty (c2 hm ho).2.1, fun hm y hy => ?_, c4, c5⟩, h.control.target.congr⟩
  · refine Eq.trans ?_ h.journal.writer.1
    obtain ⟨front, back, hq, -, -⟩ := queue_split h.buffer.count.serials k.mem
    change (homeQueue s e).countP _ = _
    rw [homeQueue_split h.buffer.count.serials hq, hq]
    split <;> simp [List.countP_append, homeEntry, k.state]
  · rcases mem_homeQueue hy with rfl | ⟨hy, -⟩
    · rw [homeEntry, k.state] at hx
      cases hx
    · exact (h.journal.space hu).2 failed hf y hy hx
  · rcases mem_homeQueue hy with rfl | ⟨hy, -⟩
    · rw [homeEntry, k.state]
      exact fun h => by cases h
    · exact c3 hm y hy

/-- A trigger does not bear on the queue and the engine. -/
theorem raiseTrigger_retired (s : State) (e : Entry) :
    applyIdle (retireEntry (raiseTrigger s) e) = raiseTrigger (applyIdle (retireEntry s e)) := by
  have ckpt : (applyIdle (retireEntry s e)).ckpt = s.ckpt := by
    unfold retireEntry
    split <;> rfl
  unfold raiseTrigger
  rw [ckpt]
  split <;> (unfold retireEntry; split <;> rfl)

theorem PartLaws.retireTriggered {p : Prop} [Decidable p] (h : PartLaws (applyIdle (retireEntry s e))) :
    PartLaws (applyIdle (retireEntry (if p then Machine.raiseTrigger s else s) e)) := by
  split
  · rw [raiseTrigger_retired]
    exact h.raiseTrigger
  · exact h

theorem PartLaws.completeGroup (h : PartLaws s) (hc : s.groups.queue.length ≤ Config.commitDepth) (k : WhollyHome s e) :
    PartLaws (completeGroup s e) := by
  have home : PartLaws (applyIdle (retireEntry (advanceApplied s (e.seq.getD 0) (extentOf s e)) e)) := by
    rw [groupHome_eq h.buffer.count.serials k.mem]
    exact (Laws.groupHome h hc k).part ⟨rfl, rfl⟩
  exact home.retireTriggered.retireTriggered.applyLook

/-- An engine with nothing outstanding returns to IDLE. -/
theorem PartLaws.engineIdle (h : PartLaws s)
    (hi : s.modes.mode = .ready → ∀ e ∈ s.groups.queue, e.state = .applying → e.homeDone = true) :
    PartLaws (applyIdle s) := by
  obtain ⟨staging, owner, index, claim, pin, ⟨h1, h2, -, h4, -, -⟩, count⟩ := h.buffer
  obtain ⟨m1, m2, m3, -, m5⟩ := h.control.mode
  exact ⟨⟨staging.congr, owner.congr, index.congr, claim.congr, pin.congr,
    ⟨h1, h2, .inl rfl, h4, fun hm _ => hi hm, fun _ _ _ hc => by cases hc⟩, count.congr⟩, h.journal.congr,
    ⟨m1, m2, m3, (fun h => by cases h), m5⟩, h.control.contents.congr, h.control.target.congr⟩

theorem PartLaws.lastHomeWrite (h : PartLaws s) (hc : s.groups.queue.length ≤ Config.commitDepth)
    (ho : s.apply.outstanding = []) : PartLaws (lastHomeWrite s) := by
  obtain ⟨-, -, h3, -, h5, h6⟩ := h.buffer.home
  unfold Machine.lastHomeWrite
  split
  · rename_i hn
    refine h.engineIdle fun hm => h5 hm (h3.resolve_right ?_)
    rintro ⟨e, he, hcur, -⟩
    rw [currentEntry, hcur] at hn
    exact List.find?_eq_none.1 hn e he (by simp)
  · rename_i e he
    obtain ⟨k, hk, hfound⟩ := Option.bind_eq_some_iff.1 he
    obtain ⟨hmem, rfl⟩ := entryAt_spec hfound
    split
    · rename_i hw
      refine h.engineIdle fun hm => ?_
      rw [h.control.mode.2.2.2.1 hw] at hm
      cases hm
    · rename_i hw
      rcases h3 with hnone | ⟨f, hf, hcur, hstate, hslots, hn⟩
      · rw [hk] at hnone
        cases hnone
      · have same : f = e := h.buffer.count.serials.eq_of_serial hmem hf (by
          rw [hk] at hcur
          exact (Option.some.inj hcur).symm)
        subst same
        refine h.completeGroup hc ⟨hmem, hstate, hslots, hn, fun v hv hx howns => ?_⟩
        have := h6 (by simpa using hw) f hmem hk v hv hx howns
        rw [ho] at this
        cases this

theorem PartLaws.afterHomeWrite (h : PartLaws s) (hc : s.groups.queue.length ≤ Config.commitDepth) :
    PartLaws (afterHomeWrite s) := by
  unfold Machine.afterHomeWrite
  split
  · rename_i ho
    exact h.lastHomeWrite hc (List.isEmpty_iff.1 ho)
  · exact h

/-- The version of an acknowledged home write is SPENT, and its slot is no longer outstanding (R106). -/
theorem PartLaws.homeSpent {m : Nat} (h : PartLaws s) (hn : m ∉ homeSlots s)
    (hv : ∃ v ∈ s.staging.slots, v.num = m ∧ v.state = .applying) :
    PartLaws (endVersions (Work.start (leaveOutstanding s m)) [m] .spent).s := by
  obtain ⟨v, hv, rfl, hx⟩ := hv
  have groups : GroupsEnd s (endVersions (Work.start (leaveOutstanding s v.num)) [v.num] .spent).s [v.num] := by
    refine ⟨fun st => .inl ⟨rfl, fun m hm hmem => ?_⟩, fun e he => ⟨he, fun ha m hm hmem => ?_⟩, fun e he => .inl he⟩
    · rw [List.mem_singleton] at hmem
      have := (h.buffer.owner.recordOwns h.buffer.staging hv (hmem ▸ hm)).2.1
      rw [hx] at this
      cases this
    · rw [List.mem_singleton] at hmem
      have := (h.buffer.owner.entryOwns h.buffer.staging he ha hv (hmem ▸ hm)).2.1
      rw [hx] at this
      exact ha (slotState_eq_applying.1 this.symm)
  have slots (hs : s.staging.slots = []) : s.staging.slots.filterMap (endSlot [v.num] .spent) = [] := by rw [hs]; rfl
  have ended : HomeLaw (endVersions (Work.start s) [v.num] .spent).s :=
    h.buffer.home.versionsEnd (.inl rfl) rfl (fun k hk hmem => hn (List.mem_singleton.1 hmem ▸ hk)) (.refl _) fun _ he _ => he
  obtain ⟨h1, h2, h3, h4, h5, h6⟩ := ended
  obtain ⟨c1, c2, c3, c4, c5⟩ := h.control.contents
  refine ⟨⟨h.buffer.staging.versionsEnd (.inl rfl) rfl, h.buffer.owner.versionsEnd (.inl rfl) rfl groups,
    h.buffer.index.versionsEnd (.inl rfl) rfl rfl, h.buffer.claim.versionsEnd (.inl rfl) rfl,
    h.buffer.pin.versionsEnd rfl rfl, ⟨h1, h2, h3, h4, h5, fun hw e he hc u hu hstate howns => ?_⟩, h.buffer.count.congr⟩,
    h.journal.congr, h.control.mode.congr, ⟨c1, fun hm ho => ?_, c3, c4, fun hs => ?_⟩, h.control.target.congr⟩
  · refine List.mem_filter.2 ⟨h6 hw e he hc u hu hstate howns, ?_⟩
    rcases mem_endSlot_iff.1 hu with ⟨-, hne⟩ | ⟨y, -, -, -, rfl⟩
    · simpa using hne
    · cases hstate
  · obtain ⟨noSlots, rest⟩ := c2 hm ho
    exact ⟨slots noSlots, rest⟩
  · obtain ⟨noSlots, rest⟩ := c5 hs
    exact ⟨slots noSlots, rest⟩

theorem PartLaws.homeWriteAcked {m : Nat} (h : PartLaws s) (hl : HeldLaw s) (hc : s.groups.queue.length ≤ Config.commitDepth)
    (hn : m ∉ homeSlots s) (hv : ∃ v ∈ s.staging.slots, v.num = m ∧ v.state = .applying) :
    PartLaws (homeWriteAcked m s) := by
  have spent := (h.homeSpent hn hv).afterHomeWrite hc
  have held : HeldLaw (Machine.afterHomeWrite (endVersions (Work.start (leaveOutstanding s m)) [m] .spent).s) :=
    (afterHomeWrite_calm _).held trivial ((endVersions_calm _ [m] .spent (by decide)).held trivial hl)
  exact ((PartLaws.settle (w := { endVersions (Work.start (leaveOutstanding s m)) [m] .spent with
    s := Machine.afterHomeWrite (endVersions (Work.start (leaveOutstanding s m)) [m] .spent).s }) spent held).relocTrigger
    s).drainTest

end Home

end Sys2Proof.Machine

/-! PROOF. The outcomes of checkpoints, and the laws that hold together (R112, R113, R130, R145). -/

namespace Sys2Proof.Machine

/-! ### The outcomes of checkpoints -/

section Checkpoints

variable {n : Nat} {s : State}

theorem PartLaws.recheckSpace (h : PartLaws s) : PartLaws (recheckSpace s) :=
  (Laws.recheckSpace h).part (recheckSpace_sameHeld s)

theorem PartLaws.endCheckpoint (h : PartLaws s) : PartLaws (endCheckpoint s) :=
  (Laws.endCheckpoint h).part (endCheckpoint_sameHeld s)

theorem PartLaws.requestAtEnd (h : PartLaws s) (b : Bool) : PartLaws (requestAtEnd s b) := by
  unfold Machine.requestAtEnd
  split
  · exact h.congr
  · exact h

/-- An acknowledged checkpoint frees the space of the records that are home (R112). -/
theorem PartLaws.checkpointPointers (h : PartLaws s) (f : InFlight) : PartLaws (checkpointPointers s f) := by
  refine Laws.part (s := s) ⟨h.buffer.congr, ⟨h.journal.writer.congr, fun hu => ⟨?_, fun failed hf e he hx => ?_⟩,
    h.journal.sequence.congr⟩, h.control.congr⟩ ⟨rfl, rfl⟩
  · exact (Nat.sub_le _ _).trans (h.journal.space hu).1
  · exact (Nat.add_le_add_right (Nat.sub_le _ _) _).trans ((h.journal.space hu).2 failed hf e he hx)

/-- A relocation enters its preparation with the queue empty (R135, R136). -/
theorem PartLaws.enterFormattingNew (h : PartLaws s) (hp : s.reloc.state = .pending) (hq : s.groups.queue = []) :
    PartLaws (enterFormattingNew s) := by
  obtain ⟨m1, m2, m3, m4, m5, -⟩ := h.control.mode
  obtain ⟨t1, t2, t3⟩ := h.control.target
  have entered : Laws (heldWrites s).length (setReloc s (.formattingNew .clearing false)) := by
    refine ⟨h.buffer.congr, h.journal.congr, ⟨m1, m2, m3, m4, fun _ => m5 (by simp [hp]), fun _ _ => hq⟩,
      h.control.contents.congr, fun _ => t1 (by simp [hp]), fun _ => .inl ⟨_, _, rfl⟩, fun _ ha => ?_⟩
    exact t3 (by simp [hp]) ha
  exact (entered.handClearing ⟨_, _, rfl⟩).part
    (SameHeld.trans (t := setReloc s (.formattingNew .clearing false)) ⟨rfl, rfl⟩ (handClearing_sameHeld _))

theorem PartLaws.relocAfterCheckpoint (h : PartLaws s) (f : InFlight) : PartLaws (relocAfterCheckpoint s f) := by
  unfold Machine.relocAfterCheckpoint
  split
  · rename_i hc
    simp only [Bool.and_eq_true, pendingEmpty, beq_iff_eq, List.isEmpty_iff] at hc
    exact h.enterFormattingNew hc.1.1.1 hc.1.1.2
  · exact h

/-- Kept entries are owed COMMITTED as often as they are unanswered. -/
theorem owedAnswer_length {q : List Entry} (h : ∀ e ∈ q, e.state ≠ .sealed ∧ e.state ≠ .journaling) :
    (q.flatMap owedAnswer).length = q.countP fun e => !e.answered := by
  rw [← owedEntries_length (fun e he hs => (hs.elim (h e he).1 (h e he).2).elim) [] .fault]
  have none : q.flatMap (endedAnswer [] .fault) = [] := by
    rw [List.flatMap_eq_nil_iff]
    intro e he
    obtain ⟨h1, h2⟩ := h e he
    unfold endedAnswer
    split
    · exact absurd ‹_› h1
    · exact absurd ‹_› h2
    · rfl
    · rfl
  rw [none, List.length_nil, Nat.zero_add]

theorem WriterLaw.no_journaling (h : WriterLaw s) (hw : s.journal.writer = .idle) :
    ∀ e ∈ s.groups.queue, e.state ≠ .journaling := by
  have count := h.1
  rw [if_pos hw, List.countP_eq_zero] at count
  exact fun e he hx => count e he (by simp [hx])

theorem PartLaws.relocNone (h : PartLaws s) (hm : s.modes.mode ≠ .ready) : s.reloc.state = .none := by
  by_contra hr
  exact hm (h.control.mode.2.2.2.2.1 hr)

/-- The end of a drain from READY: every read has been answered, and every entry left is kept (R145, R147). -/
theorem PartLaws.drained (h : PartLaws s) (hm : s.modes.mode = .draining) (hw : s.journal.writer = .idle)
    (hr : s.reads = []) (hq : namedRequesters s.media.requests = []) (x : DrainStatus) : PartLaws (enterHalted s x) := by
  have notReady : s.modes.mode ≠ .ready := by simp [hm]
  obtain ⟨⟨waits, slots⟩, -⟩ := h.control.contents.1 notReady
  have taken := h.buffer.count.taken
  rw [heldWrites_length_of_none ⟨waits, slots⟩, hr, owedEntries, ← owedAnswer_length fun e he =>
    ⟨h.control.contents.2.2.1 hm e he, h.journal.writer.no_journaling hw e he⟩, List.length_nil, Nat.zero_add] at taken
  exact enterHalted_partLaws x waits (by rw [taken]) h.buffer.count.room h.journal.sequence.1 h.journal.sequence.2.1 hq
    (h.relocNone notReady)

theorem PartLaws.finalHalted (h : PartLaws s) (hm : s.modes.mode = .draining) (hf : s.drain.finalRaised = true)
    (x : DrainStatus) : PartLaws (enterHalted s x) := by
  obtain ⟨writer, reads, requests⟩ := Laws.final h hm hf
  exact h.drained hm writer reads (namedRequesters_eq_nil fun r hr => by rw [requests r hr]; rfl) x

/-- Outside READY and DRAINING only the lines of a format are requests that the laws name. -/
theorem PartLaws.unnamed_of_noFormat (h : PartLaws s) (hm : s.modes.mode ≠ .ready) (hd : s.modes.mode ≠ .draining)
    (hf : anyRequest s Requester.isFormat = false) : namedRequesters s.media.requests = [] := by
  have nothing := h.holdsNothing hm fun hd' => absurd hd' hd
  rw [List.eq_nil_iff_forall_not_mem]
  intro q hq
  have any {p : Requester → Bool} (hp : ∀ q, p q = true → q.isNamed = true) (hpq : p q = true) : anyRequest s p = true := by
    rw [anyRequest_eq s hp]
    exact List.any_eq_true.2 ⟨q, hq, hpq⟩
  rcases nothing.requests q hq with rfl | rfl
  · rw [any (fun _ => isNamed_of_isFormat) rfl] at hf
    cases hf
  · rcases h.control.target.2.1 (any (fun _ => isNamed_of_isRelocLine) rfl) with ⟨_, _, hs⟩ | hd'
    · rw [h.relocNone hm] at hs
      cases hs
    · exact hd hd'

theorem PartLaws.noFormat (h : PartLaws s) (hf : s.modes.mode ≠ .formatting) : anyRequest s Requester.isFormat = false := by
  cases ha : anyRequest s Requester.isFormat
  · rfl
  · exact absurd (h.control.mode.2.2.1 ha) hf

theorem PartLaws.unnamed (h : PartLaws s) (hm : s.modes.mode ≠ .ready) (hd : s.modes.mode ≠ .draining)
    (hf : s.modes.mode ≠ .formatting) : namedRequesters s.media.requests = [] :=
  h.unnamed_of_noFormat hm hd (h.noFormat hf)

/-- A part that holds nothing, with a journal that is wholly applied, enters READY (R116, R120, R130). -/
theorem HoldsNothing.ready (h : HoldsNothing s) (hq : namedRequesters s.media.requests = []) (hv : s.recovery = none)
    (hf : s.format = none) (hw : s.apply.withdrawn = false) (hl : s.reloc.state = .none) (hs : s.staging.scratch = none)
    (hu : s.journal.used ≤ s.journal.region.ringLength) (hd : s.journal.durableThrough = s.journal.appliedThrough) :
    PartLaws (becomeReady s) := by
  have noRequest {p : Requester → Bool} (hp : ∀ q, p q = true → q.isNamed = true) : anyRequest s p = false := by
    rw [anyRequest_eq s hp, hq]
    rfl
  obtain ⟨held, records, slots, index, queue, reads, engine, writer, taken, room, next, unapplied, requests⟩ := h
  have ready : HoldsNothing { setMode (setStart s .ok) .ready with drain := { s.drain with faultLoss := false } } :=
    ⟨held, records, slots, index, queue, reads, engine, writer, taken, room, next, unapplied, requests⟩
  refine PartLaws.applyLook (ready.partLaws (ready.laws ⟨?_, ?_, fun ha => ?_, ?_, fun _ => rfl, fun _ _ => queue⟩
    ⟨fun hr => absurd hl hr, fun ha => ?_, fun hr => absurd hl hr⟩ ?_ (fun hm => by cases hm) fun _ => ⟨hu, hd⟩))
  · change s.recovery.isSome = true → _
    rw [hv]
    exact fun h => by cases h
  · change s.format.isSome = true → _
    rw [hf]
    exact fun h => by cases h
  · have : anyRequest s Requester.isFormat = true := ha
    rw [noRequest fun _ => isNamed_of_isFormat] at this
    cases this
  · change s.apply.withdrawn = true → _
    rw [hw]
    exact fun h => by cases h
  · have : anyRequest s Requester.isRelocLine = true := ha
    rw [noRequest fun _ => isNamed_of_isRelocLine] at this
    cases this
  · change s.staging.scratch.isSome = true → _
    rw [hs]
    exact fun h => by cases h

theorem PartLaws.formatNone (h : PartLaws s) (hm : s.modes.mode ≠ .formatting) : s.format = none := by
  by_contra hf
  exact hm (h.control.mode.2.1 (Option.isSome_iff_ne_none.2 hf))

theorem PartLaws.notWithdrawn (h : PartLaws s) (hm : s.modes.mode ≠ .draining) : s.apply.withdrawn = false := by
  cases hw : s.apply.withdrawn
  · rfl
  · exact absurd (h.control.mode.2.2.2.1 hw) hm

/-- A recovery in phase FINAL enters READY (R130). -/
theorem PartLaws.recovered (h : PartLaws s) (hm : s.modes.mode = .recovering) (hf : inFinal s = true) :
    PartLaws (becomeReady (leaveRecovering s)) := by
  have nothing := h.holdsNothing (by simp [hm]) (by simp [hm])
  have inUse : JournalInUse s := .inr (.inr hf)
  have durable := h.journal.sequence.2.2.2.2.2.2 inUse
  rw [unappliedEntries, nothing.queue] at durable
  obtain ⟨held, records, slots, index, queue, reads, engine, writer, taken, room, next, unapplied, requests⟩ := nothing
  exact HoldsNothing.ready (s := leaveRecovering s)
    ⟨held, records, slots, index, queue, reads, engine, writer, taken, room, next, unapplied, requests⟩
    (h.unnamed (by simp [hm]) (by simp [hm]) (by simp [hm])) rfl (h.formatNone (by simp [hm]))
    (h.notWithdrawn (by simp [hm])) (h.relocNone (by simp [hm])) rfl (h.journal.space inUse).1
    (durable.trans (BitVec.add_zero _))

theorem PartLaws.checkpointEnds (h : PartLaws s) : PartLaws (checkpointEnds s) := by
  unfold Machine.checkpointEnds
  split
  · split
    · exact h.recovered ‹_› ‹_›
    · exact h
  · split
    · exact h.finalHalted ‹_› ‹_› .complete
    · exact h.drainTest
  all_goals exact h

theorem PartLaws.checkpointAcked (h : PartLaws s) : PartLaws (checkpointAcked s) := by
  unfold Machine.checkpointAcked
  split
  · exact h
  · rename_i f _
    exact (((h.checkpointPointers f).recheckSpace.requestAtEnd _).endCheckpoint.relocAfterCheckpoint f).checkpointEnds

theorem PartLaws.checkpointFailed (h : PartLaws s) : PartLaws (checkpointFailed s) := by
  have counted : PartLaws (countCheckpointError s) := h.congr
  unfold Machine.checkpointFailed
  dsimp only
  split
  · exact counted.enterFaulted
  · exact (counted.requestAtEnd _).endCheckpoint.drainTest

end Checkpoints

end Sys2Proof.Machine

/-! PROOF. The relocation unit, and the laws that hold together (R134 to R139). -/

namespace Sys2Proof.Machine

/-! ### The relocation unit -/

section Relocation

variable {n : Nat} {s : State}

/-- No line of a target is at the port in READY but while the target is prepared (R136). -/
theorem Laws.relocLines_gone (h : Laws n s) (hm : s.modes.mode = .ready)
    (hs : ∀ stage failed, s.reloc.state ≠ .formattingNew stage failed) : anyRequest s Requester.isRelocLine = false := by
  cases ha : anyRequest s Requester.isRelocLine
  · rfl
  · rcases h.control.target.2.1 ha with ⟨stage, failed, hx⟩ | hd
    · exact absurd hx (hs stage failed)
    · rw [hm] at hd
      cases hd

theorem Laws.relocReady (h : Laws n s) (hr : s.reloc.state ≠ .none) : s.modes.mode = .ready := h.control.mode.2.2.2.2.1 hr

/-- A relocation in progress goes on with the queue empty. -/
theorem Laws.setReloc (h : Laws n s) {x : RelocState} (hr : s.reloc.state ≠ .none) (hq : s.groups.queue = [])
    (hx : anyRequest s Requester.isRelocLine = false ∨ ∃ stage failed, x = .formattingNew stage failed) :
    Laws n (setReloc s x) := by
  obtain ⟨m1, m2, m3, m4, m5, -⟩ := h.control.mode
  obtain ⟨t1, t2, t3⟩ := h.control.target
  refine ⟨h.buffer.congr, h.journal.congr, ⟨m1, m2, m3, m4, fun _ => m5 hr, fun _ _ => hq⟩, h.control.contents.congr,
    fun _ => t1 hr, fun ha => .inl (hx.resolve_left fun hn => ?_), fun _ ha => t3 hr ha⟩
  have : anyRequest s Requester.isRelocLine = true := ha
  rw [hn] at this
  cases this

/-- A relocation ends (R133). -/
theorem PartLaws.endReloc (h : PartLaws s) (hn : anyRequest s Requester.isRelocLine = false) (x : RelocResult) :
    PartLaws (endReloc s x) := by
  obtain ⟨m1, m2, m3, m4, -, -⟩ := h.control.mode
  refine Laws.part (s := s) ⟨h.buffer.congr, h.journal.congr, ⟨m1, m2, m3, m4, fun hr => absurd rfl hr, fun hr => absurd rfl hr⟩,
    h.control.contents.congr, fun hr => absurd rfl hr, fun ha => ?_, fun hr => absurd rfl hr⟩ ⟨rfl, rfl⟩
  have : anyRequest s Requester.isRelocLine = true := ha
  rw [hn] at this
  cases this

/-- A superblock of the old region is handed over while the relocation retires it (R138, R139). -/
theorem PartLaws.retire {r : MediaReq} {x : RelocState} (h : PartLaws s) (hr : s.reloc.state ≠ .none)
    (hq : s.groups.queue = []) (hn : anyRequest s Requester.isRelocLine = false) (hx : r.requester.isNamed = false) :
    PartLaws (handOver (Machine.setReloc s x) [r]) := by
  refine ((Laws.setReloc h hr hq (.inl hn)).handOver (fun q hq => by rwa [List.mem_singleton.1 hq]) fun hd => ?_).part ⟨rfl, rfl⟩
  have ready := Laws.relocReady h hr
  rw [show s.modes.mode = _ from hd] at ready
  cases ready

theorem PartLaws.queueEmpty (h : PartLaws s) {x : RelocState} (hs : s.reloc.state = x) (h1 : x ≠ .none) (h2 : x ≠ .pending) :
    s.groups.queue = [] := h.control.mode.2.2.2.2.2 (hs ▸ h1) (hs ▸ h2)

theorem PartLaws.relocLinesDone (h : PartLaws s) (hn : anyRequest s Requester.isRelocLine = false)
    (hu : s.reloc.state ≠ .none → targetUnissued s = false) : PartLaws (relocLinesDone s) := by
  unfold Machine.relocLinesDone
  split
  · exact h.endReloc hn _
  · rename_i hs
    have some : s.reloc.state ≠ .none := by simp [hs]
    refine (Laws.handRelocLines (Laws.setReloc (x := .formattingNew .superblocks false) h some
      (h.queueEmpty hs (by decide) (by decide)) (.inl hn)) ⟨_, _, rfl⟩ (hu some) fun r hr => ?_).part ⟨rfl, rfl⟩
    rcases List.mem_cons.1 hr with rfl | hr
    · rfl
    · rw [List.mem_singleton.1 hr]
      rfl
  · rename_i hs
    have some : s.reloc.state ≠ .none := by simp [hs]
    have queue := h.queueEmpty hs (by decide) (by decide)
    split
    · have held : PartLaws (Machine.setReloc s .held) := (Laws.setReloc h some queue (.inl hn)).part ⟨rfl, rfl⟩
      exact held.congr
    · exact h.retire some queue hn rfl
  all_goals exact h

theorem PartLaws.relocLineAcked (h : PartLaws s) (hu : s.reloc.state ≠ .none → targetUnissued s = false) :
    PartLaws (relocLineAcked s) := by
  unfold Machine.relocLineAcked
  refine PartLaws.drainTest ?_
  split
  · exact h
  · rename_i hn
    exact h.relocLinesDone (by simpa using hn) hu

theorem PartLaws.relocLineFailed (h : PartLaws s) (hu : s.reloc.state ≠ .none → targetUnissued s = false) :
    PartLaws (relocLineFailed s) := by
  unfold Machine.relocLineFailed
  split
  · rename_i stage failed hs
    have some : s.reloc.state ≠ .none := by simp [hs]
    have left := Laws.withdraw h Requester.isRelocLine
    have failedLaws : PartLaws (Machine.setReloc (Machine.withdraw s Requester.isRelocLine) (.formattingNew stage true)) :=
      (left.setReloc some (h.queueEmpty hs (by simp) (by simp)) (.inr ⟨_, _, rfl⟩)).part ⟨rfl, rfl⟩
    exact failedLaws.relocLineAcked fun _ => hu some
  all_goals exact h.relocLineAcked hu

theorem PartLaws.relocDone (h : PartLaws s) {x : RetireStep} (hs : s.reloc.state = .retiringOld x) :
    PartLaws (Machine.relocDone s) := by
  have some : s.reloc.state ≠ .none := by simp [hs]
  have gone := Laws.relocLines_gone h (Laws.relocReady h some) (by simp [hs])
  have queue := h.queueEmpty hs (by simp) (by simp)
  obtain ⟨m1, m2, m3, m4, -, -⟩ := h.control.mode
  refine Laws.part (s := s) ⟨h.buffer.congr, ⟨h.journal.writer.congr, fun _ => ⟨Nat.zero_le _, fun failed _ e he => ?_⟩,
    h.journal.sequence.congr⟩, ⟨m1, m2, m3, m4, fun hr => absurd rfl hr, fun hr => absurd rfl hr⟩,
    h.control.contents.congr, fun hr => absurd rfl hr, fun ha => ?_, fun hr => absurd rfl hr⟩ ⟨rfl, rfl⟩
  · rw [show (Machine.relocDone s).groups.queue = [] from queue] at he
    cases he
  · have : anyRequest s Requester.isRelocLine = true := ha
    rw [gone] at this
    cases this

theorem PartLaws.retiringAcked (h : PartLaws s) : PartLaws (retiringAcked s) := by
  unfold Machine.retiringAcked
  refine PartLaws.drainTest ?_
  split
  · rename_i hs
    have some : s.reloc.state ≠ .none := by simp [hs]
    exact h.retire some (h.queueEmpty hs (by simp) (by simp))
      (Laws.relocLines_gone h (Laws.relocReady h some) (by simp [hs])) rfl
  · exact h.relocDone ‹_›
  all_goals exact h

theorem PartLaws.retiringFailed (h : PartLaws s) (slot : SbSlot) : PartLaws (retiringFailed slot s) := by
  unfold Machine.retiringFailed
  refine PartLaws.drainTest ?_
  split
  · rename_i hs
    have some : s.reloc.state ≠ .none := by simp [hs]
    exact h.retire some (h.queueEmpty hs (by simp) (by simp))
      (Laws.relocLines_gone h (Laws.relocReady h some) (by simp [hs])) rfl
  all_goals exact h

theorem PartLaws.retiringGone (h : PartLaws s) {x : RetireStep} (hs : s.reloc.state = .retiringOld x) :
    anyRequest s Requester.isRelocLine = false :=
  Laws.relocLines_gone h (Laws.relocReady h (by simp [hs])) (by simp [hs])

theorem PartLaws.restoringAcked (h : PartLaws s) (slot : SbSlot) : PartLaws (restoringAcked slot s) := by
  unfold Machine.restoringAcked
  refine PartLaws.drainTest ?_
  split
  · rename_i hs
    have restored : PartLaws { s with ckpt :=
      { s.ckpt with counter := s.ckpt.counter + 3, nextSlot := slot.other, errors := 0 } } := h.congr
    exact restored.endReloc (h.retiringGone hs) _
  all_goals exact h

theorem PartLaws.restoringFailed (h : PartLaws s) : PartLaws (restoringFailed s) := by
  unfold Machine.restoringFailed
  split
  · exact (h.endReloc (h.retiringGone ‹_›) _).enterFaulted
  all_goals exact h.drainTest

/-! #### Commands -/

theorem PartLaws.relocGo (h : PartLaws s) (hs : s.reloc.state = .held) : PartLaws (enterRetiring (accept s)) := by
  have some : s.reloc.state ≠ .none := by simp [hs]
  have accepted : PartLaws (accept s) := h.congr
  exact accepted.retire some (h.queueEmpty hs (by simp) (by simp))
    (Laws.relocLines_gone accepted (Laws.relocReady accepted some) (by simp [accept, setCommand, hs])) rfl

theorem PartLaws.relocCancel (h : PartLaws s) (hs : s.reloc.state = .pending ∨ s.reloc.state = .held) :
    PartLaws (Machine.endReloc (accept s) .cancelled) := by
  have some : s.reloc.state ≠ .none := by rcases hs with hs | hs <;> simp [hs]
  have accepted : PartLaws (accept s) := h.congr
  refine accepted.endReloc (Laws.relocLines_gone accepted (Laws.relocReady accepted some) fun stage failed hx => ?_) _
  rw [show s.reloc.state = _ from hx] at hs
  rcases hs with hs | hs <;> cases hs

theorem PartLaws.acceptReloc (h : PartLaws s) (ha : relocAcceptable s = true) : PartLaws (acceptReloc s) := by
  simp only [relocAcceptable, Bool.and_eq_true, beq_iff_eq] at ha
  obtain ⟨⟨⟨⟨ready, idle⟩, -⟩, -⟩, -⟩ := ha
  have gone := Laws.relocLines_gone h ready (by simp [idle])
  obtain ⟨m1, m2, m3, m4, -, -⟩ := h.control.mode
  have accepted : PartLaws (accept { s with
      reloc := { state := .pending, result := .none, target := relocTarget s, hold := s.regs.relocHold }
      decoder := { s.decoder with guardTarget := some (relocTarget s) } }) := by
    refine Laws.part (s := s) ⟨h.buffer.congr, h.journal.congr, ⟨m1, m2, m3, m4, fun _ => ready, fun _ hp => absurd rfl hp⟩,
      h.control.contents.congr, fun _ => rfl, fun ha => ?_, fun _ ha => ?_⟩ ⟨rfl, rfl⟩
    all_goals
      have : anyRequest s Requester.isRelocLine = true := ha
      rw [gone] at this
      cases this
  unfold Machine.acceptReloc
  dsimp only
  split
  · exact accepted.raiseTrigger
  · exact accepted

end Relocation

end Sys2Proof.Machine

/-! PROOF. A format, and the laws that hold together (R120, R121, R148). -/

namespace Sys2Proof.Machine

/-! ### A format -/

section Format

variable {s t : State}

/-- What the part is like in FORMATTING. -/
structure InFormat (s : State) : Prop where
  nothing : HoldsNothing s
  mode : s.modes.mode = .formatting
  recovery : s.recovery = none
  reloc : s.reloc.state = .none
  withdrawn : s.apply.withdrawn = false
  scratch : s.staging.scratch = none
  noTarget : anyRequest s Requester.isRelocLine = false

theorem InFormat.partLaws (h : InFormat s) : PartLaws s := by
  obtain ⟨nothing, mode, recovery, reloc, withdrawn, scratch, noTarget⟩ := h
  refine nothing.partLaws (nothing.laws ⟨?_, fun _ => mode, fun _ => mode, ?_, fun hr => absurd reloc hr,
    fun hr => absurd reloc hr⟩ ⟨fun hr => absurd reloc hr, ?_, fun hr => absurd reloc hr⟩ ?_ (fun hm => ?_) ?_)
  · rw [recovery]
    exact fun h => by cases h
  · rw [withdrawn]
    exact fun h => by cases h
  · rw [noTarget]
    exact fun h => by cases h
  · rw [scratch]
    exact fun h => by cases h
  · rw [mode] at hm
    cases hm
  · rw [journalInUse_iff, mode, inFinal, recovery]
    rintro (h | ⟨h, -⟩ | h) <;> cases h

theorem PartLaws.scratchNone (h : PartLaws s) (hr : s.modes.mode ≠ .recovering) (hd : s.modes.mode ≠ .draining) :
    s.staging.scratch = none := by
  by_contra hs
  exact (h.control.contents.2.2.2.2 (Option.isSome_iff_ne_none.2 hs)).2.elim hr hd

theorem PartLaws.recoveryNone (h : PartLaws s) (hr : s.modes.mode ≠ .recovering) : s.recovery = none := by
  by_contra hv
  exact hr (h.control.mode.1 (Option.isSome_iff_ne_none.2 hv))

theorem PartLaws.noTarget (h : PartLaws s) (hm : s.modes.mode ≠ .ready) (hd : s.modes.mode ≠ .draining) :
    anyRequest s Requester.isRelocLine = false := by
  cases ha : anyRequest s Requester.isRelocLine
  · rfl
  · rcases h.control.target.2.1 ha with ⟨_, _, hs⟩ | hd'
    · rw [h.relocNone hm] at hs
      cases hs
    · exact absurd hd' hd

theorem PartLaws.inFormat (h : PartLaws s) (hm : s.modes.mode = .formatting) : InFormat s :=
  have notReady : s.modes.mode ≠ .ready := by simp [hm]
  have notDraining : s.modes.mode ≠ .draining := by simp [hm]
  have notRecovering : s.modes.mode ≠ .recovering := by simp [hm]
  ⟨h.holdsNothing notReady fun hd => absurd hd notDraining, hm, h.recoveryNone notRecovering, h.relocNone notReady,
    h.notWithdrawn notDraining, h.scratchNone notRecovering notDraining, h.noTarget notReady notDraining⟩

/-- A format goes on in a change of its own marks. -/
theorem InFormat.congr (h : InFormat s) (hg : t.groups = s.groups := by rfl) (hs : t.staging = s.staging := by rfl)
    (hc : t.claims = s.claims := by rfl) (hd : t.reads = s.reads := by rfl)
    (hr : t.media.requests = s.media.requests := by rfl) (ha : t.apply = s.apply := by rfl)
    (hm : t.modes.mode = s.modes.mode := by rfl) (hj : t.journal = s.journal := by rfl)
    (hv : t.recovery = s.recovery := by rfl) (hl : t.reloc = s.reloc := by rfl)
    (hf : t.fabric = s.fabric := by rfl) : InFormat t := by
  obtain ⟨⟨held, records, slots, index, queue, reads, engine, writer, taken, room, next, unapplied, requests⟩, mode, recovery,
    reloc, withdrawn, scratch, noTarget⟩ := h
  refine ⟨⟨?_, ?_, ?_, ?_, ?_, ?_, ?_, ?_, ?_, ?_, ?_, ?_, ?_⟩, hm.trans mode, hv.trans recovery, ?_, ?_, ?_, ?_⟩
  · rwa [NoneHeld, hc, hs]
  · simpa only [recordOf, hg] using records
  · rwa [hs]
  · rwa [hs]
  · rwa [hg]
  · rwa [hd]
  · rwa [ha]
  · rwa [hj]
  · rwa [hf]
  · rwa [hf]
  · rwa [hj]
  · rwa [hj]
  · rwa [hr]
  · rwa [hl]
  · rwa [ha]
  · rwa [hs]
  · rwa [anyRequest, hr]

theorem InFormat.handOver {rs : List MediaReq} (h : InFormat s) (hr : ∀ r ∈ rs, r.requester = .formatLine) :
    InFormat (handOver s rs) := by
  obtain ⟨⟨held, records, slots, index, queue, reads, engine, writer, taken, room, next, unapplied, requests⟩, mode, recovery,
    reloc, withdrawn, scratch, noTarget⟩ := h
  refine ⟨⟨held, records, slots, index, queue, reads, engine, writer, taken, room, next, unapplied, fun q hq => ?_⟩, mode,
    recovery, reloc, withdrawn, scratch, ?_⟩
  · change q ∈ namedRequesters (s.media.requests ++ rs) at hq
    rw [namedRequesters_append] at hq
    rcases List.mem_append.1 hq with hq | hq
    · exact requests q hq
    · obtain ⟨r, hmem, rfl⟩ := List.mem_map.1 (List.mem_of_mem_filter hq)
      exact .inl (hr r hmem)
  · rw [anyRequest_handOver_of_none fun r hmem => by rw [hr r hmem]; rfl]
    exact noTarget

theorem InFormat.withdraw (h : InFormat s) (p : Requester → Bool) : InFormat (withdraw s p) :=
  PartLaws.inFormat ((Laws.withdraw h.partLaws p).part ⟨rfl, rfl⟩) h.mode

/-- The part enters FORMATTING from IDLE (R120). -/
theorem PartLaws.enterFormatting (h : PartLaws s) (hm : s.modes.mode = .idle) : PartLaws (enterFormatting s) := by
  have notReady : s.modes.mode ≠ .ready := by simp [hm]
  have notDraining : s.modes.mode ≠ .draining := by simp [hm]
  obtain ⟨held, records, slots, index, queue, reads, engine, writer, taken, room, next, unapplied, requests⟩ :=
    h.holdsNothing notReady fun hd => absurd hd notDraining
  have entered : InFormat (setFormat (setMode (setStart (takeRegion s) .none) .formatting) .clearing false) :=
    ⟨⟨held, records, slots, index, queue, reads, engine, writer, taken, room, next, unapplied, requests⟩, rfl,
      h.recoveryNone (by simp [hm]), h.relocNone notReady, h.notWithdrawn notDraining,
      h.scratchNone (by simp [hm]) notDraining, h.noTarget notReady notDraining⟩
  exact (entered.handOver fun r hr => clearingLines_requester hr).partLaws

/-- A part that holds nothing enters HALTED. -/
theorem PartLaws.bareHalted (h : PartLaws s) (hm : s.modes.mode ≠ .ready)
    (hd : s.modes.mode = .draining → s.drain.origin ≠ some .ready) (hq : namedRequesters s.media.requests = [])
    (x : DrainStatus) : PartLaws (enterHalted s x) := by
  have nothing := h.holdsNothing hm hd
  refine enterHalted_partLaws x nothing.held.1 ?_ ?_ nothing.next nothing.unapplied hq (h.relocNone hm)
  · rw [nothing.taken, nothing.queue]
    rfl
  · rw [nothing.taken]
    exact nothing.room

/-- Both superblocks of a format are acknowledged (R120). -/
theorem InFormat.complete (h : InFormat s) (hq : namedRequesters s.media.requests = []) : PartLaws (formatComplete s) := by
  obtain ⟨⟨held, records, slots, index, queue, reads, engine, writer, taken, room, -, -, requests⟩, -, recovery, reloc,
    withdrawn, scratch, -⟩ := h
  exact HoldsNothing.ready ⟨held, records, slots, index, queue, reads, engine, writer, taken, room, rfl,
    show ((0 : Seq) - 0).toNat ≤ Config.commitDepth by decide, requests⟩
    hq recovery rfl withdrawn reloc scratch (Nat.zero_le _) rfl

theorem InFormat.fails (h : InFormat s) (hq : namedRequesters s.media.requests = []) : PartLaws (formatFails s) := by
  obtain ⟨⟨held, records, slots, index, queue, reads, engine, writer, taken, room, next, unapplied, requests⟩, -, recovery, reloc,
    withdrawn, scratch, -⟩ := h
  refine HoldsNothing.partLaws_outside ⟨held, records, slots, index, queue, reads, engine, writer, taken, room, next, unapplied,
    requests⟩ hq ⟨(fun h => by cases h), (fun h => by cases h)⟩ reloc withdrawn ?_ ?_ (fun h => by cases h) ?_
  · change s.recovery.isSome = true → _
    rw [recovery]
    exact fun h => by cases h
  · change s.recovery.any _ = false
    rw [recovery]
    rfl
  · change s.staging.scratch.isSome = true → _
    rw [scratch]
    exact fun h => by cases h

theorem InFormat.linesDone (h : InFormat s) (hn : anyRequest s Requester.isFormat = false) : PartLaws (formatLinesDone s) := by
  have notReady : s.modes.mode ≠ .ready := by simp [h.mode]
  have notDraining : s.modes.mode ≠ .draining := by simp [h.mode]
  have unnamed := h.partLaws.unnamed_of_noFormat notReady notDraining hn
  unfold formatLinesDone
  split
  · exact h.partLaws.bareHalted notReady (fun hd => absurd hd notDraining) unnamed .complete
  · split
    · exact h.partLaws
    · split
      · exact h.fails unnamed
      · split
        · have stage : InFormat (setFormat s .superblocks false) := h.congr
          refine (stage.handOver fun r hr => ?_).partLaws
          rcases List.mem_cons.1 hr with rfl | hr
          · rfl
          · rw [List.mem_singleton.1 hr]
            rfl
        · exact h.complete unnamed

theorem InFormat.lineAcked (h : InFormat s) : PartLaws (formatLineAcked s) := by
  unfold formatLineAcked
  split
  · exact h.partLaws
  · rename_i hn
    exact h.linesDone (by simpa using hn)

theorem InFormat.lineFailed (h : InFormat s) : PartLaws (formatLineFailed s) := by
  unfold formatLineFailed
  split
  · exact h.lineAcked
  · exact InFormat.lineAcked (h.withdraw Requester.isFormat).congr

/-- PFW_N in FORMATTING (R121, R148). -/
theorem InFormat.interrupt (h : InFormat s) : PartLaws (interruptFormat s) :=
  InFormat.lineAcked (h.withdraw Requester.isFormat).congr

end Format

end Sys2Proof.Machine

/-! PROOF. A recovery, and the laws that hold together (R124 to R131). -/

namespace Sys2Proof.Machine

/-! ### A recovery -/

section Recovering

variable {s t : State}

/-- What the part is like in RECOVERING. -/
structure InRecovery (s : State) : Prop where
  nothing : HoldsNothing s
  unnamed : namedRequesters s.media.requests = []
  mode : s.modes.mode = .recovering
  reloc : s.reloc.state = .none
  withdrawn : s.apply.withdrawn = false
  format : s.format = none
  final : inFinal s = true → s.journal.used ≤ s.journal.region.ringLength
    ∧ s.journal.durableThrough = s.journal.appliedThrough

theorem InRecovery.partLaws (h : InRecovery s) : PartLaws s := by
  obtain ⟨nothing, unnamed, mode, reloc, withdrawn, format, final⟩ := h
  have noRequest {p : Requester → Bool} (hp : ∀ q, p q = true → q.isNamed = true) : anyRequest s p = false := by
    rw [anyRequest_eq s hp, unnamed]
    rfl
  refine nothing.partLaws (nothing.laws ⟨fun _ => mode, ?_, ?_, ?_, fun hr => absurd reloc hr,
    fun hr => absurd reloc hr⟩ ⟨fun hr => absurd reloc hr, ?_, fun hr => absurd reloc hr⟩ (fun _ => .inl mode) (fun hm => ?_) ?_)
  · rw [format]
    exact fun h => by cases h
  · rw [noRequest fun _ => isNamed_of_isFormat]
    exact fun h => by cases h
  · rw [withdrawn]
    exact fun h => by cases h
  · rw [noRequest fun _ => isNamed_of_isRelocLine]
    exact fun h => by cases h
  · rw [mode] at hm
    cases hm
  · rw [journalInUse_iff, mode]
    rintro (h | ⟨h, -⟩ | h)
    · cases h
    · cases h
    · exact final h

theorem PartLaws.inRecovery (h : PartLaws s) (hm : s.modes.mode = .recovering) : InRecovery s := by
  have notReady : s.modes.mode ≠ .ready := by simp [hm]
  have notDraining : s.modes.mode ≠ .draining := by simp [hm]
  have notFormatting : s.modes.mode ≠ .formatting := by simp [hm]
  have nothing := h.holdsNothing notReady fun hd => absurd hd notDraining
  refine ⟨nothing, h.unnamed notReady notDraining notFormatting, hm, h.relocNone notReady, h.notWithdrawn notDraining,
    h.formatNone notFormatting, fun hf => ?_⟩
  have inUse : JournalInUse s := .inr (.inr hf)
  have durable := h.journal.sequence.2.2.2.2.2.2 inUse
  rw [unappliedEntries, nothing.queue] at durable
  exact ⟨(h.journal.space inUse).1, durable.trans (BitVec.add_zero _)⟩

/-- What a step of a recovery leaves alone. -/
structure RecoveryKeeps (s t : State) : Prop where
  groups : t.groups = s.groups := by rfl
  slots : t.staging.slots = s.staging.slots := by rfl
  index : t.staging.index = s.staging.index := by rfl
  slotWait : t.staging.slotWait = s.staging.slotWait := by rfl
  claims : t.claims = s.claims := by rfl
  reads : t.reads = s.reads := by rfl
  apply : t.apply = s.apply := by rfl
  mode : t.modes.mode = s.modes.mode := by rfl
  writer : t.journal.writer = s.journal.writer := by rfl
  reloc : t.reloc = s.reloc := by rfl
  format : t.format = s.format := by rfl
  fabric : t.fabric = s.fabric := by rfl

theorem InRecovery.next (h : InRecovery s) (k : RecoveryKeeps s t)
    (hq : namedRequesters t.media.requests = namedRequesters s.media.requests)
    (hn : t.journal.nextSeq = t.journal.durableThrough + 1)
    (hd : (t.journal.durableThrough - t.journal.appliedThrough).toNat ≤ Config.commitDepth)
    (hf : inFinal t = true → t.journal.used ≤ t.journal.region.ringLength
      ∧ t.journal.durableThrough = t.journal.appliedThrough) : InRecovery t := by
  obtain ⟨⟨held, records, slots, index, queue, reads, engine, writer, taken, room, next, unapplied, requests⟩, unnamed, mode,
    reloc, withdrawn, format, final⟩ := h
  refine ⟨⟨?_, ?_, k.slots.trans slots, k.index.trans index, ?_, k.reads.trans reads, ?_, k.writer.trans writer, ?_, ?_, hn, hd,
    ?_⟩, hq.trans unnamed, k.mode.trans mode, ?_, ?_, k.format.trans format, hf⟩
  · rwa [NoneHeld, k.claims, k.slotWait]
  · simpa only [recordOf, k.groups] using records
  · rwa [k.groups]
  · rwa [k.apply]
  · rwa [k.fabric]
  · rwa [k.fabric]
  · rwa [hq]
  · rwa [k.reloc]
  · rwa [k.apply]

/-- A step of a recovery that leaves the journal and is not in phase FINAL. -/
theorem InRecovery.goesOn (h : InRecovery s) (k : RecoveryKeeps s t)
    (hq : namedRequesters t.media.requests = namedRequesters s.media.requests) (hj : t.journal = s.journal)
    (hf : inFinal t = false) : InRecovery t :=
  h.next k hq (by rw [hj]; exact h.nothing.next) (by rw [hj]; exact h.nothing.unapplied) fun hf' => by
    rw [hf] at hf'
    cases hf'

theorem namedRequesters_handOver {rs : List MediaReq} (hr : ∀ r ∈ rs, r.requester.isNamed = false) :
    namedRequesters (handOver s rs).media.requests = namedRequesters s.media.requests := by
  change namedRequesters (s.media.requests ++ rs) = _
  rw [namedRequesters_append, namedRequesters_eq_nil hr, List.append_nil]

/-- A phase begins with the requests that it hands over. -/
theorem InRecovery.phase (h : InRecovery s) {r : Recovery} (hf : (r.phase == .final) = false) {rs : List MediaReq}
    (hr : ∀ x ∈ rs, x.requester.isNamed = false) : InRecovery (handOver (setRecovery s r) rs) :=
  h.goesOn {} (namedRequesters_handOver (s := setRecovery s r) hr) rfl hf

theorem toNat_sub_self (a : Seq) : (a - a).toNat ≤ Config.commitDepth := by
  rw [sub_self]
  exact Nat.zero_le _

theorem InRecovery.enterFinal (h : InRecovery s) (r : Recovery) : PartLaws (enterFinal s r) := by
  have entered : InRecovery (setRecovery
      { s with journal :=
        { s.journal with
          head := r.scanOffset
          retiredTail := r.scanOffset
          releasedTail := r.scanOffset
          used := 0
          retiredSpan := 0
          appliedThrough := s.journal.appliedThrough
          durableThrough := s.journal.appliedThrough
          nextSeq := s.journal.appliedThrough + 1 } }
      { r with phase := .final }) :=
    h.next {} rfl rfl (toNat_sub_self s.journal.appliedThrough) fun _ => ⟨Nat.zero_le _, rfl⟩
  exact entered.partLaws.raiseTrigger

theorem InRecovery.enterHeader (h : InRecovery s) (r : Recovery) : PartLaws (enterHeader s r) := by
  unfold Machine.enterHeader
  split
  · exact h.enterFinal r
  · exact (h.phase rfl fun x hx => by rw [List.mem_singleton.1 hx]; rfl).partLaws

/-- The sequences of a record become those of the journal, with nothing unapplied. -/
theorem InRecovery.sequences (h : InRecovery s) {j : Journal} {c : Checkpoint} (hw : j.writer = s.journal.writer)
    (hn : j.nextSeq = j.durableThrough + 1) (hd : j.durableThrough = j.appliedThrough) (hf : inFinal s = false) :
    InRecovery { s with journal := j, ckpt := c } :=
  h.next { writer := hw } rfl hn (by rw [hd]; exact toNat_sub_self _) fun hf' => by
    rw [show inFinal s = true from hf'] at hf
    cases hf

theorem inFinal_of_phase {r : Recovery} (hr : s.recovery = some r) (hp : r.phase ≠ .final) : inFinal s = false := by
  simp [inFinal, hr, hp]

theorem InRecovery.toIdle (h : InRecovery s) (v : StartStatus) : PartLaws (recoveryToIdle s v) := by
  obtain ⟨⟨held, records, slots, index, queue, reads, engine, writer, taken, room, next, unapplied, requests⟩, unnamed, mode,
    reloc, withdrawn, format, final⟩ := h
  refine HoldsNothing.partLaws_outside ⟨held, records, slots, index, queue, reads, engine, writer, taken, room, next, unapplied,
    requests⟩ unnamed ⟨(fun h => by cases h), (fun h => by cases h)⟩ reloc withdrawn (fun h => by cases h) rfl ?_
    fun h => by cases h
  change s.format.isSome = true → _
  rw [format]
  exact fun h => by cases h

theorem InRecovery.judgeCopies (h : InRecovery s) {r : Recovery} (hf : inFinal s = false) (a b : Line) :
    PartLaws (judgeCopies s r a b) := by
  unfold Machine.judgeCopies
  split
  · exact h.toIdle _
  · split
    · exact InRecovery.toIdle (h.goesOn (t := setRelocated s _) {} rfl rfl hf) _
    · split
      · exact h.toIdle _
      · unfold beginScan
        exact InRecovery.enterHeader (h.sequences (by rfl) (by rfl) (by rfl) hf) _

/-- In a recovery the part is in RECOVERING. -/
theorem PartLaws.recovering (h : PartLaws s) {r : Recovery} (hr : s.recovery = some r) : InRecovery s :=
  h.inRecovery (h.control.mode.1 (by rw [hr]; rfl))

theorem PartLaws.superblockRead (h : PartLaws s) (slot : SbSlot) (data : Line) : PartLaws (superblockRead slot data s) := by
  unfold Machine.superblockRead
  split
  · exact h.drainTest
  · rename_i r hr
    have recovery := h.recovering hr
    split
    · rename_i a b hp
      split
      · exact recovery.judgeCopies (inFinal_of_phase hr (by simp [hp])) _ _
      · exact InRecovery.partLaws (recovery.goesOn {} rfl rfl rfl)
    all_goals exact h

theorem InRecovery.beginRecord (h : InRecovery s) (r : Recovery) (n : Nat) (header : Line) :
    PartLaws (beginRecord s r n header) := by
  have scratch : namedRequesters (Machine.beginRecord s r n header).media.requests = namedRequesters s.media.requests :=
    namedRequesters_handOver (s := s) fun x hx => by
      obtain ⟨i, -, rfl⟩ := List.mem_map.1 hx
      rfl
  exact InRecovery.partLaws (h.goesOn {} scratch rfl rfl)

theorem PartLaws.headerRead (h : PartLaws s) (data : Line) : PartLaws (headerRead data s) := by
  unfold Machine.headerRead
  split
  · exact h.drainTest
  · rename_i r hr
    have recovery := h.recovering hr
    split
    · split
      · split
        · exact recovery.beginRecord r _ data
        · exact recovery.enterFinal r
      · exact recovery.enterFinal r
    all_goals exact h

theorem InRecovery.judgeRecord (h : InRecovery s) (r : Recovery) (hf : inFinal s = false) : PartLaws (judgeRecord s r) := by
  unfold Machine.judgeRecord
  split
  · refine (h.phase rfl fun x hx => ?_).partLaws
    obtain ⟨i, -, rfl⟩ := List.mem_map.1 hx
    rfl
  · exact InRecovery.enterFinal (h.goesOn (t := setFlag s .tornGroup) {} rfl rfl hf) r

theorem PartLaws.recordRead (h : PartLaws s) (i : Nat) (data : Line) : PartLaws (recordRead i data s) := by
  unfold Machine.recordRead
  split
  · exact h.drainTest
  · rename_i r hr
    have recovery := h.recovering hr
    split
    · rename_i hp
      have notFinal := inFinal_of_phase hr (by simp [hp])
      have noted : InRecovery (setScratch s (scratchLines s ++ [(i, data)])) := recovery.goesOn {} rfl rfl notFinal
      dsimp only
      split
      · exact noted.partLaws
      · exact noted.judgeRecord r notFinal
    all_goals exact h

theorem PartLaws.replayAcked (h : PartLaws s) : PartLaws (replayAcked s) := by
  unfold Machine.replayAcked
  split
  · exact h.drainTest
  · rename_i r hr
    have recovery := h.recovering hr
    split
    · rename_i hp
      split
      · exact h
      · unfold recordReplayed
        exact InRecovery.enterHeader (recovery.sequences (c := s.ckpt) (by rfl) (by rfl) (by rfl)
          (inFinal_of_phase hr (by simp [hp]))) _
    all_goals exact h

theorem PartLaws.recoveryReadFailed (h : PartLaws s) : PartLaws (recoveryReadFailed s) := by
  unfold Machine.recoveryReadFailed
  split
  · exact h.enterFaulted
  · exact h.drainTest

theorem superblockReads_unnamed {r : MediaReq} (h : r ∈ superblockReads s) : r.requester.isNamed = false := by
  rcases List.mem_cons.1 h with rfl | h
  · rfl
  · rw [List.mem_singleton.1 h]
    rfl

theorem PartLaws.linkReady (h : PartLaws s) : PartLaws (linkReady s) := by
  unfold Machine.linkReady
  split
  · exact h.drainTest
  · rename_i r hr
    split
    · exact ((h.recovering hr).phase rfl fun x hx => superblockReads_unnamed hx).partLaws
    all_goals exact h

theorem PartLaws.linkResetAck (h : PartLaws s) : PartLaws (Machine.linkReady (clearLink s)) :=
  PartLaws.linkReady ((Laws.fewer (m := Media.reset) h (List.nil_sublist _)).part ⟨rfl, rfl⟩)

/-- START (R119). -/
theorem PartLaws.start (h : PartLaws s) (hm : s.modes.mode = .idle) : PartLaws (enterRecovering s .start) := by
  have notReady : s.modes.mode ≠ .ready := by simp [hm]
  have notDraining : s.modes.mode ≠ .draining := by simp [hm]
  have notFormatting : s.modes.mode ≠ .formatting := by simp [hm]
  obtain ⟨held, records, slots, index, queue, reads, engine, writer, taken, room, next, unapplied, requests⟩ :=
    h.holdsNothing notReady fun hd => absurd hd notDraining
  have entered : InRecovery (beginRecovering s (.superblocks none none) .start) :=
    ⟨⟨held, records, slots, index, queue, reads, engine, writer, taken, room, next, unapplied, requests⟩,
      h.unnamed notReady notDraining notFormatting, rfl, h.relocNone notReady, h.notWithdrawn notDraining,
      h.formatNone notFormatting, fun hf => by cases hf⟩
  refine InRecovery.partLaws (entered.goesOn {} (namedRequesters_handOver fun x hx => superblockReads_unnamed hx) rfl rfl)

/-- RESUME (R123). -/
theorem PartLaws.resumePart (h : PartLaws s) (hm : s.modes.mode = .halted) : PartLaws (resumePart s) := by
  have notReady : s.modes.mode ≠ .ready := by simp [hm]
  have notDraining : s.modes.mode ≠ .draining := by simp [hm]
  have notFormatting : s.modes.mode ≠ .formatting := by simp [hm]
  obtain ⟨held, records, slots, index, queue, reads, engine, writer, taken, room, next, unapplied, requests⟩ :=
    h.holdsNothing notReady fun hd => absurd hd notDraining
  exact HoldsNothing.recovering (a := { s with drain := { s.drain with doneOut := false } })
    ⟨held, records, slots, index, queue, reads, engine, writer, taken, room, next, unapplied, requests⟩ (by decide)
    (h.unnamed notReady notDraining notFormatting) (h.relocNone notReady) (h.notWithdrawn notDraining)
    (h.formatNone notFormatting)

end Recovering

end Sys2Proof.Machine

/-! PROOF. Entry to DRAINING from READY, and the laws that hold together (R143). -/

namespace Sys2Proof.Machine

/-! ### Entry to DRAINING -/

section Draining

variable {n : Nat} {s t : State}

/-- The laws of the slots, the queue and the journal. -/
structure CoreLaws (n : Nat) (s : State) : Prop where
  buffer : BufferLaws n s
  journal : JournalLaws s

/-- Turns that keep a property. -/
theorem foldl_invariant {α β : Type} {f : β → α → β} {p : β → Prop} (h : ∀ b a, p b → p (f b a)) (l : List α) {b : β} (hb : p b) :
    p (l.foldl f b) := by
  induction l generalizing b with
  | nil => exact hb
  | cons a l ih => exact ih (h b a hb)

/-- Turns over elements told apart by a key, each of which stands until its turn. -/
theorem foldl_stands {α β γ : Type} {f : β → α → β} {p : β → Prop} {q : β → α → Prop} {key : α → γ}
    (turn : ∀ b a, p b → q b a → p (f b a)) (stands : ∀ b a x, key x ≠ key a → q b x → q (f b a) x) (l : List α)
    (hd : (l.map key).Nodup) {b : β} (hb : p b) (hq : ∀ a ∈ l, q b a) : p (l.foldl f b) := by
  induction l generalizing b with
  | nil => exact hb
  | cons a l ih =>
    rw [List.map_cons, List.nodup_cons] at hd
    refine ih hd.2 (turn b a hb (hq a (List.mem_cons_self ..))) fun x hx => ?_
    exact stands b a x (fun heq => hd.1 (heq ▸ List.mem_map_of_mem hx)) (hq x (List.mem_cons_of_mem _ hx))

theorem CoreLaws.massAbortRecord (h : CoreLaws n s) (st : Stream) : CoreLaws n (massAbortRecord s st) := by
  unfold Machine.massAbortRecord
  split
  · exact h
  · rename_i hr
    obtain ⟨staging, owner, index, claim, pin, home, count⟩ := h.buffer
    refine ⟨⟨staging.congr, owner.records fun x => ?_, index.congr, claim.congr, pin.congr, home.congr, count.congr⟩,
      h.journal.congr⟩
    rw [recordOf_setRecord]
    split
    · rename_i heq
      rw [← heq, hr]
      rfl
    · rfl
  · rename_i slots _ hr
    have ended := h.buffer.endRecord st (r := .absent) rfl
    rw [hr] at ended
    exact ⟨ended.congr, h.journal.congr⟩

/-- Every held write is answered. -/
theorem CoreLaws.answerHeld (reason : Reason) (l : List HeldWrite) (h : CoreLaws l.length s) :
    CoreLaws 0 (l.foldl (answerHeldAborted reason) s) := by
  induction l generalizing s with
  | nil => exact h
  | cons x l ih => exact ih ⟨h.buffer.answerTaken _, h.journal.congr⟩

theorem CoreLaws.abortHeld (h : CoreLaws (heldWrites s).length s) (reason : Reason) : CoreLaws 0 (abortHeld s reason) :=
  have answered := h.answerHeld reason (heldWrites s)
  ⟨answered.buffer.congr, answered.journal.congr⟩

/-- A SEALED entry is aborted. -/
theorem CoreLaws.abortEntry (h : CoreLaws n s) {e : Entry} (he : e ∈ s.groups.queue) (hx : e.state = .sealed) (reason : Reason) :
    CoreLaws n (abortEntry s e reason) := by
  have serials := h.buffer.count.serials
  obtain ⟨w1, w2⟩ := h.journal.writer
  refine ⟨((h.buffer.endEntry he (.inl hx)).answerTaken (abortedAnswer e.stream e.tag reason)).congr,
    ⟨⟨?_, w2⟩, (h.journal.space.endEntry (e := e)).congr, (h.journal.sequence.endEntry serials he (.inl hx)).congr⟩⟩
  have count := countP_queueWithout serials he fun x => x.state == .journaling
  rw [if_neg (by simp [hx]), Nat.add_zero] at count
  exact count.symm.trans w1

theorem CoreLaws.abortSealed (h : CoreLaws n s) :
    CoreLaws n (s.groups.queue.foldl (massAbortEntry .powerfail) s) := by
  refine foldl_stands (p := CoreLaws n) (q := fun s e => e ∈ s.groups.queue) (key := Entry.serial) (fun s e h he => ?_)
    (fun s e x hne hx => ?_) s.groups.queue h.buffer.count.serials h fun e he => he
  · unfold massAbortEntry
    split
    · exact h.abortEntry he ‹_› _
    · exact h
    · exact h
    · exact h
  · rw [(massAbortEntry_lists .powerfail s e).1]
    split
    · exact List.mem_filter.2 ⟨hx, by simpa using hne⟩
    · exact hx

theorem CoreLaws.massAbort (h : CoreLaws (heldWrites s).length s) : CoreLaws 0 (massAbort s .powerfail) := by
  have records : CoreLaws (heldWrites s).length (allStreams.foldl Machine.massAbortRecord s) :=
    foldl_invariant (p := CoreLaws (heldWrites s).length) (fun _ st h => h.massAbortRecord st) allStreams h
  have held : heldWrites (allStreams.foldl Machine.massAbortRecord s) = heldWrites s :=
    foldl_unchanged (p := heldWrites) (fun s st => (massAbortRecord_lists s st).2.1) _ s
  rw [← held] at records
  have aborted : CoreLaws 0 (recordsAborted s AbortCause.powerfail.reason) := records.abortHeld _
  rw [massAbort_powerfail, entriesAborted]
  exact aborted.abortSealed

theorem CoreLaws.endRead {w : Work} {e : TrackerEntry} (h : CoreLaws n w.s) (he : e ∈ w.s.reads) (x : Status) :
    CoreLaws n (endRead x w e).s :=
  ⟨((h.buffer.readEnded he).answerTaken (plainAnswer e.stream e.tag x)).congr, h.journal.congr⟩

theorem CoreLaws.endReads {es : List TrackerEntry} (h : CoreLaws n s) (he : es.Sublist s.reads) (x : Status) :
    CoreLaws n (endReads s es x) :=
  foldl_stands (p := fun w : Work => CoreLaws n w.s) (q := fun w e => e ∈ w.s.reads) (key := TrackerEntry.serial)
    (fun _ _ h he => h.endRead he x) (fun w e y hne hy => List.mem_filter.2 ⟨hy, by simpa using hne⟩) es
    (h.buffer.count.reads.sublist (he.map _)) h fun e hmem => he.subset hmem

theorem CoreLaws.requests {m : Media} (h : CoreLaws n s)
    (hm : (m.requests.map MediaReq.requester).Sublist (s.media.requests.map MediaReq.requester)) :
    CoreLaws n { s with media := m } := ⟨h.buffer.requests (hm.filter _), h.journal.requests (hm.filter _)⟩

theorem CoreLaws.withdraw (h : CoreLaws n s) (p : Requester → Bool) : CoreLaws n (withdraw s p) :=
  h.requests (List.filter_sublist.map _)

theorem CoreLaws.answerQueues (h : CoreLaws n s) (x : Status) : CoreLaws n (answerQueues s x) := by
  obtain ⟨f, w, eq, taken, room⟩ := answerQueues_fabric s x
  rw [eq]
  have counted := h.buffer.recount (m := n) (f := f) (by rw [taken]) (room h.buffer.count.room)
  exact ⟨counted.congr, h.journal.congr⟩

theorem CoreLaws.powerfailed (h : CoreLaws (heldWrites s).length s) : CoreLaws 0 (powerfailed s) := by
  have cancelled : CoreLaws (heldWrites s).length (cancelReloc s) := by
    unfold cancelReloc
    split
    · exact h
    · exact ⟨h.buffer.congr, h.journal.congr⟩
  have held : heldWrites (Machine.withdraw (cancelReloc s) Requester.isReloc) = heldWrites s := by
    unfold cancelReloc
    split <;> rfl
  have left := cancelled.withdraw Requester.isReloc
  rw [← held] at left
  exact (left.massAbort.endReads List.filter_sublist _).withdraw _

/-- The part as a drain from READY begins, the home writes aside. -/
def drainEntered (s : State) : State := setMode (beginDrain s .ready) .draining

theorem CoreLaws.drainEntered (h : CoreLaws n s) (hm : s.modes.mode = .ready) : CoreLaws n (drainEntered s) := by
  obtain ⟨staging, owner, index, claim, pin, ⟨h1, h2, h3, h4, -, h6⟩, count⟩ := h.buffer
  have use (_ : JournalInUse (Machine.drainEntered s)) : JournalInUse s := .inl hm
  exact ⟨⟨staging.congr, owner.congr, index.congr, claim.congr, pin.congr,
    ⟨h1, h2, h3, h4, (fun hm => by cases hm), h6⟩, count.congr⟩,
    ⟨h.journal.writer.congr, h.journal.space.congr (huse := use), h.journal.sequence.congr (huse := use)⟩⟩

theorem withdrawHomeWrites_drainEntered (s : State) :
    drainEntered (withdrawHomeWrites s) = withdrawHomeWrites (drainEntered s) := by
  have issued : homeWriteIssued (drainEntered s) = homeWriteIssued s := rfl
  have engine : (drainEntered s).apply = s.apply := rfl
  unfold withdrawHomeWrites
  rw [issued, engine]
  dsimp only
  split <;> rfl

theorem filter_eq_of_length {α : Type} {p : α → Bool} {l : List α} (h : ¬(l.filter p).length < l.length) : l.filter p = l :=
  List.filter_sublist.eq_of_length (Nat.le_antisymm (List.length_filter_le p l) (Nat.not_lt.1 h))

/-- The engine withdraws its home writes in DRAINING (R108). -/
theorem CoreLaws.withdrawHomeWrites (h : CoreLaws n s) (hm : s.modes.mode ≠ .ready) :
    CoreLaws n (withdrawHomeWrites s) := by
  have left := h.withdraw Requester.isHomeWrite
  obtain ⟨staging, owner, index, claim, pin, ⟨h1, h2, h3, h4, -, h6⟩, count⟩ := left.buffer
  unfold Machine.withdrawHomeWrites
  dsimp only
  split
  · exact ⟨⟨staging.congr, owner.congr, index.congr, claim.congr, pin.congr,
      ⟨h1, h2, .inl rfl, h4, (fun hr => absurd hr hm), fun _ _ _ hc => by cases hc⟩, count.congr⟩, left.journal.congr⟩
  · refine ⟨⟨staging.congr, owner.congr, index.congr, claim.congr, pin.congr,
      ⟨h1, h2, h3, h4, (fun hr => absurd hr hm), fun hw e he hc v hv hx howns => ?_⟩, count.congr⟩, left.journal.congr⟩
    obtain ⟨hold, hlen⟩ := Bool.or_eq_false_iff.1 hw
    have all := filter_eq_of_length (of_decide_eq_false hlen)
    change v.num ∈ s.apply.outstanding.filter (homeWriteIssued s)
    rw [all]
    exact h6 hold e he hc v hv hx howns

/-! #### What entry to DRAINING leaves of the buffer and of what runs -/

/-- The scratch, the recovery and the format. -/
def runningParts (s : State) : Option (List (Nat × Line)) × Option Recovery × Option Format :=
  (s.staging.scratch, s.recovery, s.format)

theorem massAbortRecord_runs (s : State) (st : Stream) : runningParts (massAbortRecord s st) = runningParts s := by
  unfold massAbortRecord
  split <;> rfl

theorem recordsAborted_runs (s : State) (reason : Reason) : runningParts (recordsAborted s reason) = runningParts s := by
  have held (t : State) : runningParts ((heldWrites t).foldl (answerHeldAborted reason) t) = runningParts t :=
    foldl_unchanged (p := runningParts) (f := answerHeldAborted reason) (fun _ _ => rfl) _ t
  have records := foldl_unchanged (p := runningParts) massAbortRecord_runs allStreams s
  rw [recordsAborted]
  generalize allStreams.foldl massAbortRecord s = t at records ⊢
  exact (held t).trans records

theorem massAbortEntry_runs (cause : AbortCause) (s : State) (e : Entry) :
    runningParts (massAbortEntry cause s e) = runningParts s := by
  unfold massAbortEntry
  split
  · rfl
  · split
    · rfl
    · unfold endJournaling
      split <;> rfl
  · rfl
  · rfl

theorem massAbort_runs (s : State) : runningParts (massAbort s .powerfail) = runningParts s := by
  rw [massAbort_powerfail, entriesAborted]
  exact (foldl_unchanged (p := runningParts) (massAbortEntry_runs .powerfail) _ _).trans (recordsAborted_runs s _)

theorem endReads_runs (s : State) (es : List TrackerEntry) (x : Status) : runningParts (endReads s es x) = runningParts s := by
  suffices h : ∀ w : Work, runningParts (es.foldl (endRead x) w).s = runningParts w.s from h (Work.start s)
  induction es with
  | nil => exact fun _ => rfl
  | cons e es ih => exact fun w => (ih (endRead x w e)).trans rfl

theorem cancelReloc_runs (s : State) : runningParts (cancelReloc s) = runningParts s := by
  unfold cancelReloc
  split <;> rfl

theorem powerfailSettled_runs (s : State) : runningParts (powerfailSettled s) = runningParts s := by
  rw [powerfailSettled, withdrawHomeWrites_eq]
  obtain ⟨f, w, eq, -⟩ := answerQueues_fabric (powerfailed s) .powerfail
  rw [eq]
  have failed : runningParts (powerfailed s) = runningParts s := by
    rw [powerfailed, powerfailReads]
    generalize hm : massAbort (withdraw (cancelReloc s) Requester.isReloc) .powerfail = m
    refine (endReads_runs m _ _).trans ?_
    rw [← hm]
    exact (massAbort_runs _).trans (cancelReloc_runs s)
  generalize powerfailed s = p at failed ⊢
  generalize (withdrawHomeWrites _).apply = a
  exact failed

theorem answerQueues_modes (s : State) (x : Status) : (answerQueues s x).modes = s.modes := by
  obtain ⟨f, w, eq, -⟩ := answerQueues_fabric s x
  rw [eq]

/-- Entry to DRAINING from READY (R143). -/
theorem PartLaws.drainBegun (h : PartLaws s) (hm : s.modes.mode = .ready) : PartLaws (drainBegun s .ready) := by
  have core : CoreLaws (heldWrites s).length s := ⟨h.buffer, h.journal⟩
  have failed := powerfailed_spec s
  have queues : CoreLaws 0 (answerQueues (Machine.powerfailed s) .powerfail) := core.powerfailed.answerQueues _
  have mode : (answerQueues (Machine.powerfailed s) .powerfail).modes.mode = .ready := by
    rw [answerQueues_modes, failed.modes, hm]
  have begun : CoreLaws 0 (Machine.drainEntered (powerfailSettled s)) := by
    rw [powerfailSettled, withdrawHomeWrites_drainEntered]
    exact (queues.drainEntered mode).withdrawHomeWrites fun hm => by cases hm
  have settled := powerfailSettled_spec s
  have runs := powerfailSettled_runs s
  simp only [runningParts, Prod.mk.injEq] at runs
  obtain ⟨scratch, recovery, format⟩ := runs
  rw [drainBegun_ready]
  generalize powerfailSettled s = p at *
  change PartLaws (Machine.drainEntered p)
  have held : NoneHeld (Machine.drainEntered p) := settled.held
  rw [PartLaws, heldWrites_length_of_none held]
  refine ⟨begun.buffer, begun.journal, ⟨?_, ?_, fun ha => ?_, fun _ => rfl, fun hr => absurd settled.reloc hr,
    fun hr => absurd settled.reloc hr⟩, ⟨fun _ => ⟨held, settled.records⟩, fun _ ho => absurd rfl (ho rfl),
    fun _ e he => (settled.unsealed e he).2, (fun _ hf => by cases hf), ?_⟩,
    ⟨fun hr => absurd settled.reloc hr, fun _ => .inr rfl, fun hr => absurd settled.reloc hr⟩⟩
  · change p.recovery.isSome = true → _
    rw [recovery, h.recoveryNone (by simp [hm])]
    exact fun h => by cases h
  · change p.format.isSome = true → _
    rw [format, h.formatNone (by simp [hm])]
    exact fun h => by cases h
  · obtain ⟨r, hr, hp⟩ := List.any_eq_true.1 (show p.media.requests.any _ = true from ha)
    rw [settled.requests] at hr
    have := h.control.mode.2.2.1 (List.any_eq_true.2 ⟨r, List.mem_of_mem_filter hr, hp⟩)
    rw [hm] at this
    cases this
  · change p.staging.scratch.isSome = true → _
    rw [scratch, h.scratchNone (by simp [hm]) (by simp [hm])]
    exact fun h => by cases h

end Draining

end Sys2Proof.Machine

/-! PROOF. PFW_N in the other modes and the expiry of the drain budget, and the laws that hold together (R142, R146). -/

namespace Sys2Proof.Machine

/-! ### PFW_N in the other modes, and the expiry of the drain budget -/

section Warning

variable {s : State}

/-- No slot is in use and no read is tracked. -/
def NothingStored (s : State) : Prop := s.staging.slots = [] ∧ s.staging.index = [] ∧ s.reads = []

theorem NothingStored.abortQuietly (h : NothingStored s) (ns : List Nat) : NothingStored (abortQuietly s ns) := by
  obtain ⟨slots, index, reads⟩ := h
  refine ⟨?_, ?_, reads⟩
  · change s.staging.slots.filterMap _ = []
    rw [slots]
    rfl
  · change s.staging.index.filter _ = []
    rw [index]
    rfl

theorem NothingStored.massAbortRecord (h : NothingStored s) (st : Stream) : NothingStored (massAbortRecord s st) := by
  unfold Machine.massAbortRecord
  split
  · exact h
  · exact h
  · exact h.abortQuietly _

theorem NothingStored.massAbortEntry (h : NothingStored s) (e : Entry) : NothingStored (massAbortEntry .powerfail s e) := by
  unfold Machine.massAbortEntry
  split
  · exact h.abortQuietly _
  · exact h
  · exact h
  · exact h

theorem NothingStored.massAbort (h : NothingStored s) : NothingStored (massAbort s .powerfail) := by
  have records := foldl_invariant (p := NothingStored) (fun _ st h => NothingStored.massAbortRecord h st) allStreams h
  have aborted : NothingStored (recordsAborted s AbortCause.powerfail.reason) := by
    rw [recordsAborted]
    generalize allStreams.foldl Machine.massAbortRecord s = t at records ⊢
    exact foldl_invariant (p := NothingStored) (f := answerHeldAborted _) (fun _ _ h => h) (heldWrites t) records
  rw [massAbort_powerfail, entriesAborted]
  exact foldl_invariant (p := NothingStored) (fun _ e h => h.massAbortEntry e) _ aborted

theorem NothingStored.powerfailSettled (h : NothingStored s) : NothingStored (powerfailSettled s) := by
  have cancelled : NothingStored (withdraw (cancelReloc s) Requester.isReloc) := by
    unfold cancelReloc
    split <;> exact h
  have aborted := cancelled.massAbort
  rw [Machine.powerfailSettled, withdrawHomeWrites_eq, powerfailed, powerfailReads]
  generalize Machine.massAbort (withdraw (cancelReloc s) Requester.isReloc) .powerfail = m at aborted ⊢
  have none : m.reads.filter TrackerEntry.waiting = [] := by
    rw [aborted.2.2]
    rfl
  rw [none]
  obtain ⟨f, w, eq, -⟩ := answerQueues_fabric (withdraw (endReads m [] .powerfail) Requester.isHomeRead) .powerfail
  rw [eq]
  generalize (withdrawHomeWrites _).apply = a
  exact aborted

/-- The part as a drain from RECOVERING begins (R131, R143). -/
def recoveryStopped (p : State) : State := setMode (beginDrain (stopRecovery p) .recovering) .draining

theorem recoveryStopped_parts (p : State) :
    (recoveryStopped p).groups = p.groups ∧ (recoveryStopped p).staging = p.staging ∧ (recoveryStopped p).claims = p.claims
      ∧ (recoveryStopped p).reads = p.reads ∧ (recoveryStopped p).apply = p.apply ∧ (recoveryStopped p).journal = p.journal
      ∧ (recoveryStopped p).fabric = p.fabric ∧ (recoveryStopped p).format = p.format
      ∧ (recoveryStopped p).reloc = p.reloc := by
  rw [recoveryStopped, stopRecovery_eq]
  exact ⟨rfl, rfl, rfl, rfl, rfl, rfl, rfl, rfl, rfl⟩

theorem recoveryStopped_drains (p : State) :
    (recoveryStopped p).modes.mode = .draining ∧ (recoveryStopped p).drain.origin = some .recovering
      ∧ (recoveryStopped p).drain.finalRaised = false ∧ (recoveryStopped p).recovery = none := by
  rw [recoveryStopped, stopRecovery_eq]
  exact ⟨rfl, rfl, rfl, rfl⟩

theorem recoveryStopped_requests (p : State) :
    (recoveryStopped p).media.requests =
      p.media.requests.filter fun r => r.outstanding || !Requester.isRecovery r.requester := by
  rw [recoveryStopped, stopRecovery_eq]
  rfl

theorem HoldsNothing.stopped {p : State} (h : HoldsNothing p) (hq : namedRequesters p.media.requests = [])
    (hl : p.reloc.state = .none) (hf : p.format = none) : PartLaws (recoveryStopped p) := by
  obtain ⟨held, records, slots, index, queue, reads, engine, writer, taken, room, next, unapplied, -⟩ := h
  obtain ⟨eGroups, eStaging, eClaims, eReads, eApply, eJournal, eFabric, eFormat, eReloc⟩ := recoveryStopped_parts p
  obtain ⟨mode, origin, final, recovery⟩ := recoveryStopped_drains p
  have none : namedRequesters (recoveryStopped p).media.requests = [] :=
    List.sublist_nil.1 (hq ▸ recoveryStopped_requests p ▸ (List.filter_sublist.map _).filter _)
  generalize recoveryStopped p = b at *
  have noRequest {q : Requester → Bool} (hp : ∀ x, q x = true → x.isNamed = true) : anyRequest b q = false := by
    rw [anyRequest_eq _ hp, none]
    rfl
  have reloc : b.reloc.state = .none := by rw [eReloc, hl]
  have begun : HoldsNothing b := by
    refine ⟨?_, fun st => ?_, ?_, ?_, ?_, ?_, ?_, ?_, ?_, ?_, ?_, ?_, ?_⟩
    · rwa [NoneHeld, eClaims, eStaging]
    · rw [recordOf, eGroups]
      exact records st
    · rwa [eStaging]
    · rwa [eStaging]
    · rwa [eGroups]
    · rwa [eReads]
    · rwa [eApply]
    · rwa [eJournal]
    · rwa [eFabric]
    · rwa [eFabric]
    · rwa [eJournal]
    · rwa [eJournal]
    · rw [none]
      exact fun q hq => by cases hq
  refine begun.partLaws (begun.laws ⟨?_, ?_, ?_, fun _ => mode, fun hr => absurd reloc hr, fun hr => absurd reloc hr⟩
    ⟨fun hr => absurd reloc hr, fun _ => .inr mode, fun hr => absurd reloc hr⟩ (fun _ => .inr mode) (fun _ hf => ?_)
    fun hu => ?_)
  · rw [recovery]
    exact fun h => by cases h
  · rw [eFormat, hf]
    exact fun h => by cases h
  · rw [noRequest fun _ => isNamed_of_isFormat]
    exact fun h => by cases h
  · rw [final] at hf
    cases hf
  · rw [journalInUse_iff, mode, origin, inFinal, recovery] at hu
    rcases hu with hu | ⟨-, hu⟩ | hu <;> cases hu

/-- Entry to DRAINING from RECOVERING (R143). -/
theorem InRecovery.drainBegun (h : InRecovery s) : PartLaws (drainBegun s .recovering) := by
  have laws := h.partLaws
  obtain ⟨nothing, unnamed, mode, reloc, withdrawn, format, -⟩ := h
  have core : CoreLaws (heldWrites s).length s := ⟨laws.buffer, laws.journal⟩
  have settled := powerfailSettled_spec s
  obtain ⟨slots, index, reads⟩ := NothingStored.powerfailSettled ⟨nothing.slots, nothing.index, nothing.reads⟩
  have runs := powerfailSettled_runs s
  have queues : CoreLaws 0 (answerQueues (powerfailed s) .powerfail) := core.powerfailed.answerQueues _
  have answered : CoreLaws 0 (powerfailSettled s) := by
    refine queues.withdrawHomeWrites ?_
    rw [answerQueues_modes, (powerfailed_spec s).modes, mode]
    decide
  rw [drainBegun_recovering]
  generalize powerfailSettled s = p at *
  simp only [runningParts, Prod.mk.injEq] at runs
  obtain ⟨-, -, sameFormat⟩ := runs
  have queue : p.groups.queue = [] := by
    rw [List.eq_nil_iff_forall_not_mem]
    intro e he
    have := (settled.unsealed e he).1
    rw [nothing.queue] at this
    cases this
  have left : namedRequesters p.media.requests = [] := by
    rw [settled.requests]
    exact List.sublist_nil.1 (unnamed ▸ (List.filter_sublist.map _).filter _)
  have taken : p.fabric.takenUnanswered = 0 := by
    rw [answered.buffer.count.taken, reads, owedEntries, queue]
    rfl
  refine HoldsNothing.stopped ⟨settled.held, settled.records, slots, index, queue, reads, ?_, ?_, taken, ?_,
    answered.journal.sequence.1, answered.journal.sequence.2.1, ?_⟩ left settled.reloc (sameFormat.trans format)
  · refine answered.buffer.home.2.2.1.resolve_right ?_
    rintro ⟨e, he, -⟩
    rw [queue] at he
    cases he
  · exact (congrArg Journal.writer settled.journal).trans nothing.writer
  · have room := answered.buffer.count.room
    omega
  · rw [left]
    exact fun q hq => by cases hq

/-- PFW_N is asserted (R142). -/
theorem PartLaws.takeWarning (h : PartLaws s) : PartLaws (takeWarning s) := by
  unfold Machine.takeWarning
  split
  · rename_i hm
    exact h.bareHalted (by simp [hm]) (by simp [hm]) (h.unnamed (by simp [hm]) (by simp [hm]) (by simp [hm])) _
  · rename_i hm
    split
    · exact h
    · exact (h.inFormat hm).interrupt
  · rename_i hm
    rw [enterDraining_eq]
    exact (h.inRecovery hm).drainBegun.drainTest
  · rename_i hm
    rw [enterDraining_eq]
    exact (h.drainBegun hm).drainTest
  · rename_i hm
    exact h.bareHalted (by simp [hm]) (by simp [hm]) (h.unnamed (by simp [hm]) (by simp [hm]) (by simp [hm])) _
  · exact h
  · exact h

/-! #### The expiry of the budget -/

theorem budgetSpent_rest (s : State) : (budgetSpent s).claims = s.claims ∧ (budgetSpent s).reloc = s.reloc := by
  have ended := endWriterGroup_ends s
  have claims : (endWriterGroup s).claims = s.claims := by
    unfold endWriterGroup
    split
    · rfl
    · have rest := (endJournaling_lists s ‹Entry› .powerfail).2
      simp only [entryRest, Prod.mk.injEq] at rest
      exact rest.2.1
  rw [budgetSpent]
  generalize endWriterGroup s = x at ended claims ⊢
  have read := endReads_ends .powerfail (abandonAll x).reads (abandonAll x)
  have rest := endReads_rest .powerfail (abandonAll x).reads (abandonAll x)
  generalize endReads (abandonAll x) (abandonAll x).reads .powerfail = y at read rest ⊢
  obtain ⟨u, dropped, droppedRest, -, hdrop⟩ := dropPosted_eq y
  rw [hdrop]
  simp only [readRest, Prod.mk.injEq] at rest droppedRest
  exact ⟨droppedRest.2.1.trans (rest.2.1.trans claims), dropped.reloc.trans (read.reloc.trans ended.reloc)⟩

/-- With the writer's entry ended, the entries left are owed COMMITTED, and the other taken requests are answered. -/
theorem PartLaws.owedAfterWriter (h : PartLaws s) (hm : s.modes.mode = .draining) :
    s.fabric.takenUnanswered = (journalingEntry s).toList.length + s.reads.length
      + ((s.groups.queue.filter fun e => (journalingEntry s).all fun x => e.serial != x.serial).flatMap owedAnswer).length := by
  have notReady : s.modes.mode ≠ .ready := by simp [hm]
  have taken := h.buffer.count.taken
  rw [heldWrites_length_of_none (h.control.contents.1 notReady).1, Nat.zero_add] at taken
  have unsealed := h.control.contents.2.2.1 hm
  rw [taken]
  cases he : journalingEntry s with
  | none =>
    have all : (s.groups.queue.filter fun e => (none : Option Entry).all fun x => e.serial != x.serial) = s.groups.queue :=
      List.filter_eq_self.2 fun _ _ => rfl
    rw [all, owedAnswer_length fun e hmem => ⟨unsealed e hmem, fun hx => ?_⟩, owedEntries]
    · simp
    · exact List.find?_eq_none.1 he e hmem (by simp [hx])
  | some x =>
    obtain ⟨hmem, hx⟩ := mem_of_journalingEntry he
    have rest : (s.groups.queue.filter fun e => (some x).all fun y => e.serial != y.serial) = queueWithout s x := rfl
    have count := countP_queueWithout h.buffer.count.serials hmem fun e => !e.answered
    rw [h.buffer.count.unanswered x hmem (.inr hx), Bool.not_false, if_pos rfl] at count
    rw [rest, owedAnswer_length fun e hin => ?_, owedEntries, count]
    · simp only [Option.toList_some, List.length_singleton]
      omega
    · obtain ⟨hq, hne⟩ := mem_queueWithout.1 hin
      exact ⟨unsealed e hq, fun hj => hne (congrArg Entry.serial (h.journal.writer.journaling_unique hq hmem hj hx))⟩

theorem PartLaws.expireDrain (h : PartLaws s) (hm : s.modes.mode = .draining) : PartLaws (expireDrain s) := by
  have notReady : s.modes.mode ≠ .ready := by simp [hm]
  have spent := budgetSpent_spec s
  obtain ⟨claims, reloc⟩ := budgetSpent_rest s
  have owed := h.owedAfterWriter hm
  have room := h.buffer.count.room
  have expired : Machine.expireDrain s = enterHalted (budgetSpent s) .incomplete := rfl
  rw [expired]
  generalize budgetSpent s = a at *
  have length : ((journalingEntry s).toList.map (writerAnswer s.media.requests .powerfail)
      ++ s.reads.map fun e => plainAnswer e.stream e.tag .powerfail).length
        = (journalingEntry s).toList.length + s.reads.length := by simp
  have taken : a.fabric.takenUnanswered = (a.groups.queue.flatMap owedAnswer).length := by
    rw [spent.fabric, spent.queue, fabricAfter, length]
    simp only
    omega
  refine enterHalted_partLaws .incomplete ?_ taken ?_ ?_ ?_ (by rw [spent.requests]; rfl) ?_
  · rw [claims]
    exact (h.control.contents.1 notReady).1.1
  · rw [spent.fabric, fabricAfter]
    simp only [List.length_append] at length ⊢
    omega
  · rw [spent.journal]
    exact h.journal.sequence.1
  · rw [spent.journal]
    exact h.journal.sequence.2.1
  · rw [reloc]
    exact h.relocNone notReady

theorem PartLaws.expireBudget (h : PartLaws s) : PartLaws (expireBudget s) := by
  unfold Machine.expireBudget
  split
  · exact h.expireDrain ‹_›
  · rename_i hm
    split
    · have left : PartLaws (abandonAll s) := (Laws.fewer (m := (abandonAll s).media) h (List.nil_sublist _)).part ⟨rfl, rfl⟩
      refine left.bareHalted ?_ ?_ rfl _
      · change s.modes.mode ≠ .ready
        simp [hm]
      · change s.modes.mode = .draining → _
        simp [hm]
    · exact h
  all_goals exact h

end Warning

end Sys2Proof.Machine

/-! PROOF. The outcomes of requests, the fabric port and the registers, and the laws that hold together (R154, R159, R165).
-/

namespace Sys2Proof.Machine

/-! ### The outcomes of requests -/

section Outcomes

variable {s : State} {t : MediaTag} {r : MediaReq} {q : Requester}

theorem issuedAt_spec (h : issuedAt s t = some r) : r ∈ s.media.requests ∧ r.tag? = some t := by
  refine ⟨List.mem_of_find?_eq_some h, ?_⟩
  have issued : r.issuedUnder t = true := List.find?_some h
  unfold MediaReq.issuedUnder at issued
  unfold MediaReq.tag?
  split at issued
  · rename_i heq
    rw [heq, beq_iff_eq.1 issued]
  · cases issued
  · cases issued

/-- A request that leaves the port is one less of its kind. -/
theorem countP_dropTag (h : issuedAt s t = some r) {p : MediaReq → Bool} (hp : p r = true) :
    (dropTag s t).media.requests.countP p + 1 ≤ s.media.requests.countP p := by
  obtain ⟨hmem, htag⟩ := issuedAt_spec h
  have split := List.countP_eq_countP_filter_add s.media.requests p fun x => x.tag? != some t
  have gone : 0 < (s.media.requests.filter fun x => !(x.tag? != some t)).countP p :=
    List.countP_pos_iff.2 ⟨r, List.mem_filter.2 ⟨hmem, by simp [htag]⟩, hp⟩
  change (s.media.requests.filter fun x => x.tag? != some t).countP p + 1 ≤ _
  omega

theorem anyRequest_of_issued (h : issuedAt s t = some r) {p : Requester → Bool} (hp : p r.requester = true) :
    anyRequest s p = true := List.any_eq_true.2 ⟨r, (issuedAt_spec h).1, hp⟩

theorem namedRequesters_dropTag (s : State) (t : MediaTag) :
    (namedRequesters (dropTag s t).media.requests).Sublist (namedRequesters s.media.requests) :=
  (List.filter_sublist.map _).filter _

theorem count_homeSlots (s : State) (n : Nat) :
    (homeSlots s).count n = s.media.requests.countP fun r => r.requester.homeSlot? == some n := by
  have slots : homeSlots s = s.media.requests.filterMap fun r => r.requester.homeSlot? :=
    List.filterMap_congr fun r _ => by cases r.requester <;> rfl
  rw [slots, List.count_filterMap]

/-- What is known when the final outcome of a request of `q` has freed its tag. -/
structure Freed (s : State) (q : Requester) : Prop where
  laws : PartLaws s
  held : HeldLaw s
  depth : s.groups.queue.length ≤ Config.commitDepth
  record : q.isJournalLine = true → anyRequest s (· == .commitLine) = false
  commit : q = .commitLine → LinesGone s
  home : ∀ n, q = .homeWrite n → n ∉ homeSlots s ∧ ∃ v ∈ s.staging.slots, v.num = n ∧ v.state = .applying
  reloc : q = .relocLine → s.reloc.state ≠ .none → targetUnissued s = false
  format : q = .formatLine → s.modes.mode = .formatting

theorem LinesGone.dropTag (h : WriterLaw s) (hi : issuedAt s t = some r) (hq : r.requester = .commitLine) :
    LinesGone (dropTag s t) := by
  obtain ⟨-, lines, commit, one⟩ := h
  have there : anyRequest s (· == .commitLine) = true := anyRequest_of_issued hi (by simp [hq])
  refine ⟨commit there, ?_, ?_⟩
  · refine anyRequest_anti (namedRequesters_dropTag s t) (fun _ => isNamed_of_isJournalLine) ?_
    refine Bool.eq_false_iff.2 fun hl => ?_
    rw [(lines hl).2] at there
    cases there
  · have less := countP_dropTag hi (p := fun x => x.requester == .commitLine) (by simp [hq])
    have none : (Machine.dropTag s t).media.requests.countP (fun x => x.requester == .commitLine) = 0 := by omega
    exact List.any_eq_false.2 (List.countP_eq_zero.1 none)

theorem PartLaws.freed (h : PartLaws s) (hl : HeldLaw s) (hd : DepthLaw s) (hi : issuedAt s t = some r) :
    Freed (dropTag s t) r.requester where
  laws := (Laws.dropTag h t).part ⟨rfl, rfl⟩
  held := hl
  depth := hd.1
  record hq := anyRequest_anti (namedRequesters_dropTag s t) (fun _ => isNamed_of_commitLine)
    (h.journal.writer.2.1 (anyRequest_of_issued hi hq)).2
  commit hq := .dropTag h.journal.writer hi hq
  home n hq := by
    obtain ⟨one, slot, -⟩ := h.buffer.home
    have less := countP_dropTag hi (p := fun x => x.requester.homeSlot? == some n) (by simp [hq, Requester.homeSlot?])
    have once := List.nodup_iff_count_le_one.1 one n
    rw [← count_homeSlots, ← count_homeSlots] at less
    exact ⟨List.count_eq_zero.1 (by omega), slot n (List.count_pos_iff.1 (by omega))⟩
  reloc hq hr := by
    have issued := h.control.target.2.2 hr (anyRequest_of_issued hi (by simp [hq, Requester.isRelocLine]))
    refine List.any_eq_false.2 fun p hp hx => ?_
    obtain ⟨unissued, inside⟩ := Bool.and_eq_true_iff.1 hx
    have outside := issued p hp (by simpa using unissued)
    rw [show s.reloc.target.contains p.line = true from inside] at outside
    cases outside
  format hq := h.control.mode.2.2.1 (anyRequest_of_issued hi (by simp [hq, Requester.isFormat]))

/-- An outcome keeps the laws when each requester's act does. -/
theorem PartLaws.onOutcome {act : Requester → Option (State → State)} (h : PartLaws s) (hl : HeldLaw s) (hd : DepthLaw s)
    (ha : ∀ q f u, act q = some f → Freed u q → PartLaws (f u)) : PartLaws (onOutcome s t act) := by
  unfold Machine.onOutcome
  split
  · exact h
  · rename_i r hi
    split
    · exact h
    · exact ha _ _ _ ‹_› (h.freed hl hd hi)

theorem Freed.failedOutcome (h : Freed s q) : PartLaws (failedOutcome s q) := by
  cases q with
  | homeRead serial => exact h.laws.homeReadFailed h.held serial
  | posted serial => exact h.laws.postedFailed serial
  | journalLine _ => exact h.laws.journalLineFailed h.held (h.record rfl)
  | commitLine => exact h.laws.commitLineFailed
  | homeWrite _ => exact h.laws.enterFaulted
  | replayWrite _ => exact h.laws.enterFaulted
  | checkpoint => exact h.laws.checkpointFailed
  | formatLine => exact (h.laws.inFormat (h.format rfl)).lineFailed
  | relocLine => exact h.laws.relocLineFailed (h.reloc rfl)
  | retiringSb slot => exact h.laws.retiringFailed slot
  | restoringSb _ => exact h.laws.restoringFailed
  | superblockRead _ => exact h.laws.recoveryReadFailed
  | headerRead => exact h.laws.recoveryReadFailed
  | recordRead _ => exact h.laws.recoveryReadFailed

theorem PartLaws.mediaRetry (h : PartLaws s) (hl : HeldLaw s) (hd : DepthLaw s) {u : State}
    (he : execMediaRetry t s = .next u) : PartLaws u := by
  cases he
  split
  · exact h
  · rename_i r hi
    split
    · exact (Laws.waitRetry h t).part ⟨rfl, rfl⟩
    · exact (h.freed hl hd hi).failedOutcome

theorem PartLaws.recoveryMediaFail (h : PartLaws s) (hl : HeldLaw s) (hd : DepthLaw s) {u : State}
    (he : execRecoveryMediaFail t s = .next u) : PartLaws u := by
  cases he
  refine h.onOutcome hl hd fun q f v hf k => ?_
  split at hf
  · cases hf; exact k.laws.recoveryReadFailed
  · cases hf; exact k.laws.recoveryReadFailed
  · cases hf; exact k.laws.recoveryReadFailed
  · cases hf; exact k.laws.enterFaulted
  · split at hf
    · cases hf; exact k.laws.checkpointFailed
    · cases hf
  · cases hf

end Outcomes

/-! ### The fabric port's arrivals and responses, and registers -/

section Ports

variable {s t : State}

theorem PartLaws.settleHeldAnswers (h : PartLaws s) : PartLaws (settleHeldAnswers s) :=
  (Laws.settleHeldAnswers h).part (settleHeldAnswers_sameHeld s)

theorem PartLaws.arrival (h : PartLaws s) (r : Request) (he : execRequestArrival r s = .next t) : PartLaws t := by
  have appended : PartLaws (appendArrival s r) := h.congr
  cases he
  split
  · exact h
  · split
    · exact appended.settleHeldAnswers
    · exact appended

theorem PartLaws.sendHead (h : PartLaws s) : PartLaws (sendHead s) := by
  have room := h.buffer.count.room
  unfold Machine.sendHead
  split
  · exact h
  · rename_i r rs heq
    rw [heq, List.length_cons] at room
    have sent : Laws (heldWrites s).length { s with fabric := { s.fabric with egress := rs } } :=
      Laws.recount h rfl (by simp only; omega)
    exact (sent.part ⟨rfl, rfl⟩).congr

theorem PartLaws.responseSend (h : PartLaws s) (he : execResponseSend s = .next t) : PartLaws t := by
  cases he
  split
  · exact h
  · exact h.sendHead.settleHeldAnswers

/-- Idle deadlines are no part of a law. -/
theorem PartLaws.removeDeadlines (h : PartLaws s) : PartLaws (removeDeadlines s) := by
  have record (st : Stream) : recordOf (Machine.removeDeadlines s) st = (recordOf s st).noDeadline := by
    simp [recordOf, Machine.removeDeadlines, PerStream.read]
  have slots (x : GroupRecord) : x.noDeadline.slots = x.slots := by cases x <;> rfl
  obtain ⟨⟨staging, owner, index, claim, pin, home, count⟩, journal, mode, ⟨c1, c2, c3, c4, c5⟩, target⟩ := h
  refine ⟨⟨staging.congr, owner.records fun st => ?_, index.congr, claim.congr, pin.congr, home.congr, count.congr⟩,
    journal.congr, mode.congr, ⟨fun hm => ⟨(c1 hm).1, fun st => ?_⟩, c2, c3, c4, c5⟩, target.congr⟩
  · rw [record, slots]
  · rw [record, (c1 hm).2 st]
    rfl

theorem PartLaws.idleTimeoutWrite (h : PartLaws s) (v : Word) (he : execIdleTimeoutWrite v s = .next t) : PartLaws t := by
  have set (n : Nat) : PartLaws (setIdleTimeout s n) := h.congr
  cases he
  split
  · exact h
  · split
    · exact (set 0).removeDeadlines
    · exact set _

theorem PartLaws.writeRanged (h : PartLaws s) (low high : Nat) (v : Word) (r : Regs) : PartLaws (writeRanged s low high v r) := by
  unfold Machine.writeRanged
  split
  · exact h.congr
  · exact h

theorem PartLaws.writeRegister (h : PartLaws s) (i : BitVec 8) (v : Word) : PartLaws (writeRegister s i v) := by
  unfold Machine.writeRegister
  split
  · exact h.congr
  · unfold writePlain
    split
    case h_12 =>
      unfold writeDefaultKind
      split <;> exact h.congr
    case h_1 | h_2 | h_3 | h_4 | h_13 => exact h.congr
    all_goals exact h.writeRanged _ _ _ _

end Ports

end Sys2Proof.Machine

/-! PROOF. Every step keeps the laws that hold together, and what they say together (O60). -/

namespace Sys2Proof.Machine

/-! ### The commands -/

section Commands

variable {s t : State}

theorem PartLaws.accept (h : PartLaws s) : PartLaws (accept s) := h.congr

theorem PartLaws.reject (h : PartLaws s) : PartLaws (reject s) := h.congr

theorem PartLaws.samplePfw (h : PartLaws s) (b : Bool) : PartLaws (samplePfw s b) := h.congr

theorem PartLaws.startProcedure {run : State → State} (h : PartLaws s) (hr : PartLaws (run (Machine.accept s))) :
    PartLaws (startProcedure s run) := by
  unfold Machine.startProcedure
  split
  · exact hr
  · exact h.accept.congr

theorem PartLaws.execStart (h : PartLaws s) (he : execStart s = .next t) : PartLaws t := by
  cases he
  split
  · rename_i hm
    exact h.startProcedure (h.accept.start hm)
  · exact h.reject

theorem PartLaws.execFormat (h : PartLaws s) (he : execFormat s = .next t) : PartLaws t := by
  cases he
  split
  · rename_i hm
    exact h.startProcedure (h.accept.enterFormatting hm)
  · exact h.reject

theorem PartLaws.execRestart (h : PartLaws s) (he : execRestart s = .next t) : PartLaws t := by
  cases he
  split
  · rename_i hm
    refine h.startProcedure (h.accept.restartPart ?_)
    change s.modes.mode ≠ .formatting
    rcases hm with hm | hm <;> simp [hm]
  · exact h.reject

theorem PartLaws.execResume (h : PartLaws s) {b : Bool} (he : execResume b s = .next t) : PartLaws t := by
  have sampled := h.samplePfw b
  cases he
  split
  · rename_i hm
    exact sampled.startProcedure (sampled.accept.resumePart hm.1)
  · exact sampled.reject

theorem PartLaws.execRelocGo (h : PartLaws s) (he : execRelocGo s = .next t) : PartLaws t := by
  cases he
  split
  · exact h.relocGo ‹_›
  all_goals exact h.reject

theorem PartLaws.execRelocCancel (h : PartLaws s) (he : execRelocCancel s = .next t) : PartLaws t := by
  cases he
  split
  · exact h.relocCancel (.inl ‹_›)
  · exact h.relocCancel (.inr ‹_›)
  all_goals exact h.reject

theorem PartLaws.relocRequest (h : PartLaws s) {k : BitVec 5} {b : Bool} (he : execRelocRequest k b s = .next t) :
    PartLaws t := by
  have written : PartLaws (writeRelocCtrl s k b) := h.congr
  cases he
  split
  · exact written.acceptReloc ‹_›
  · exact written.reject

theorem PartLaws.mediaIssue (h : PartLaws s) (he : execMediaIssue s = .next t) : PartLaws t := by
  cases he
  split
  · exact h
  · split
    · exact h
    · exact h.issueGranted ‹_›

theorem PartLaws.execIdleExpiry (h : PartLaws s) (hl : HeldLaw s) {st : Stream} (he : execIdleExpiry st s = .next t) :
    PartLaws t := by
  cases he
  split
  · exact h.idleExpiry hl ‹_›
  · exact h

theorem PartLaws.execConflictExpiry (h : PartLaws s) (hl : HeldLaw s) {st : Stream}
    (he : execConflictExpiry st s = .next t) : PartLaws t := by
  cases he
  split
  · exact h
  · exact h.conflictExpiry hl ‹_›

theorem PartLaws.ite {p : Prop} [Decidable p] {u : State} (h : p → PartLaws t) (k : ¬p → PartLaws u) :
    PartLaws (if p then t else u) := by
  split
  · exact h ‹_›
  · exact k ‹_›

/-- Every command but HARD_RESET keeps the laws of the parts. -/
theorem PartLaws.exec {c : Instr} (h : PartLaws s) (hl : HeldLaw s) (hd : DepthLaw s) (hf : FreshSerial s)
    (hc : ∀ b, c ≠ .hardReset b) (he : exec c s = .next t) : PartLaws t := by
  cases c with
  | hardReset b => exact absurd rfl (hc b)
  | requestArrival r => exact h.arrival r he
  | takeRead => cases he; exact h.takeOf hl hf fun _ _ k _ => k.actRead
  | takeWrite => cases he; exact h.takeOf hl hf fun _ _ k _ => k.actWrite
  | commit => cases he; exact h.takeOf hl hf fun _ _ k hk => k.actCommit hk
  | discard => cases he; exact h.takeOf hl hf fun _ _ k _ => k.actDiscard
  | responseSend => exact h.responseSend he
  | idleExpiry st => exact h.execIdleExpiry hl he
  | conflictExpiry st => exact h.execConflictExpiry hl he
  | mediaIssue => exact h.mediaIssue he
  | mediaRetry x => exact h.mediaRetry hl hd he
  | staleResponse x y => cases he; exact h
  | mediaTimeout x => cases he; exact .ite (fun _ => h.enterFaulted) fun _ => h
  | homeReadReturn x d =>
    cases he
    refine h.onOutcome hl hd fun q f u ha k => ?_
    split at ha <;> cases ha
    exact k.laws.homeReadReturned k.held _ _
  | homeReadFail x =>
    cases he
    refine h.onOutcome hl hd fun q f u ha k => ?_
    split at ha <;> cases ha
    exact k.laws.homeReadFailed k.held _
  | postedWriteOk x =>
    cases he
    refine h.onOutcome hl hd fun q f u ha k => ?_
    split at ha <;> cases ha
    exact k.laws.postedAcked _
  | postedWriteFail x =>
    cases he
    refine h.onOutcome hl hd fun q f u ha k => ?_
    split at ha <;> cases ha
    exact k.laws.postedFailed _
  | journalLineOk x =>
    cases he
    refine h.onOutcome hl hd fun q f u ha k => ?_
    split at ha <;> cases ha
    exact k.laws.journalLineAcked k.held (k.record rfl)
  | journalLineFail x =>
    cases he
    refine h.onOutcome hl hd fun q f u ha k => ?_
    split at ha <;> cases ha
    exact k.laws.journalLineFailed k.held (k.record rfl)
  | commitLineOk x =>
    cases he
    refine h.onOutcome hl hd fun q f u ha k => ?_
    split at ha <;> cases ha
    exact k.laws.commitLineAcked k.held k.depth (k.commit rfl)
  | commitLineFail x =>
    cases he
    refine h.onOutcome hl hd fun q f u ha k => ?_
    split at ha <;> cases ha
    exact k.laws.commitLineFailed
  | homeWriteOk x =>
    cases he
    refine h.onOutcome hl hd fun q f u ha k => ?_
    split at ha <;> cases ha
    obtain ⟨gone, slot⟩ := k.home _ rfl
    exact k.laws.homeWriteAcked k.held k.depth gone slot
  | homeWriteFail x =>
    cases he
    refine h.onOutcome hl hd fun q f u ha k => ?_
    split at ha <;> cases ha
    exact k.laws.enterFaulted
  | checkpointOk x =>
    cases he
    refine h.onOutcome hl hd fun q f u ha k => ?_
    split at ha <;> cases ha
    exact k.laws.checkpointAcked
  | checkpointFail x =>
    cases he
    refine h.onOutcome hl hd fun q f u ha k => ?_
    split at ha <;> cases ha
    exact k.laws.checkpointFailed
  | formatLineOk x =>
    cases he
    refine h.onOutcome hl hd fun q f u ha k => ?_
    split at ha <;> cases ha
    exact (k.laws.inFormat (k.format rfl)).lineAcked
  | formatLineFail x =>
    cases he
    refine h.onOutcome hl hd fun q f u ha k => ?_
    split at ha <;> cases ha
    exact (k.laws.inFormat (k.format rfl)).lineFailed
  | relocLineOk x =>
    cases he
    refine h.onOutcome hl hd fun q f u ha k => ?_
    split at ha <;> cases ha
    exact k.laws.relocLineAcked (k.reloc rfl)
  | relocLineFail x =>
    cases he
    refine h.onOutcome hl hd fun q f u ha k => ?_
    split at ha <;> cases ha
    exact k.laws.relocLineFailed (k.reloc rfl)
  | retiringSbOk x =>
    cases he
    refine h.onOutcome hl hd fun q f u ha k => ?_
    split at ha <;> cases ha
    exact k.laws.retiringAcked
  | retiringSbFail x =>
    cases he
    refine h.onOutcome hl hd fun q f u ha k => ?_
    split at ha <;> cases ha
    exact k.laws.retiringFailed _
  | restoringSbOk x =>
    cases he
    refine h.onOutcome hl hd fun q f u ha k => ?_
    split at ha <;> cases ha
    exact k.laws.restoringAcked _
  | restoringSbFail x =>
    cases he
    refine h.onOutcome hl hd fun q f u ha k => ?_
    split at ha <;> cases ha
    exact k.laws.restoringFailed
  | superblockReadOk x d =>
    cases he
    refine h.onOutcome hl hd fun q f u ha k => ?_
    split at ha <;> cases ha
    exact k.laws.superblockRead _ _
  | headerReadOk x d =>
    cases he
    refine h.onOutcome hl hd fun q f u ha k => ?_
    split at ha <;> cases ha
    exact k.laws.headerRead _
  | recordReadOk x d =>
    cases he
    refine h.onOutcome hl hd fun q f u ha k => ?_
    split at ha <;> cases ha
    exact k.laws.recordRead _ _
  | replayWriteOk x =>
    cases he
    refine h.onOutcome hl hd fun q f u ha k => ?_
    split at ha <;> cases ha
    exact k.laws.replayAcked
  | recoveryMediaFail x => exact h.recoveryMediaFail hl hd he
  | linkResetAck => cases he; exact .ite (fun _ => h.linkResetAck) fun _ => h
  | linkResetTimeout => cases he; exact .ite (fun _ => h.enterFaulted) fun _ => h
  | pfwAssert => cases he; exact (h.samplePfw true).takeWarning
  | drainBudgetExpiry => cases he; exact .ite (fun _ => h.expireBudget) fun _ => h
  | start => exact h.execStart he
  | format => exact h.execFormat he
  | restart => exact h.execRestart he
  | resume b => exact h.execResume he
  | relocGo => exact h.execRelocGo he
  | relocCancel => exact h.execRelocCancel he
  | clearCounters => cases he; exact h.congr
  | unknownCommand v => cases he; exact .ite (fun _ => h) fun _ => h.reject
  | relocRequest k b => exact h.relocRequest he
  | eventFlagsClear v => cases he; exact h.congr
  | eventEnableWrite v => cases he; exact h.congr
  | idleTimeoutWrite v => exact h.idleTimeoutWrite v he
  | read48Low r => cases he; cases r <;> exact h.congr
  | registerWrite i v => cases he; exact .ite (fun _ => h) fun _ => h.writeRegister i v

/-- HARD_RESET. -/
theorem partLaws_resetWith (cs : List Instr) (b : Bool) : PartLaws (resetWith cs b) :=
  PartLaws.congr ((sharedLaws_iff _).1 sharedLaws_reset).1

theorem partLaws_hardReset {b : Bool} (he : Machine.exec (.hardReset b) s = .next t) : PartLaws t := by
  have reset := partLaws_resetWith s.pending b
  cases he
  refine .ite (fun _ => reset.bareHalted ?_ ?_ rfl .complete) fun _ => reset
  · exact fun h => by cases h
  · exact fun h => by cases h

/-- A step keeps the laws of the parts. -/
theorem PartLaws.step (h : PartLaws s) (hl : HeldLaw s) (hd : DepthLaw s) (hf : FreshSerial s) (he : step s = .next t) :
    PartLaws t := by
  unfold Machine.step at he
  split at he
  · cases he
    exact h.congr
  · rename_i c rest _
    have popped : PartLaws (s.withPending rest) := h.congr
    by_cases hc : ∃ b, c = .hardReset b
    · obtain ⟨b, rfl⟩ := hc
      exact partLaws_hardReset he
    · exact popped.exec hl hd hf (fun b hb => hc ⟨b, hb⟩) he

end Commands

/-! ### What the laws say together -/

section Consequences

variable {s : State}

theorem slotsInUse_le (hs : StagingLaw s) (hc : ContentsLaw s) : slotsInUse s ≤ Config.slotCount := by
  unfold slotsInUse
  split
  · rename_i held
    rw [(hc.2.2.2.2 held).1]
    decide
  · exact hs.length_le

/-- A slot without an owner is pinned by a read. -/
theorem listed_of_unowned (ho : OwnerLaw s) (hf : FreeingLaw s) (hp : PinLaw s) {v : Slot} (hv : v ∈ s.staging.slots)
    (hn : v.owner = none) : ∃ e ∈ s.reads, v.num ∈ e.pinned := by
  have owned := ho.2.2 v hv
  split at owned
  · exact hp.listed hv (hf v hv ‹_›)
  · rcases owned with ⟨st, owns, -⟩ | ⟨e, -, -, owns, -⟩
    · rw [hn] at owns
      cases owns
    · rw [hn] at owns
      cases owns

theorem SequenceLaw.ordered (h : SequenceLaw s) (ha : s.journal.appliedThrough.toNat + 33 < 2 ^ 48) :
    s.journal.appliedThrough.toNat ≤ s.journal.durableThrough.toNat
      ∧ s.journal.durableThrough.toNat < s.journal.nextSeq.toNat := by
  obtain ⟨d, hd, durable⟩ := h.durable_eq ha
  have next : s.journal.nextSeq.toNat = s.journal.durableThrough.toNat + 1 := by
    rw [h.1, BitVec.toNat_add, Nat.mod_eq_of_lt]
    · rfl
    · change s.journal.durableThrough.toNat + 1 < 2 ^ 48
      omega
  omega

/-- Settles O60: every part of an event keeps the laws that hold together, each with the others' help, and they bound the
buffer, the answers, the claims, the pins and the sequences. -/
theorem stepsKeepTheSharedLaws : Obligations.StepsKeepTheSharedLaws := by
  refine ⟨fun s t he hf hd h => ?_, fun s h => ?_⟩
  · obtain ⟨laws, held, freeing⟩ := (sharedLaws_iff s).1 h
    obtain ⟨keepsHeld, keepsFreeing⟩ := step_calm he
    exact (sharedLaws_iff t).2 ⟨PartLaws.step laws held hd hf he, keepsHeld held, keepsFreeing laws.buffer.staging freeing⟩
  · obtain ⟨⟨buffer, journal, control⟩, -, freeing⟩ := (sharedLaws_iff s).1 h
    refine ⟨slotsInUse_le buffer.staging control.contents, buffer.count.room, fun v hv st hst => ?_, fun hm => ?_,
      fun v hv hn => listed_of_unowned buffer.owner freeing buffer.pin hv hn,
      fun hd v hv => (buffer.pin.pins_le hv).trans hd.2.2, journal.sequence.ordered⟩
    · exact claimant_of_claims buffer.index buffer.staging buffer.claim hv hst
    · exact (journal.space (.inl hm)).1

end Consequences

end Sys2Proof.Machine
